-- ==== Sys2Proof/Word.lean ====
section
/-! DEFINITION. Word.lean: the word types of the Tlapen Alkar module (R2, R27). -/
namespace Sys2Proof

/-- One byte of memory. -/
abbrev Byte := BitVec 8
/-- One instruction word (R27). -/
abbrev Word := BitVec 32
/-- A 32-bit pattern: one element of a vector register, tile or accumulator. -/
abbrev Elem := BitVec 32
/-- A general register, a CSR, an address (R75, R90, R100). -/
abbrev Dword := BitVec 64
/-- A text address, counted in words (R27). -/
abbrev TextAddr := BitVec 16
/-- The number of a general register g0..g31 (R30). -/
abbrev GReg := BitVec 5
/-- The number of a vector register v0..v15 (R30). -/
abbrev VReg := BitVec 4
/-- A handle h0..h15 (R30). -/
abbrev HReg := BitVec 4
/-- A package core id: site in [9:4], core in [3:0] (R11). -/
abbrev CoreId := BitVec 10
/-- A context id (R20). -/
abbrev CtxId := BitVec 3

end Sys2Proof
end

