-- ==== Sys2Proof/Config.lean ====
section
/-! DEFINITION. Config.lean: what the composition of the TLA-AK50 fixes (Tables 1-1, 1-3, 1-6, 13-1, 13-2), and the
free values: what the manual leaves open, as constants without a body. -/
namespace Sys2Proof.Config

/-- The die types of Table 1-2. -/
inductive DieType where
  | empty
  | mx
  | vx
  | bf
  | gx
  | sw
  | cl
  deriving DecidableEq, Repr

/-- The type code of a die (Table 1-2). -/
def DieType.code : DieType → BitVec 3
  | .empty => 0
  | .mx => 1
  | .vx => 2
  | .bf => 3
  | .gx => 4
  | .sw => 5
  | .cl => 6

/-- The site map of Table 1-1, by rows of the grid. -/
def siteMap : List DieType :=
  [.bf, .mx, .mx, .mx, .gx, .gx, .mx, .mx, .mx, .bf] ++
  [.bf, .mx, .vx, .mx, .sw, .sw, .mx, .vx, .mx, .bf] ++
  [.cl, .mx, .vx, .mx, .vx, .vx, .mx, .vx, .mx, .cl] ++
  [.bf, .mx, .vx, .mx, .sw, .sw, .mx, .vx, .mx, .bf] ++
  [.bf, .mx, .mx, .mx, .gx, .gx, .mx, .mx, .mx, .bf]

/-- The die at a site; a number above 49 names no site (R7, R11). -/
def siteType (site : Nat) : DieType := siteMap.getD site .empty

/-- Cores per die (Table 1-3). -/
def DieType.cores : DieType → Nat
  | .empty => 0
  | .mx => 8
  | .vx => 16
  | .bf => 4
  | .gx => 8
  | .sw => 2
  | .cl => 4

/-- Whether engine e (0 CTL, 1 MTX, 2 VEC, 3 CPY, 4 LNK, 5 GTH, 6 CLV) is present on a die (Tables 1-3, 2-1). -/
def DieType.hasEngine : DieType → Nat → Bool
  | .mx, e => e == 0 || e == 1 || e == 3 || e == 4
  | .vx, e => e == 0 || e == 2 || e == 3 || e == 4
  | .bf, e => e == 0 || e == 3 || e == 4
  | .gx, e => e == 0 || e == 3 || e == 4 || e == 5
  | .sw, e => e == 0 || e == 4
  | .cl, e => e == 0 || e == 3 || e == 4 || e == 6
  | .empty, _ => false

/-- Local scratch of a core, in bytes (Table 1-6). -/
def DieType.scratch : DieType → Nat
  | .mx => 4194304
  | .vx => 2097152
  | .gx => 1048576
  | .bf => 1048576
  | .sw => 262144
  | .cl => 1048576
  | .empty => 0

/-- Whether a die has die-shared scratch (Table 1-6). -/
def DieType.hasShared : DieType → Bool
  | .mx => true
  | .vx => true
  | .gx => true
  | _ => false

/-- The weight-stack slice of a core, in bytes (Table 1-6). -/
def weightStackBytes : Nat := 33554432
/-- The gather table SRAM of a GX die, in bytes (Table 1-6). -/
def gatherBytes : Nat := 134217728
/-- The stage memory of a BF die, in bytes (Table 1-6). -/
def stageBytes : Nat := 536870912
/-- The HBM4E of a BF die, in bytes (Table 1-6). -/
def hbmBytes : Nat := 137438953472
/-- The second tier of a BF die, in bytes (Table 1-6). -/
def tier2Bytes : Nat := 824633720832
/-- The die-shared scratch of a die, in bytes (Table 1-6). -/
def dieSharedBytes : Nat := 16777216

/-- The sites of BF0 to BF7 (Table 1-1). -/
def bfSite (bf : Nat) : Nat := [0, 9, 10, 19, 30, 39, 40, 49].getD bf 0

/-- The distance between two sites of the grid (R6). -/
def gridDist (s t : Nat) : Nat :=
  (s % 10 - t % 10) + (t % 10 - s % 10) + (s / 10 - t / 10) + (t / 10 - s / 10)

/-- The capstan distance of a site, counted from site 14 (R3, Table 6-1). -/
def capstan (site : Nat) : Nat := gridDist site 14

/-- The site of SW0, which the launch sequencer runs on (R320, Table 1-1). -/
def sequencerSite : Nat := 14
/-- The site of CL0, which has the host port (R18, Table 1-1). -/
def hostSite : Nat := 20
/-- The SW dies' sites (Table 13-2). -/
def swSites : List Nat := [14, 15, 34, 35]

/-- Express targets of the four SW dies, X0 to X11 in order (Table 13-2). -/
def expressTargets : List (List Nat) :=
  [[2, 3, 6, 11, 12, 16, 17, 22, 23, 25, 26, 33],
   [3, 6, 7, 12, 13, 17, 18, 23, 24, 26, 27, 36],
   [13, 22, 23, 25, 26, 31, 32, 36, 37, 42, 43, 46],
   [16, 23, 24, 26, 27, 32, 33, 37, 38, 43, 46, 47]]

/-- Free values: the byte that a location holds where the manual leaves it unspecified (R310), by a counter. DESIGN CHOICE,
log entries 5 and 8. -/
opaque freeByte : Nat → Byte

/-- Free value: the detail of a cause for which no rule gives one (cause 0x03), by a counter. DESIGN CHOICE, log entries 5
and 7. -/
opaque freeEval : Nat → Dword

/-- Free value: a delay that the manual does not fix (R161, R163, R319, R332), in cycles, by a counter. DESIGN CHOICE, log
entries 5 and 6. -/
opaque freeDelay : Nat → Nat

/-- Free value: whether two ranges of a memory, by start and length, share a bank (R162, R350): the manual gives no bank layout. DESIGN
CHOICE, log entry 57. -/
opaque sameBank : Nat × Nat → Nat × Nat → Bool

/-- Free value: whether a throttled cycle denies issue (R333): the manual gives the share of the cycles, by share and
local cycle. DESIGN CHOICE, log entry 9. -/
opaque denied : Nat → Nat → Bool

/-- Free value: the address of the first failing request of a collective or verb, where an answer names none. DESIGN CHOICE,
log entry 8. -/
opaque freeAddr : Nat → Dword

/-- The modulus and exponent that the bytes of a public key stand for (R68, R347): the manual gives no layout of a public
key. DESIGN CHOICE, log entry 56. -/
opaque rsaKey : List Byte → Nat × Nat

/-- Sirade's public key, which slot 0 of the key store holds (R347): the manual does not print it. -/
opaque siradeKey : List Byte

/-- The certificate of the module's identity key, signed by Sirade (R348): the manual does not print it. -/
opaque certificate : List Byte

/-- The bytes of the firmware copy that a module leaves the factory with in both places (R347): the manual does not print
it. DESIGN CHOICE, log entry 77. -/
opaque factoryFirmware : List Byte

/-- The modulus and the private exponent of the module's identity key (R348), which never leaves the module. -/
opaque identityKey : Nat × Nat

/-- How many local cycles the supervisor handler takes before it acts (R316): the manual fixes only the bound of
2,048 cycles. DESIGN CHOICE, log entries 5 and 10. -/
opaque handlerCycles : Nat → Fin 2048

end Sys2Proof.Config
end

