-- ==== Sys2Proof/Machine/Store.lean ====
section
/-! DEFINITION. Store.lean: sparse stores in one canonical form. A store lists (key, value) pairs with keys strictly
rising and no value equal to what an unlisted key reads as. -/
namespace Sys2Proof.Machine

/-- A sparse store over natural keys. -/
abbrev Store (α : Type) := List (Nat × α)

namespace Store

/-- The value at a key; z is what an unlisted key reads as. -/
def get {α : Type} (z : α) : Store α → Nat → α
  | [], _ => z
  | (k, v) :: t, a => if k = a then v else get z t a

/-- Insert a pair before the first larger key. -/
def insertAt {α : Type} (a : Nat) (v : α) : Store α → Store α
  | [] => [(a, v)]
  | (k, w) :: t => if a < k then (a, v) :: (k, w) :: t else (k, w) :: insertAt a v t

/-- Remove a key. -/
def erase {α : Type} (a : Nat) : Store α → Store α
  | [] => []
  | (k, w) :: t => if k = a then erase a t else (k, w) :: erase a t

/-- Write one key: the value z removes the entry. -/
def set {α : Type} [DecidableEq α] (z : α) (st : Store α) (a : Nat) (v : α) : Store α :=
  if v = z then erase a st else insertAt a v (erase a st)

/-- Write consecutive keys from a on. -/
def setList {α : Type} [DecidableEq α] (z : α) (st : Store α) (a : Nat) : List α → Store α
  | [] => st
  | v :: vs => setList z (set z st a v) (a + 1) vs

/-- Read n consecutive keys from a on. -/
def getList {α : Type} (z : α) (st : Store α) (a : Nat) : Nat → List α
  | 0 => []
  | n + 1 => get z st a :: getList z st (a + 1) n

/-- The entries of consecutive keys from a on, for values f, leaving out those equal to z. -/
def ofFn {α : Type} [DecidableEq α] (z : α) (f : Nat → α) (a : Nat) : Nat → Store α
  | 0 => []
  | n + 1 => let v := f a; if v = z then ofFn z f (a + 1) n else (a, v) :: ofFn z f (a + 1) n

/-- Replace the keys lo to lo + n - 1 by the values of f at them. -/
def fill {α : Type} [DecidableEq α] (z : α) (st : Store α) (lo n : Nat) (f : Nat → α) : Store α :=
  st.filter (fun p => decide (p.1 < lo)) ++ ofFn z f lo n ++ st.filter (fun p => decide (lo + n ≤ p.1))

/-- Set the keys lo to lo + n - 1 to z. -/
def clear {α : Type} (st : Store α) (lo n : Nat) : Store α :=
  st.filter (fun p => decide (p.1 < lo) || decide (lo + n ≤ p.1))

/-- The entries of keys lo to lo + n - 1, moved to keys from dst on. -/
def slice {α : Type} (st : Store α) (lo n dst : Nat) : Store α :=
  (st.filter (fun p => decide (lo ≤ p.1) && decide (p.1 < lo + n))).map (fun p => (dst + (p.1 - lo), p.2))

/-- Put the entries of src (keys dst to dst + n - 1 only) in the place of what st holds there. -/
def splice {α : Type} (st : Store α) (dst n : Nat) (src : Store α) : Store α :=
  st.filter (fun p => decide (p.1 < dst)) ++ src ++ st.filter (fun p => decide (dst + n ≤ p.1))

/-- Copy n keys from src at lo to st at dst; all are read before any is written. -/
def copy {α : Type} (st : Store α) (dst : Nat) (src : Store α) (lo n : Nat) : Store α :=
  splice st dst n (slice src lo n dst)

/-- Keys strictly rising from above a bound, no value z. -/
def wfFrom {α : Type} [DecidableEq α] (z : α) : Nat → Store α → Bool
  | _, [] => true
  | lo, (k, v) :: t => decide (lo ≤ k) && decide (v ≠ z) && wfFrom z (k + 1) t

/-- The canonical form. -/
def wf {α : Type} [DecidableEq α] (z : α) (st : Store α) : Bool := wfFrom z 0 st

end Store

/-- Memory: bytes by address. A byte that nothing has written reads as zero. -/
abbrev Memory := List Host.Cell

namespace Memory

/-- What an unlisted address reads as. -/
def blank : Byte := 0

/-- Read one byte. -/
def byte (m : Memory) (a : Nat) : Byte := Store.get blank m a

/-- The bytes a to a + n - 1 as one little-endian number (R2). -/
def readNat (m : Memory) (a : Nat) : Nat → Nat
  | 0 => 0
  | n + 1 => (byte m a).toNat + 256 * readNat m (a + 1) n

/-- Write the low n bytes of x from a on, little-endian (R2). -/
def writeNat (m : Memory) (a : Nat) : Nat → Nat → Memory
  | 0, _ => m
  | n + 1, x => writeNat (Store.set blank m a (BitVec.ofNat 8 x)) (a + 1) n (x / 256)

/-- Write a list of bytes from a on. -/
def writeBytes (m : Memory) (a : Nat) (bs : List Byte) : Memory := Store.setList blank m a bs

/-- Read n bytes from a on. -/
def readBytes (m : Memory) (a n : Nat) : List Byte := Store.getList blank m a n

/-- The canonical form of a memory. -/
def wf (m : Memory) : Bool := Store.wf blank m

end Memory

end Sys2Proof.Machine
end

