-- ==== Sys2Proof/Machine/Bits.lean ====
section
/-! DEFINITION. Bits.lean: bit fields, sign extension and byte order (R2, R4). -/
namespace Sys2Proof.Machine

/-- The field [hi:lo] of a doubleword, as a number. -/
def field (x : Dword) (hi lo : Nat) : Nat := x.toNat / 2 ^ lo % 2 ^ (hi - lo + 1)

/-- A pattern read as signed two's complement of n bits. -/
def signedNat (n x : Nat) : Int :=
  if x % 2 ^ n < 2 ^ (n - 1) then ((x % 2 ^ n : Nat) : Int) else ((x % 2 ^ n : Nat) : Int) - ((2 ^ n : Nat) : Int)

/-- wrap32 of an integer (R4). -/
def wrap32 (x : Int) : Elem := BitVec.ofInt 32 x
/-- wrap64 of an integer (R4). -/
def wrap64 (x : Int) : Dword := BitVec.ofInt 64 x

/-- Clamp an integer to a range (sat8, sat16, sat32 of R4). -/
def clampInt (lo hi x : Int) : Int := if x < lo then lo else if hi < x then hi else x

/-- A doubleword from a number. -/
def dw (x : Nat) : Dword := BitVec.ofNat 64 x

/-- One bit, as a number. -/
def bit (b : Bool) : Nat := if b then 1 else 0

/-- The least power of two that is at least m, searched upwards from p. -/
def ceilFrom (m : Nat) : Nat → Nat → Nat
  | 0, p => p
  | f + 1, p => if m ≤ p then p else ceilFrom m f (2 * p)
/-- The least power of two that is at least m, searched over 2^0 .. 2^fuel. -/
def ceilPow2 (m fuel : Nat) : Nat := ceilFrom m fuel 1

/-- The bytes of a number, little-endian. -/
def toBytes (n x : Nat) : List Byte :=
  match n with
  | 0 => []
  | k + 1 => BitVec.ofNat 8 x :: toBytes k (x / 256)

/-- A number from bytes, little-endian. -/
def ofBytes : List Byte → Nat
  | [] => 0
  | b :: t => b.toNat + 256 * ofBytes t

/-- The words of n bytes, four bytes each. -/
def elemsOf (bs : List Byte) : Nat → List Elem
  | 0 => []
  | n + 1 => BitVec.ofNat 32 (ofBytes (bs.take 4)) :: elemsOf (bs.drop 4) n

end Sys2Proof.Machine
end

