-- ==== Sys2Proof/Machine/Num.lean ====
section
/-! DEFINITION. Num.lean: the number formats and their arithmetic (R177 to R184, R263 to R267): values are exact
(sign, integer, power of two), and every result is rounded once. -/
namespace Sys2Proof.Machine

/-- The value of an FP32 pattern. -/
inductive FV where
  | nan
  | inf (neg : Bool)
  /-- (-1)^neg × m × 2^e -/
  | fin (neg : Bool) (m : Nat) (e : Int)
  deriving DecidableEq, Repr

/-- The canonical NaN (R178). -/
def canonNaN : Elem := 0x7FC00000

/-- Sign bit of a pattern. -/
def signOf (x : Elem) : Bool := x.getLsbD 31
/-- Exponent field of a pattern. -/
def expOf (x : Elem) : Nat := x.toNat / 2 ^ 23 % 256
/-- Fraction field of a pattern. -/
def fracOf (x : Elem) : Nat := x.toNat % 2 ^ 23

/-- A NaN pattern. -/
def isNaN (x : Elem) : Bool := expOf x == 255 && fracOf x != 0
/-- An infinity. -/
def isInf (x : Elem) : Bool := expOf x == 255 && fracOf x == 0

/-- Read a pattern as FP32 (R177). -/
def unpack (x : Elem) : FV :=
  if expOf x = 255 then if fracOf x = 0 then .inf (signOf x) else .nan
  else if expOf x = 0 then .fin (signOf x) (fracOf x) (-149)
  else .fin (signOf x) (2 ^ 23 + fracOf x) ((expOf x : Int) - 150)

/-- A signed zero. -/
def fzero (neg : Bool) : Elem := if neg then 0x80000000 else 0
/-- A signed infinity. -/
def finf (neg : Bool) : Elem := if neg then 0xFF800000 else 0x7F800000

/-- FTZ: a subnormal becomes zero of its sign (R180), when the flag is set. -/
def flush (ftz : Bool) (x : Elem) : Elem :=
  if ftz && expOf x == 0 then fzero (signOf x) else x

/-- NaN results are canonical (R178). -/
def canon (x : Elem) : Elem := if isNaN x then canonNaN else x

/-- 2^e as a numerator or denominator: multiply n by 2^e when e is not negative. -/
def scaleUp (n : Nat) (e : Int) : Nat := n * 2 ^ e.toNat

/-- floor (log2 (n / d)) for n, d > 0. -/
def ratLog2 (n d : Nat) : Int :=
  let k : Int := (Nat.log2 n : Int) - (Nat.log2 d : Int)
  if scaleUp n (-k) ≥ scaleUp d k then k else k - 1

/-- Whether rounding moves the truncated quotient m (remainder r of divisor d) one away from zero: mode 0 nearest
even, 1 toward zero, 2 up, 3 down (Table 8-3). -/
def roundsUp (rm : Nat) (neg : Bool) (m r d : Nat) : Bool :=
  match rm with
  | 0 => decide (2 * r > d) || (decide (2 * r = d) && decide (m % 2 = 1))
  | 1 => false
  | 2 => decide (r > 0) && !neg
  | _ => decide (r > 0) && neg

/-- The rational (-1)^neg × n / d, rounded to an integer. -/
def roundInt (rm : Nat) (neg : Bool) (n d : Nat) : Int :=
  let m := n / d
  let a : Int := (m + bit (roundsUp rm neg m (n % d) d) : Nat)
  if neg then -a else a

/-- The rational (-1)^neg × n / d × 2^e, rounded to p significant bits of the binary32 exponent range, as the upper
p + 8 bits of a pattern; overflow by R178. p is 24 for FP32 and 8 for BF16. -/
def roundPat (p rm : Nat) (neg : Bool) (n d : Nat) (e : Int) : Nat :=
  let sgn := if neg then 2 ^ (p + 7) else 0
  if n = 0 then sgn else
  let top : Int := ratLog2 n d + e
  let qmin : Int := -126 - ((p : Int) - 1)
  let q : Int := if top - ((p : Int) - 1) < qmin then qmin else top - ((p : Int) - 1)
  let num := scaleUp n (e - q)
  let den := scaleUp d (q - e)
  let m := num / den
  let pat := (q - qmin).toNat * 2 ^ (p - 1) + m + bit (roundsUp rm neg m (num % den) den)
  let infp := 255 * 2 ^ (p - 1)
  if pat ≥ infp then
    let keep := match rm with
      | 0 => false
      | 1 => true
      | 2 => neg
      | _ => !neg
    sgn + (if keep then infp - 1 else infp)
  else sgn + pat

/-- Round an exact rational to FP32. -/
def roundRat (rm : Nat) (neg : Bool) (n d : Nat) (e : Int) : Elem := BitVec.ofNat 32 (roundPat 24 rm neg n d e)

/-- An exact sum of two finite values, rounded once; an exact zero takes the sign IEEE 754 gives it. -/
def addFin (rm : Nat) (s1 : Bool) (m1 : Nat) (e1 : Int) (s2 : Bool) (m2 : Nat) (e2 : Int) : Elem :=
  let e := if e1 < e2 then e1 else e2
  let a : Int := (if s1 then -1 else 1) * (scaleUp m1 (e1 - e) : Int)
  let b : Int := (if s2 then -1 else 1) * (scaleUp m2 (e2 - e) : Int)
  let t := a + b
  if t = 0 then fzero (if s1 = s2 then s1 else rm == 3)
  else roundRat rm (decide (t < 0)) t.natAbs 1 e

/-- x + y (R263). -/
def fadd (rm : Nat) (x y : Elem) : Elem :=
  match unpack x, unpack y with
  | .nan, _ => canonNaN
  | _, .nan => canonNaN
  | .inf s, .inf t => if s = t then finf s else canonNaN
  | .inf s, .fin _ _ _ => finf s
  | .fin _ _ _, .inf t => finf t
  | .fin s1 m1 e1, .fin s2 m2 e2 => addFin rm s1 m1 e1 s2 m2 e2

/-- The pattern with its sign inverted. -/
def fnegPat (x : Elem) : Elem := x ^^^ 0x80000000

/-- x - y (R263). -/
def fsub (rm : Nat) (x y : Elem) : Elem := if isNaN y then canonNaN else fadd rm x (fnegPat y)

/-- x × y (R263). -/
def fmul (rm : Nat) (x y : Elem) : Elem :=
  match unpack x, unpack y with
  | .nan, _ => canonNaN
  | _, .nan => canonNaN
  | .inf s, .inf t => finf (s != t)
  | .inf s, .fin t m _ => if m = 0 then canonNaN else finf (s != t)
  | .fin s m _, .inf t => if m = 0 then canonNaN else finf (s != t)
  | .fin s1 m1 e1, .fin s2 m2 e2 => roundRat rm (s1 != s2) (m1 * m2) 1 (e1 + e2)

/-- x × y + z, rounded once (R265). -/
def ffma (rm : Nat) (x y z : Elem) : Elem :=
  match unpack x, unpack y, unpack z with
  | .nan, _, _ => canonNaN
  | _, .nan, _ => canonNaN
  | .inf s, .fin t m _, w =>
    if m = 0 then canonNaN else
      match w with
      | .nan => canonNaN
      | .inf u => if u = (s != t) then finf u else canonNaN
      | .fin _ _ _ => finf (s != t)
  | .fin s m _, .inf t, w =>
    if m = 0 then canonNaN else
      match w with
      | .nan => canonNaN
      | .inf u => if u = (s != t) then finf u else canonNaN
      | .fin _ _ _ => finf (s != t)
  | .inf s, .inf t, w =>
    match w with
    | .nan => canonNaN
    | .inf u => if u = (s != t) then finf u else canonNaN
    | .fin _ _ _ => finf (s != t)
  | .fin _ _ _, .fin _ _ _, .nan => canonNaN
  | .fin _ _ _, .fin _ _ _, .inf u => finf u
  | .fin s1 m1 e1, .fin s2 m2 e2, .fin s3 m3 e3 => addFin rm (s1 != s2) (m1 * m2) (e1 + e2) s3 m3 e3

/-- A key that orders patterns as numbers, with -0 below +0 (R263). -/
def orderKey (x : Elem) : Int := if signOf x then -((x.toNat % 2 ^ 31 : Nat) : Int) - 1 else (x.toNat : Int)

/-- A key that orders patterns as IEEE values, with -0 equal to +0 (R193, R268). -/
def valueKey (x : Elem) : Int := if signOf x then -((x.toNat % 2 ^ 31 : Nat) : Int) else (x.toNat : Int)

/-- The lesser (R263). -/
def fmin (x y : Elem) : Elem := if isNaN x || isNaN y then canonNaN else if orderKey x ≤ orderKey y then x else y
/-- The greater (R263). -/
def fmax (x y : Elem) : Elem := if isNaN x || isNaN y then canonNaN else if orderKey x ≤ orderKey y then y else x
/-- x ≤ y as IEEE values; false when either is a NaN (R193). -/
def fle (x y : Elem) : Bool := !isNaN x && !isNaN y && decide (valueKey x ≤ valueKey y)

/-- An integer as FP32 (R182). -/
def intToF32 (rm : Nat) (k : Int) : Elem := roundRat rm (decide (k < 0)) k.natAbs 1 0

/-- FP32 to an n-bit integer, and whether it saturated (R182). -/
def f32ToInt (rm n : Nat) (x : Elem) : Int × Bool :=
  let hi : Int := (2 ^ (n - 1) : Nat) - 1
  let lo : Int := -((2 ^ (n - 1) : Nat) : Int)
  match unpack x with
  | .nan => (0, true)
  | .inf s => (if s then lo else hi, true)
  | .fin s m e =>
    let y := roundInt rm s (scaleUp m e) (scaleUp 1 (-e))
    if hi < y then (hi, true) else if y < lo then (lo, true) else (y, false)

/-- FP32 to BF16, as a 16-bit pattern (R182). -/
def f32ToBf16 (rm : Nat) (x : Elem) : BitVec 16 :=
  match unpack x with
  | .nan => 0x7FC0
  | .inf s => if s then 0xFF80 else 0x7F80
  | .fin s m e => BitVec.ofNat 16 (roundPat 8 rm s m 1 e)

/-- BF16 to FP32 (R182). -/
def bf16ToF32 (h : BitVec 16) : Elem := canon (h ++ 0#16)

/-- VFLOOR (R266). -/
def ffloor (x : Elem) : Elem :=
  match unpack x with
  | .nan => canonNaN
  | .inf s => finf s
  | .fin s m e =>
    if m = 0 then x else intToF32 0 (roundInt 3 s (scaleUp m e) (scaleUp 1 (-e)))

/-- Bits of the fixed-point working precision of the special functions. -/
def fixBits : Nat := 320
/-- floor (pi × 2^320). -/
def fixPi : Nat := 0x3243f6a8885a308d313198a2e03707344a4093822299f31d0082efa98ec4e6c89452821e638d01377
/-- floor (ln 2 × 2^320). -/
def fixLn2 : Nat := 0xb17217f7d1cf79abc9e3b39803f2f6af40f343267298b62d8a0d175b8baafa2be7b876206debac98

/-- The integer square root, bit by bit from 2^(fuel - 1) down. -/
def isqrtFrom (n : Nat) : Nat → Nat → Nat
  | 0, r => r
  | f + 1, r => isqrtFrom n f (if (r + 2 ^ f) * (r + 2 ^ f) ≤ n then r + 2 ^ f else r)

/-- floor (√n) for n below 2^160. -/
def isqrt (n : Nat) : Nat := isqrtFrom n 80 0

/-- The alternating series of sine from the term t = x^(2k+1)/(2k+1)!, x2 = x × x, in fixed point. -/
def sinSeries (x2 : Nat) : Nat → Nat → Int → Nat → Int
  | 0, _, acc, _ => acc
  | f + 1, k, acc, t =>
    sinSeries x2 f (k + 1) (if k % 2 = 0 then acc + t else acc - t)
      (t * x2 / 2 ^ fixBits / ((2 * k + 2) * (2 * k + 3)))

/-- sin of a fixed-point angle from 0 to pi/2, in fixed point. -/
def fixSin (x : Nat) : Nat := (sinSeries (x * x / 2 ^ fixBits) 48 0 0 x).toNat

/-- The exponential series from the term t = y^k/k!, in fixed point. -/
def expSeries (y : Nat) : Nat → Nat → Nat → Nat → Nat
  | 0, _, acc, _ => acc
  | f + 1, k, acc, t => expSeries y f (k + 1) (acc + t) (t * y / 2 ^ fixBits / (k + 1))

/-- The series of atanh from the power p = z^(2k+1), in fixed point. -/
def atanhSeries (z2 : Nat) : Nat → Nat → Nat → Nat → Nat
  | 0, _, acc, _ => acc
  | f + 1, k, acc, p => atanhSeries z2 f (k + 1) (acc + p / (2 * k + 1)) (p * z2 / 2 ^ fixBits)

/-- VRCP (R266, R267). -/
def frcp (x : Elem) : Elem :=
  match unpack x with
  | .nan => canonNaN
  | .inf s => fzero s
  | .fin s m e => if m = 0 then finf s else roundRat 0 s 1 m (-e)

/-- The exponent made even: (m, e) with the same value m × 2^e. -/
def evenExp (m : Nat) (e : Int) : Nat × Int := if e % 2 = 0 then (m, e) else (2 * m, e - 1)

/-- VSQRT (R266, R267). -/
def fsqrt (x : Elem) : Elem :=
  match unpack x with
  | .nan => canonNaN
  | .inf s => if s then canonNaN else finf false
  | .fin s m e =>
    if m = 0 then x else if s then canonNaN else
      let (n, f) := evenExp m e
      let r := isqrt (n * 2 ^ 80)
      roundRat 0 false (2 * r + bit (r * r != n * 2 ^ 80)) 1 (f / 2 - 41)

/-- VRSQ (R266, R267). -/
def frsq (x : Elem) : Elem :=
  match unpack x with
  | .nan => canonNaN
  | .inf s => if s then canonNaN else 0
  | .fin s m e =>
    if m = 0 then finf s else if s then canonNaN else
      let (n, f) := evenExp m e
      let r := isqrt (2 ^ 120 / n)
      roundRat 0 false (2 * r + bit (r * r * n != 2 ^ 120)) 1 (-(f / 2) - 61)

/-- VEXP2 (R266, R267). -/
def fexp2 (x : Elem) : Elem :=
  match unpack x with
  | .nan => canonNaN
  | .inf s => if s then 0 else finf false
  | .fin s m e =>
    if m = 0 then 0x3F800000
    else if (Nat.log2 m : Int) + e ≥ 8 then (if s then 0 else finf false)
    else
      let n := roundInt 3 s (scaleUp m e) (scaleUp 1 (-e))
      let v : Int := (if s then -1 else 1) * (scaleUp (m * 2 ^ fixBits) e / scaleUp 1 (-e) : Nat)
      let f := (v - n * (2 ^ fixBits : Nat)).toNat
      if f = 0 then roundRat 0 false 1 1 n
      else roundRat 0 false (expSeries (f * fixLn2 / 2 ^ fixBits) 80 0 0 (2 ^ fixBits)) 1 (n - fixBits)

/-- VLOG2 (R266, R267). -/
def flog2 (x : Elem) : Elem :=
  match unpack x with
  | .nan => canonNaN
  | .inf s => if s then canonNaN else finf false
  | .fin s m e =>
    if m = 0 then finf true else if s then canonNaN else
      let k := Nat.log2 m
      if m = 2 ^ k then intToF32 0 (e + k)
      else
        let half := decide (m * m > 2 ^ (2 * k + 1))
        let one := if half then 2 ^ (k + 1) else 2 ^ k
        let n : Int := e + k + bit half
        let z := (if half then one - m else m - one) * 2 ^ fixBits / (m + one)
        let l := 2 * atanhSeries (z * z / 2 ^ fixBits) 70 0 0 z * 2 ^ fixBits / fixLn2
        let t : Int := n * (2 ^ fixBits : Nat) + (if half then -(l : Int) else l)
        roundRat 0 (decide (t < 0)) t.natAbs 1 (-(fixBits : Int))

/-- VSINP (R266, R267). -/
def fsinp (x : Elem) : Elem :=
  match unpack x with
  | .nan => canonNaN
  | .inf _ => canonNaN
  | .fin s m e =>
    if e ≥ 0 then fzero s
    else
      let one := 2 ^ (-e).toNat
      if m % one = 0 then fzero s
      else
        let r := m % (2 * one)
        let neg := if r ≥ one then !s else s
        let r1 := if r ≥ one then r - one else r
        let r2 := if 2 * r1 > one then one - r1 else r1
        if 2 * r2 = one then roundRat 0 neg 1 1 0
        else roundRat 0 neg (fixSin (fixPi * r2 / one)) 1 (-(fixBits : Int))

/-- sin (2 pi m / n) × 2^22 rounded to nearest (R232), for n > 0. -/
def sinQ22 (m n : Nat) : Int :=
  let r := m % n
  let neg := decide (2 * r ≥ n)
  let r1 := if 2 * r ≥ n then 2 * r - n else 2 * r
  let r2 := if 2 * r1 > n then n - r1 else r1
  if 2 * r2 = n then (if neg then -4194304 else 4194304)
  else roundInt 0 neg (fixSin (fixPi * r2 / n)) (2 ^ (fixBits - 22))

/-- cos (2 pi m / n) × 2^22 rounded to nearest (R232): the sine a quarter turn on. -/
def cosQ22 (m n : Nat) : Int := sinQ22 (4 * m + n) (4 * n)

end Sys2Proof.Machine
end

