-- ==== Sys2Proof/Syntax.lean ====
section
/-! DEFINITION. Syntax.lean: the abstract syntax of the opcode table, every row a constructor, and the
data that an event brings into the package from outside. -/
namespace Sys2Proof

/-- The answer of the fabric to a pod request (R298). -/
inductive PodAns where
  /-- The request performed; the bytes are those a read or an atomic returns. -/
  | ok (bytes : List Byte)
  /-- Answered as fenced (cause 0x15). -/
  | fenced
  /-- Answered with a remote error (cause 0x16). -/
  | remoteError
  deriving DecidableEq, Repr

/-- How a collective ends (R309, R310). -/
inductive CollRes where
  /-- Every member took part: the source elements of each member, in rank order. The own rank's list is
  ignored: the member's own elements are read from its own memory. -/
  | ok (members : List (List Elem))
  /-- A member is fenced (cause 0x15). -/
  | fenced
  /-- A mismatch or remote failure (cause 0x16). -/
  | remoteError
  deriving DecidableEq, Repr

/-- An uncorrectable error that a core consumes, as the error log records it (R325, Table 15-7). -/
structure ErrInfo where
  kind : Byte
  /-- The site of the memory or link. -/
  site : BitVec 6
  unit : BitVec 16
  addr : Dword
  synd : Dword
  deriving DecidableEq, Repr

/-- How one boot step ended (R342, R343). -/
inductive StepRes where
  | pass
  | alternate
  | fail
  deriving DecidableEq, Repr

/-- The alternates of Table 15-1, as the boot record names the one last used (R343). -/
inductive BootAlt where
  /-- The die is marked failed, or routing-only. -/
  | marked
  /-- Retraining with reduced patterns, and at the lower rate. -/
  | patterns
  | rate
  /-- Firmware copy B. -/
  | copyB
  deriving DecidableEq, Repr

/-- What the hardware answers while firmware boots it (R342); what is not listed works. -/
structure BootRes where
  /-- Steps 1 and 2: whether the step passes, and whether it does when it is run once more (R343). -/
  rails  : Bool × Bool
  timing : Bool × Bool
  /-- Step 3: dies that fail, and whether their LNK passes. -/
  dies   : List (BitVec 6 × Bool)
  /-- Step 4: edges by the sites of their two dies: whether training passes, and with reduced patterns. -/
  edges  : List (BitVec 6 × BitVec 6 × Bool × Bool)
  /-- Steps 5 and 6: by BF die, whether training passes, with reduced patterns, and at the lower rate. -/
  hbm    : List (BitVec 3 × Bool × Bool × Bool)
  lpddr  : List (BitVec 3 × Bool × Bool × Bool)
  /-- Step 7: SW dies with a failed module. -/
  mesh   : List (BitVec 6)
  /-- The package id that bring-up sets (R92). -/
  pkg    : BitVec 13
  deriving DecidableEq, Repr

/-- The header of a host message (Table 15-3), and the address it comes from (R346). TYPE is the message's constructor. -/
structure MsgHdr where
  src     : BitVec 128
  ver     : Byte
  flags   : BitVec 16
  seq     : BitVec 32
  session : BitVec 32
  len     : Nat
  deriving DecidableEq, Repr
/-- FLAGS: an answer is requested; it is the last fragment. -/
def MsgHdr.answer (h : MsgHdr) : Bool := h.flags.getLsbD 0
def MsgHdr.last (h : MsgHdr) : Bool := h.flags.getLsbD 1

/-- What the fid writes of a halted core beside general registers, CSRs, memory, addresses and text (R328, Table 14-9), each part by an
index: elements of ACC, the tiles and the vector registers; tile exponents; a level of the nest, four words each; the bases A, B and
C; the words MTX and VEC hold beside these; a handle, seven fields each; a channel, 21 words each; and whole, FQ, an entry for DQ (or
none of it), a load or store queue, an engine's outcomes and its scheduled cycle; TWC, GVC, DCFG, RCFG, each whole or none of it; the
progress of an MGO and of an MGVR, by its fields, or none of it; the check status and flags of MTX; a gather table, six fields each; the
schedule binding of a channel; the copies of FPC, LATE and the bounds of an engine, 32 words each; the write log, three words an entry; the
cycle from which the step budget counts. TWC and GVC are written by the values of their words (R237, R250). PRESUMED: the numbering (log entry 45). -/
inductive FidUnit where
  | acc
  | tile
  | tileExp
  | nest
  | base
  | mtx
  | vreg
  | vec
  | handle
  | channel
  | fq
  | dq
  | loadQueue
  | storeQueue
  | outcomes
  | sched
  | twc
  | gvc
  | gvp
  | dcfg
  | rcfg
  | prog
  | check
  | gtable
  | bind
  | engine
  | log
  | count
  deriving DecidableEq, Repr
/-- Bytes of a word of such a part. -/
def FidUnit.width : FidUnit → Nat
  | .acc => 4
  | .tile => 4
  | .vreg => 4
  | .dq => 4
  | .tileExp => 1
  | .loadQueue => 1
  | .storeQueue => 1
  | .outcomes => 3
  | _ => 8

/-- A fid command (R328 to R330). -/
inductive FidCmd where
  /-- Open or close a fid session (R316, breakpoint row). -/
  | session (on : Bool)
  /-- Package halt of a context (R328). -/
  | haltCtx (x : CtxId)
  /-- Single-die halt (R329). -/
  | haltDie (site : BitVec 6)
  /-- Resume a halted context or die (R330). -/
  | resumeCtx (x : CtxId)
  | resumeDie (site : BitVec 6)
  /-- Kill a halted context (R328). -/
  | killCtx (x : CtxId)
  /-- Read and write a general register and a CSR of a halted core (R328). -/
  | readG (k : CoreId) (r : GReg)
  | writeG (k : CoreId) (r : GReg) (v : Dword)
  | readCsr (k : CoreId) (n : BitVec 13)
  | writeCsr (k : CoreId) (n : BitVec 13) (v : Dword)
  /-- Read and write memory as a halted core addresses it. -/
  | readMem (k : CoreId) (a : Dword) (n : Nat)
  | writeMem (k : CoreId) (a : Dword) (bytes : List Byte)
  /-- Read all of a halted core's state, and write the resume address of an engine (R336). -/
  | readCore (k : CoreId)
  | writePc (k : CoreId) (e : BitVec 3) (a : TextAddr)
  /-- Write a part of the state of a halted core's engines (R328). -/
  | writeUnit (k : CoreId) (u : FidUnit) (i : Nat) (vs : List Dword)
  /-- Patch a text word of a halted core (R42). -/
  | patchText (k : CoreId) (a : TextAddr) (w : Word)
  /-- Read the trace buffer of a core (R155), which empties it. -/
  | readTrace (k : CoreId)
  /-- Enable or disable tracing on a core (R155). -/
  | trace (k : CoreId) (on : Bool)
  deriving DecidableEq, Repr

/-- The bytes that a fid command brings beside fields of no stated width: those that it writes. -/
def FidCmd.payload : FidCmd → Nat
  | .writeMem _ _ bs => bs.length
  | .writeUnit _ u _ vs => u.width * vs.length
  | .writeG _ _ _ => 8
  | .writeCsr _ _ _ => 8
  | .writePc _ _ _ => 2
  | .patchText _ _ _ => 4
  | _ => 0

/-- A word of a protected memory, for scrubbing and soft errors (R351), or of a memory with an ECC of its own (R352). -/
inductive EccLoc where
  | scratch (k : CoreId) (a : Nat)
  | wstack (k : CoreId) (a : Nat)
  | dshared (site : BitVec 6) (a : Nat)
  | gtable (site : BitVec 6) (a : Nat)
  | stage (bf : BitVec 3) (a : Nat)
  /-- A word of HBM4E and of the second tier, whose errors their own ECC finds. -/
  | hbm (bf : BitVec 3) (a : Nat)
  | tier2 (bf : BitVec 3) (a : Nat)
  /-- Two words of instruction SRAM from an even text address on. -/
  | text (k : CoreId) (a : Nat)
  /-- A word of the register files, of a queue (load queues 0 to 3, store queues 4 and 5, FQ 6, the outcomes of engine e 8 + e), of DQ. -/
  | regs (k : CoreId) (e : BitVec 3) (i : Nat)
  | queue (k : CoreId) (e : BitVec 4) (i : Nat)
  | dq (k : CoreId) (i : Nat)
  deriving DecidableEq, Repr

/-- What SECDED finds in a word (R351). -/
inductive EccRes where
  | clean
  | corrected
  | uncorrectable
  /-- A correctable error met by an engine's read, of this core. -/
  | onRead (k : CoreId)
  deriving DecidableEq, Repr

/-- A request from another package (R296, R298). -/
inductive PodOp where
  | write (bytes : List Byte)
  | read (len : Nat)
  | atomic (op : BitVec 3) (wide : Bool) (x : Dword) (cmp : Dword)
  | signal (add : Dword)
  deriving DecidableEq, Repr

/-- A request from another package, with the partition key it carries and its virtual address (R298). -/
structure PodReq where
  key  : BitVec 16
  addr : Dword
  op   : PodOp
  deriving DecidableEq, Repr


/-- The steps of the part: one constructor for each row of the opcode table, those
without operands last (the runtime numbers constructors with operands up to 244 only). A row with an
encoding carries the operand fields of its word; a row without one (an event, R313 and others) carries what
the event brings from outside. -/
inductive Instr where
  /-- ILL (R44): Any word with ENG 0 and OP 0x00 raises an illegal-instruction fault, cause 0x01 with reason 0, carrying the word in EVAL. -/
  | ill (n : BitVec 23)
  /-- ADD (R79): Sets d to wrap64(a + b). -/
  | add (d : BitVec 5) (a : BitVec 5) (b : BitVec 5)
  /-- SUB (R79): Sets d to wrap64(a - b). -/
  | sub (d : BitVec 5) (a : BitVec 5) (b : BitVec 5)
  /-- AND (R79): Sets d to the bitwise and of a and b. -/
  | and (d : BitVec 5) (a : BitVec 5) (b : BitVec 5)
  /-- OR (R79): Sets d to the bitwise or of a and b. -/
  | or (d : BitVec 5) (a : BitVec 5) (b : BitVec 5)
  /-- XOR (R79): Sets d to the bitwise exclusive or of a and b. -/
  | xor (d : BitVec 5) (a : BitVec 5) (b : BitVec 5)
  /-- SLL (R79): Shifts a left by b[5:0]. -/
  | sll (d : BitVec 5) (a : BitVec 5) (b : BitVec 5)
  /-- SRL (R79): Shifts a right logically by b[5:0]. -/
  | srl (d : BitVec 5) (a : BitVec 5) (b : BitVec 5)
  /-- SRA (R79): Shifts a right arithmetically by b[5:0]. -/
  | sra (d : BitVec 5) (a : BitVec 5) (b : BitVec 5)
  /-- SLT (R79): Sets d to 1 if a is less than b as signed integers, else 0. -/
  | slt (d : BitVec 5) (a : BitVec 5) (b : BitVec 5)
  /-- SLTN (R79): Sets d to 1 if a is less than b as unsigned integers, else 0. -/
  | sltn (d : BitVec 5) (a : BitVec 5) (b : BitVec 5)
  /-- MIN (R79): Sets d to the signed minimum of a and b. -/
  | min (d : BitVec 5) (a : BitVec 5) (b : BitVec 5)
  /-- MAX (R79): Sets d to the signed maximum of a and b. -/
  | max (d : BitVec 5) (a : BitVec 5) (b : BitVec 5)
  /-- MINN (R79): Sets d to the unsigned minimum of a and b. -/
  | minn (d : BitVec 5) (a : BitVec 5) (b : BitVec 5)
  /-- MAXN (R79): Sets d to the unsigned maximum of a and b. -/
  | maxn (d : BitVec 5) (a : BitVec 5) (b : BitVec 5)
  /-- MUL (R79): Sets d to the low 64 bits of the signed product of a and b. -/
  | mul (d : BitVec 5) (a : BitVec 5) (b : BitVec 5)
  /-- MULH (R79): Sets d to the high 64 bits of the signed product of a and b. -/
  | mulh (d : BitVec 5) (a : BitVec 5) (b : BitVec 5)
  /-- MULHN (R79): Sets d to the high 64 bits of the unsigned product of a and b. -/
  | mulhn (d : BitVec 5) (a : BitVec 5) (b : BitVec 5)
  /-- DIV (R79): Sets d to the signed quotient truncated toward zero, with fixed results for a zero divisor and for overflow. -/
  | div (d : BitVec 5) (a : BitVec 5) (b : BitVec 5)
  /-- DIVN (R79): Sets d to the unsigned quotient, or to all ones for a zero divisor. -/
  | divn (d : BitVec 5) (a : BitVec 5) (b : BitVec 5)
  /-- REM (R79): Sets d to the signed remainder, which takes the sign of the dividend. -/
  | rem (d : BitVec 5) (a : BitVec 5) (b : BitVec 5)
  /-- REMN (R79): Sets d to the unsigned remainder. -/
  | remn (d : BitVec 5) (a : BitVec 5) (b : BitVec 5)
  /-- CLZ (R79): Sets d to the count of leading zero bits of a. -/
  | clz (d : BitVec 5) (a : BitVec 5)
  /-- CTZ (R79): Sets d to the count of trailing zero bits of a. -/
  | ctz (d : BitVec 5) (a : BitVec 5)
  /-- POPC (R79): Sets d to the count of one bits of a. -/
  | popc (d : BitVec 5) (a : BitVec 5)
  /-- ADDI (R80): Adds the sign-extended imm13 to a. -/
  | addi (d : BitVec 5) (a : BitVec 5) (i : BitVec 13)
  /-- ANDI (R80): Ands a with the zero-extended imm13. -/
  | andi (d : BitVec 5) (a : BitVec 5) (i : BitVec 13)
  /-- ORI (R80): Ors a with the zero-extended imm13. -/
  | ori (d : BitVec 5) (a : BitVec 5) (i : BitVec 13)
  /-- XORI (R80): Exclusive-ors a with the zero-extended imm13. -/
  | xori (d : BitVec 5) (a : BitVec 5) (i : BitVec 13)
  /-- SLLI (R80): Shifts a left by an immediate amount. -/
  | slli (d : BitVec 5) (a : BitVec 5) (s : BitVec 6)
  /-- SRLI (R80): Shifts a right logically by an immediate amount. -/
  | srli (d : BitVec 5) (a : BitVec 5) (s : BitVec 6)
  /-- SRAI (R80): Shifts a right arithmetically by an immediate amount. -/
  | srai (d : BitVec 5) (a : BitVec 5) (s : BitVec 6)
  /-- SLTI (R80): Sets d to 1 if a is less than the sign-extended imm13 as signed integers, else 0. -/
  | slti (d : BitVec 5) (a : BitVec 5) (i : BitVec 13)
  /-- LUI (R81): Sets d to sext(imm18) shifted left by 13 and clears df(d). -/
  | lui (d : BitVec 5) (i : BitVec 18)
  /-- SLOI (R82): Shifts a left by 13 and ors in the zero-extended imm13. -/
  | sloi (d : BitVec 5) (a : BitVec 5) (i : BitVec 13)
  /-- BEQ (R83): Takes the branch when a equals b. -/
  | beq (a : BitVec 5) (b : BitVec 5) (o : BitVec 13)
  /-- BNE (R83): Takes the branch when a differs from b. -/
  | bne (a : BitVec 5) (b : BitVec 5) (o : BitVec 13)
  /-- BLT (R83): Takes the branch when a is less than b as signed integers. -/
  | blt (a : BitVec 5) (b : BitVec 5) (o : BitVec 13)
  /-- BGE (R83): Takes the branch when a is greater than or equal to b as signed integers. -/
  | bge (a : BitVec 5) (b : BitVec 5) (o : BitVec 13)
  /-- BLTN (R83): Takes the branch when a is less than b as unsigned integers. -/
  | bltn (a : BitVec 5) (b : BitVec 5) (o : BitVec 13)
  /-- BGEN (R83): Takes the branch when a is greater than or equal to b as unsigned integers. -/
  | bgen (a : BitVec 5) (b : BitVec 5) (o : BitVec 13)
  /-- JAL (R84): Writes the link to d and jumps by off18. -/
  | jal (d : BitVec 5) (o : BitVec 18)
  /-- JALR (R85): Jumps to a + imm13 and writes the link to d. -/
  | jalr (d : BitVec 5) (a : BitVec 5) (i : BitVec 13)
  /-- LDB (R119): Loads 1 byte with sign extension. -/
  | ldb (d : BitVec 5) (a : BitVec 5) (i : BitVec 13)
  /-- LDBN (R119): Loads 1 byte with zero extension. -/
  | ldbn (d : BitVec 5) (a : BitVec 5) (i : BitVec 13)
  /-- LDH (R119): Loads 2 bytes with sign extension. -/
  | ldh (d : BitVec 5) (a : BitVec 5) (i : BitVec 13)
  /-- LDHN (R119): Loads 2 bytes with zero extension. -/
  | ldhn (d : BitVec 5) (a : BitVec 5) (i : BitVec 13)
  /-- LDW (R119): Loads 4 bytes with sign extension. -/
  | ldw (d : BitVec 5) (a : BitVec 5) (i : BitVec 13)
  /-- LDWN (R119): Loads 4 bytes with zero extension. -/
  | ldwn (d : BitVec 5) (a : BitVec 5) (i : BitVec 13)
  /-- LDD (R119): Loads 8 bytes; to a POD entry it becomes an 8-byte get. -/
  | ldd (d : BitVec 5) (a : BitVec 5) (i : BitVec 13)
  /-- LDO (R120): Reads the core's own uncollided next value of a planed element, or otherwise the present value. -/
  | ldo (d : BitVec 5) (a : BitVec 5) (i : BitVec 13)
  /-- LDS (R87): Speculative 8-byte load that defers a fault by marking d instead of trapping. -/
  | lds (d : BitVec 5) (a : BitVec 5) (i : BitVec 13)
  /-- CHK (R86): Branches when the deferred-fault bit of a is set. -/
  | chk (a : BitVec 5) (o : BitVec 13)
  /-- STB (R121): Stores 1 byte. -/
  | stb (s : BitVec 5) (a : BitVec 5) (i : BitVec 13)
  /-- STH (R121): Stores 2 bytes. -/
  | sth (s : BitVec 5) (a : BitVec 5) (i : BitVec 13)
  /-- STW (R121): Stores 4 bytes; in a planed range it writes the next plane. -/
  | stw (s : BitVec 5) (a : BitVec 5) (i : BitVec 13)
  /-- STD (R121): Stores 8 bytes; to a POD entry it becomes a put. -/
  | std (s : BitVec 5) (a : BitVec 5) (i : BitVec 13)
  /-- AADD (R122): Atomically adds b to memory at the selected width and returns the old value. -/
  | aadd (d : BitVec 5) (a : BitVec 5) (b : BitVec 5) (w : BitVec 1)
  /-- ASWP (R122): Atomically swaps b into memory and returns the old value. -/
  | aswp (d : BitVec 5) (a : BitVec 5) (b : BitVec 5) (w : BitVec 1)
  /-- ACAS (R122): Atomically stores b if memory equals d, and returns the old value. -/
  | acas (d : BitVec 5) (a : BitVec 5) (b : BitVec 5) (w : BitVec 1)
  /-- AMIN (R122): Atomically stores the signed minimum of memory and b. -/
  | amin (d : BitVec 5) (a : BitVec 5) (b : BitVec 5) (w : BitVec 1)
  /-- AMAX (R122): Atomically stores the signed maximum of memory and b. -/
  | amax (d : BitVec 5) (a : BitVec 5) (b : BitVec 5) (w : BitVec 1)
  /-- AAND (R122): Atomically ands b into memory. -/
  | aand (d : BitVec 5) (a : BitVec 5) (b : BitVec 5) (w : BitVec 1)
  /-- AOR (R122): Atomically ors b into memory. -/
  | aor (d : BitVec 5) (a : BitVec 5) (b : BitVec 5) (w : BitVec 1)
  /-- AXOR (R122): Atomically exclusive-ors b into memory. -/
  | axor (d : BitVec 5) (a : BitVec 5) (b : BitVec 5) (w : BitVec 1)
  /-- LDQ (R124): Moves a block from local scratch into a load queue once the queue has room. -/
  | ldq (k : BitVec 3) (q : BitVec 2) (a : BitVec 5) (i : BitVec 13)
  /-- STQ (R125): Moves a block from a store queue to local scratch once the queue holds it. -/
  | stq (k : BitVec 3) (q : BitVec 2) (a : BitVec 5) (i : BitVec 13)
  /-- CSRR (R90): Reads a CSR into d. -/
  | csrr (d : BitVec 5) (c : BitVec 13)
  /-- CSRW (R90): Writes a to a CSR. -/
  | csrw (a : BitVec 5) (c : BitVec 13)
  /-- CSRS (R90): Sets the bits of a in a CSR and returns the old value. -/
  | csrs (d : BitVec 5) (a : BitVec 5) (c : BitVec 13)
  /-- CSRC (R90): Clears the bits of a in a CSR and returns the old value. -/
  | csrc (d : BitVec 5) (a : BitVec 5) (c : BitVec 13)
  /-- CSR_WRITE (R90): A write to a CSR that has no row of its own changes its writable bits at the end of the issue cycle. -/
  | csrWrite (c : BitVec 13) (v : Dword)
  /-- DFMASK_WRITE (R77): A write to DFMASK sets every deferred-fault bit from the written value. -/
  | dfmaskWrite (v : Dword)
  /-- LATE_WRITE (R131): A supervisor write to LATE sets the LATE copy of every engine of the core. -/
  | lateWrite (v : Dword)
  /-- BUDGET_WRITE (R135): A write to BUDGET takes effect for the running step. -/
  | budgetWrite (v : Dword)
  /-- TWIN_WRITE (R35): A write to TWIN sets the text window, and a value outside 8 to 4,096 is ignored. -/
  | twinWrite (v : Dword)
  /-- STATUS_WRITE (R311): A write to STATUS changes PMASK, clears BND, and in supervisor mode also sets PMODE and FIDARM. -/
  | statusWrite (v : Dword)
  /-- RDE (R89): Waits until engine e has passed the word, then returns its status and resets its LATEMAX. -/
  | rde (d : BitVec 5) (e : BitVec 3)
  /-- FPUSH (R195): Appends a format word to the format queue. -/
  | fpush (a : BitVec 5)
  /-- HDEF (R97): Defines ring h with a base, slot size and count. -/
  | hdef (h : BitVec 4) (c : BitVec 6) (a : BitVec 5) (s : BitVec 4)
  /-- HADV_C (R98): Waits for w filled slots, then releases them. -/
  | hadvC (h : BitVec 4) (w : BitVec 6)
  /-- HADV_P (R98): Waits for w free slots, then commits them. -/
  | hadvP (h : BitVec 4) (w : BitVec 6)
  /-- HRD (R99): Reads the state of handle h into d. -/
  | hrd (h : BitVec 4) (d : BitVec 5)
  /-- PACQ (R339): Requests a power level, and waits for the grant when the level is higher. -/
  | pacq (a : BitVec 5) (i : BitVec 13)
  /-- PREL (R340): Lowers the granted power level. -/
  | prel (l : BitVec 4)
  /-- TRAP (R335): Raises the software trap, cause 0x18. -/
  | trap (c : BitVec 18)
  /-- WEV (R338): Holds CTL until a word differs from d or an asynchronous cause becomes pending. -/
  | wev (d : BitVec 5) (a : BitVec 5) (i : BitVec 13)
  /-- ADQ (R88): Adds the 128-bit register pair a into the pair d. -/
  | adq (d : BitVec 5) (a : BitVec 5)
  /-- BRK (R336): Raises a breakpoint, or halts the context for the fid when FIDARM is set. -/
  | brk (c : BitVec 18)
  /-- STEP (R149): Ends the step of a step group, arrives at its cleat and, with RS, opens a restartable step. -/
  | step (r : BitVec 1) (g : BitVec 6) (s : BitVec 3)
  /-- BAR (R150): Joins the members of a scope instance at a barrier, with an optional wait for performs. -/
  | bar (f : BitVec 1) (i : BitVec 4) (s : BitVec 3)
  /-- FENCE_M (R151): Holds CTL until the named engines have posted markers and their earlier operations have performed. -/
  | fenceM (m : BitVec 7)
  /-- FPCW (R196): Sets the rounding mode and flush bits of each engine's FPC copy. -/
  | fpcw (o : BitVec 1) (i : BitVec 1) (r : BitVec 2)
  /-- LATEW (R153): Sets the LATE window of the named engines. -/
  | latew (a : BitVec 5) (m : BitVec 7)
  /-- BUDG (R154): Sets the step budget. -/
  | budg (a : BitVec 5)
  /-- BNDSET (R197): Sets bound register n in each engine's copy. -/
  | bndset (n : BitVec 3) (a : BitVec 5) (b : BitVec 5) (c : BitVec 2)
  /-- MARK (R155): Writes a trace record when tracing is enabled. -/
  | mark (v : BitVec 18)
  /-- MNEST (R215): Sets the count, A stride and drain flag of a nest level. -/
  | mnest (a : BitVec 5) (b : BitVec 5) (r : BitVec 1) (l : BitVec 3)
  /-- MNESTC (R216): Sets the B and C strides of a nest level. -/
  | mnestc (a : BitVec 5) (b : BitVec 5) (l : BitVec 3)
  /-- MBASE (R217): Sets the C, A and B bases of the nest. -/
  | mbase (d : BitVec 5) (a : BitVec 5) (b : BitVec 5)
  /-- MGO (R218): Removes a format word and runs the passes of the loop nest. -/
  | mgo (h : BitVec 4) (w : BitVec 6) (c : BitVec 1) (r : BitVec 1)
  /-- MDRAIN (R219): Drains the accumulators through residual, dropout, bound and conversion. -/
  | mdrain (d : BitVec 5) (a : BitVec 5) (c : BitVec 1) (i : BitVec 4) (k : BitVec 2)
  /-- MDRAIN_AUTO (R219): Records the automatic drain configuration DCFG only. -/
  | mdrainAuto (a : BitVec 5) (c : BitVec 1) (i : BitVec 4) (k : BitVec 2)
  /-- MLDT (R221): Loads rows of local scratch into a tile, optionally digit-reversed. -/
  | mldt (a : BitVec 5) (b : BitVec 5) (v : BitVec 1) (m : BitVec 3)
  /-- MSTT (R221): Stores tile rows to local scratch, optionally digit-reversed. -/
  | mstt (a : BitVec 5) (b : BitVec 5) (v : BitVec 1) (m : BitVec 3)
  /-- MTRN (R222): Converts and transposes source data through a tile into BX blocks. -/
  | mtrn (d : BitVec 5) (a : BitVec 5) (b : BitVec 5) (x : BitVec 1) (c : BitVec 2) (m : BitVec 3)
  /-- MACT (R223): Copies the accumulators into a tile, optionally clearing them. -/
  | mact (c : BitVec 1) (m : BitVec 3)
  /-- MTWC (R237): Sets the transform configuration. -/
  | mtwc (a : BitVec 5) (b : BitVec 5) (v : BitVec 1)
  /-- MBFLY (R238): Computes one butterfly stage from tile ms into tile md. -/
  | mbfly (d : BitVec 3) (s : BitVec 3) (t : BitVec 4) (h : BitVec 3)
  /-- MDREV (R239): Applies the digit-reversal permutation, or its inverse, between tiles. -/
  | mdrev (d : BitVec 3) (s : BitVec 3) (v : BitVec 1)
  /-- MTEXP_SET (R240): Sets a tile exponent. -/
  | mtexpSet (a : BitVec 5) (m : BitVec 3)
  /-- MTEXP_ADD (R240): Adds to a tile exponent, with a range check. -/
  | mtexpAdd (a : BitVec 5) (m : BitVec 3)
  /-- MTEXP_ST (R240): Stores the eight tile exponents to local scratch. -/
  | mtexpSt (a : BitVec 5)
  /-- MGVCFG (R250): Sets the grouped-value configuration. -/
  | mgvcfg (a : BitVec 5) (b : BitVec 5)
  /-- MGVR (R251): Computes grouped-value rows from a record stream. -/
  | mgvr (h : BitVec 4) (w : BitVec 6) (a : BitVec 5) (n : BitVec 7) (r : BitVec 1)
  /-- MCHKR (R224): Writes the matrix status record, optionally clearing the status. -/
  | mchkr (d : BitVec 5) (c : BitVec 1)
  /-- MDROPK_KEY (R225): Sets the dropout key. -/
  | mdropkKey (a : BitVec 5) (b : BitVec 5)
  /-- MDROPK_CTR (R225): Sets the dropout counter base. -/
  | mdropkCtr (a : BitVec 5) (b : BitVec 5)
  /-- MDROPK_THR (R225): Sets the dropout threshold and keep-scale. -/
  | mdropkThr (a : BitVec 5) (b : BitVec 5)
  /-- MRES (R226): Sets the residual configuration. -/
  | mres (a : BitVec 5) (b : BitVec 5) (f : BitVec 1)
  /-- VSHAPE (R260): Sets the vector shape. -/
  | vshape (c : BitVec 5) (r : BitVec 5)
  /-- VLDQ (R261): Takes bytes from a load queue into a register. -/
  | vldq (d : BitVec 4) (b : BitVec 1) (q : BitVec 2)
  /-- VSTQ (R262): Puts register elements into a store queue, with an optional bound check. -/
  | vstq (a : BitVec 4) (n : BitVec 3) (e : BitVec 1) (b : BitVec 1) (q : BitVec 1)
  /-- VADD (R263): Adds FP32 elements. -/
  | vadd (d : BitVec 4) (a : BitVec 4) (b : BitVec 4)
  /-- VSUB (R263): Subtracts FP32 elements. -/
  | vsub (d : BitVec 4) (a : BitVec 4) (b : BitVec 4)
  /-- VMUL (R263): Multiplies FP32 elements. -/
  | vmul (d : BitVec 4) (a : BitVec 4) (b : BitVec 4)
  /-- VMIN (R263): Takes the FP32 minimum of elements. -/
  | vmin (d : BitVec 4) (a : BitVec 4) (b : BitVec 4)
  /-- VMAX (R263): Takes the FP32 maximum of elements. -/
  | vmax (d : BitVec 4) (a : BitVec 4) (b : BitVec 4)
  /-- VIADD (R264): Adds INT32 elements. -/
  | viadd (d : BitVec 4) (a : BitVec 4) (b : BitVec 4)
  /-- VISUB (R264): Subtracts INT32 elements. -/
  | visub (d : BitVec 4) (a : BitVec 4) (b : BitVec 4)
  /-- VIMUL (R264): Multiplies INT32 elements. -/
  | vimul (d : BitVec 4) (a : BitVec 4) (b : BitVec 4)
  /-- VAND (R264): Ands elements bitwise. -/
  | vand (d : BitVec 4) (a : BitVec 4) (b : BitVec 4)
  /-- VOR (R264): Ors elements bitwise. -/
  | vor (d : BitVec 4) (a : BitVec 4) (b : BitVec 4)
  /-- VXOR (R264): Exclusive-ors elements bitwise. -/
  | vxor (d : BitVec 4) (a : BitVec 4) (b : BitVec 4)
  /-- VSHL (R264): Shifts elements left. -/
  | vshl (d : BitVec 4) (a : BitVec 4) (b : BitVec 4)
  /-- VSHR (R264): Shifts elements right arithmetically. -/
  | vshr (d : BitVec 4) (a : BitVec 4) (b : BitVec 4)
  /-- VFMA (R265): Fused multiply-add of FP32 elements. -/
  | vfma (d : BitVec 4) (a : BitVec 4) (b : BitVec 4) (c : BitVec 4)
  /-- VNEG (R266): Negates elements. -/
  | vneg (d : BitVec 4) (a : BitVec 4)
  /-- VABS (R266): Takes the absolute value of elements. -/
  | vabs (d : BitVec 4) (a : BitVec 4)
  /-- VRCP (R266): Correctly rounded reciprocal of elements. -/
  | vrcp (d : BitVec 4) (a : BitVec 4)
  /-- VRSQ (R266): Correctly rounded reciprocal square root of elements. -/
  | vrsq (d : BitVec 4) (a : BitVec 4)
  /-- VSQRT (R266): Correctly rounded square root of elements. -/
  | vsqrt (d : BitVec 4) (a : BitVec 4)
  /-- VEXP2 (R266): Correctly rounded 2 to the power x of elements. -/
  | vexp2 (d : BitVec 4) (a : BitVec 4)
  /-- VLOG2 (R266): Correctly rounded base-2 logarithm of elements. -/
  | vlog2 (d : BitVec 4) (a : BitVec 4)
  /-- VSINP (R266): Correctly rounded sin(pi x) of elements. -/
  | vsinp (d : BitVec 4) (a : BitVec 4)
  /-- VFLOOR (R266): Floor of FP32 elements. -/
  | vfloor (d : BitVec 4) (a : BitVec 4)
  /-- VCVT (R198): Converts elements between FP32, BF16 and INT32. -/
  | vcvt (d : BitVec 4) (a : BitVec 4) (x : BitVec 1) (o : BitVec 3)
  /-- VQBX (R199): Quantizes each row into a BX block. -/
  | vqbx (d : BitVec 4) (a : BitVec 4) (x : BitVec 1) (f : BitVec 3)
  /-- VDQBX (R200): Expands BX blocks into FP32 elements. -/
  | vdqbx (d : BitVec 4) (a : BitVec 4) (f : BitVec 3)
  /-- VPACK (R201): Narrows elements with saturation into a byte image. -/
  | vpack (d : BitVec 4) (a : BitVec 4) (u : BitVec 1) (k : BitVec 2)
  /-- VUNPK (R201): Widens a byte image into elements. -/
  | vunpk (d : BitVec 4) (a : BitVec 4) (u : BitVec 1) (k : BitVec 2)
  /-- VCMP (R268): Compares elements and writes 1 or 0. -/
  | vcmp (d : BitVec 4) (a : BitVec 4) (b : BitVec 4) (i : BitVec 1) (c : BitVec 3)
  /-- VSEL (R269): Selects elements of va or vb by the condition in vc. -/
  | vsel (d : BitVec 4) (a : BitVec 4) (b : BitVec 4) (c : BitVec 4) (i : BitVec 1)
  /-- VRED_SUM_ROW (R270): Tree sum of each row. -/
  | vredSumRow (d : BitVec 4) (a : BitVec 4)
  /-- VRED_MAX_ROW (R270): Maximum of each row. -/
  | vredMaxRow (d : BitVec 4) (a : BitVec 4)
  /-- VRED_MIN_ROW (R270): Minimum of each row. -/
  | vredMinRow (d : BitVec 4) (a : BitVec 4)
  /-- VRED_SUM_COL (R270): Tree sum of each column. -/
  | vredSumCol (d : BitVec 4) (a : BitVec 4)
  /-- VRED_MAX_COL (R270): Maximum of each column. -/
  | vredMaxCol (d : BitVec 4) (a : BitVec 4)
  /-- VRED_MIN_COL (R270): Minimum of each column. -/
  | vredMinCol (d : BitVec 4) (a : BitVec 4)
  /-- VRED_SUM_ALL (R270): Tree sum of the whole shape. -/
  | vredSumAll (d : BitVec 4) (a : BitVec 4)
  /-- VRED_MAX_ALL (R270): Maximum of the whole shape. -/
  | vredMaxAll (d : BitVec 4) (a : BitVec 4)
  /-- VRED_MIN_ALL (R270): Minimum of the whole shape. -/
  | vredMinAll (d : BitVec 4) (a : BitVec 4)
  /-- VBCAST (R271): Broadcasts values across rows, columns or the whole shape. -/
  | vbcast (d : BitVec 4) (a : BitVec 4) (m : BitVec 2)
  /-- VXDEF (R276): Fills an expression slot after a depth check. -/
  | vxdef (x : BitVec 4) (a : BitVec 5) (b : BitVec 5)
  /-- VEXPR (R277): Runs an expression slot on every lane. -/
  | vexpr (d : BitVec 4) (x : BitVec 4)
  /-- VDEFER (R279): Appends the lanes that need a slow path to the deferral queue. -/
  | vdefer (a : BitVec 4) (b : BitVec 4) (k : BitVec 2)
  /-- VDRAIN (R280): Gathers deferred lanes densely into registers. -/
  | vdrain (d : BitVec 4) (a : BitVec 4) (k : BitVec 2)
  /-- VDRET (R281): Scatters values back by coordinate. -/
  | vdret (d : BitVec 4) (a : BitVec 4) (b : BitVec 4)
  /-- VRNG (R283): Draws Splice random words or uniforms and advances the counter. -/
  | vrng (d : BitVec 4) (u : BitVec 1)
  /-- VRNGK_KEY (R284): Sets the Splice key. -/
  | vrngkKey (a : BitVec 5) (b : BitVec 5)
  /-- VRNGK_CTR (R284): Sets the Splice counter. -/
  | vrngkCtr (a : BitVec 5) (b : BitVec 5)
  /-- VRNGK_ADD (R284): Adds to the Splice counter. -/
  | vrngkAdd (a : BitVec 5) (b : BitVec 5)
  /-- VRNGK_SAVE (R284): Writes the key and counter into a vector register. -/
  | vrngkSave (d : BitVec 4)
  /-- VGRPC (R252): Compresses INT8 rows into grouped-value records. -/
  | vgrpc (d : BitVec 4) (a : BitVec 4) (b : BitVec 4) (c : BitVec 4) (l : BitVec 4)
  /-- VIOTA (R272): Writes linear, row or column indices. -/
  | viota (d : BitVec 4) (m : BitVec 2)
  /-- VPERM (R273): Permutes elements by index. -/
  | vperm (d : BitVec 4) (a : BitVec 4) (b : BitVec 4)
  /-- VTRN (R274): Transposes the shape. -/
  | vtrn (d : BitVec 4) (a : BitVec 4)
  /-- CGEO (R169): Sets a geometry level of a copy channel. -/
  | cgeo (d : BitVec 5) (a : BitVec 5) (b : BitVec 5) (l : BitVec 3) (c : BitVec 3)
  /-- CLAY (R170): Sets a channel's layout record. -/
  | clay (a : BitVec 5) (b : BitVec 5) (c : BitVec 3)
  /-- CGO (R171): Checks and starts a copy on a channel. -/
  | cgo (d : BitVec 5) (a : BitVec 5) (b : BitVec 5) (s : BitVec 1) (g : BitVec 1) (e : BitVec 3) (c : BitVec 3)
  /-- CSCHED (R173): Binds a copy schedule table to a channel. -/
  | csched (a : BitVec 5) (b : BitVec 5) (c : BitVec 3)
  /-- CADV (R174): Releases n schedule entries. -/
  | cadv (c : BitVec 5) (n : BitVec 13)
  /-- CPAGE (R176): Moves page homes to another BF die. -/
  | cpage (d : BitVec 5) (a : BitVec 5) (b : BitVec 5) (f : BitVec 1) (c : BitVec 3)
  /-- CSTOP (R175): Cancels the copies of the masked channels. -/
  | cstop (m : BitVec 8)
  /-- CFILL (R172): Fills memory with a pattern. -/
  | cfill (d : BitVec 5) (a : BitVec 5) (b : BitVec 5) (g : BitVec 1) (e : BitVec 3) (c : BitVec 3)
  /-- COPY_ELEMENT (R162): An element of a fixed copy is read and written at its offsets. -/
  | copyElement (c : BitVec 3)
  /-- COPY_PIECE (R161): A piece of up to 4 KiB of a variable copy is moved by the executing CPY. -/
  | copyPiece (c : BitVec 3)
  /-- PAGE_MOVE (R176): A page is copied to its new home and its busy bit clears. -/
  | pageMove (c : BitVec 3) (err : Bool)
  /-- LPUSH (R294): Sends a timed push of up to 64 beats in the core's owned slots. -/
  | lpush (h : BitVec 4) (w : BitVec 6) (a : BitVec 5) (r : BitVec 1)
  /-- LSLOT (R295): Claims lanyard slots. -/
  | lslot (a : BitVec 5)
  /-- LSLOT_REL (R295): Releases lanyard slots. -/
  | lslotRel (a : BitVec 5)
  /-- LPUT (R299): Writes local data to a remote package. -/
  | lput (d : BitVec 5) (a : BitVec 5) (b : BitVec 5)
  /-- LGET (R299): Reads remote data into local scratch. -/
  | lget (d : BitVec 5) (a : BitVec 5) (b : BitVec 5)
  /-- LSIG (R300): Atomically adds to a remote word with notify. -/
  | lsig (a : BitVec 5) (b : BitVec 5)
  /-- LAADD (R301): Remote atomic add. -/
  | laadd (d : BitVec 5) (a : BitVec 5) (b : BitVec 5) (w : BitVec 1)
  /-- LASWP (R301): Remote atomic swap. -/
  | laswp (d : BitVec 5) (a : BitVec 5) (b : BitVec 5) (w : BitVec 1)
  /-- LACAS (R301): Remote atomic compare and swap. -/
  | lacas (d : BitVec 5) (a : BitVec 5) (b : BitVec 5) (w : BitVec 1)
  /-- LAMIN (R301): Remote atomic signed minimum. -/
  | lamin (d : BitVec 5) (a : BitVec 5) (b : BitVec 5) (w : BitVec 1)
  /-- LAMAX (R301): Remote atomic signed maximum. -/
  | lamax (d : BitVec 5) (a : BitVec 5) (b : BitVec 5) (w : BitVec 1)
  /-- LAAND (R301): Remote atomic and. -/
  | laand (d : BitVec 5) (a : BitVec 5) (b : BitVec 5) (w : BitVec 1)
  /-- LAOR (R301): Remote atomic or. -/
  | laor (d : BitVec 5) (a : BitVec 5) (b : BitVec 5) (w : BitVec 1)
  /-- LAXOR (R301): Remote atomic exclusive or. -/
  | laxor (d : BitVec 5) (a : BitVec 5) (b : BitVec 5) (w : BitVec 1)
  /-- LWSIG (R302): Holds LNK until a word reaches a value. -/
  | lwsig (d : BitVec 5) (a : BitVec 5) (i : BitVec 13)
  /-- POD_ANSWER (R298): The fabric answers a pod request, and its data is written or its operation performs. -/
  | podAnswer (k : CoreId) (pkg : BitVec 13) (r : PodAns)
  /-- GTAB (R305): Defines a gather table. -/
  | gtab (d : BitVec 5) (a : BitVec 5) (b : BitVec 5) (g : BitVec 1) (f : BitVec 3) (t : BitVec 2)
  /-- GTHR (R306): Gathers table rows by index into a ring slot. -/
  | gthr (h : BitVec 4) (w : BitVec 6) (a : BitVec 5)
  /-- GSUM (R306): Gathers table rows and sums them by bag. -/
  | gsum (h : BitVec 4) (w : BitVec 6) (a : BitVec 5)
  /-- CGRP (R308): Binds a pod group from a member table. -/
  | cgrp (a : BitVec 5) (b : BitVec 5) (g : BitVec 3)
  /-- CRED (R309): All-reduce across the members of a pod group. -/
  | cred (d : BitVec 5) (a : BitVec 5) (b : BitVec 5) (o : BitVec 2) (t : BitVec 2) (g : BitVec 3)
  /-- CRSC (R309): Reduce-scatter across the members of a pod group. -/
  | crsc (d : BitVec 5) (a : BitVec 5) (b : BitVec 5) (o : BitVec 2) (t : BitVec 2) (g : BitVec 3)
  /-- CALLG (R309): All-gather across the members of a pod group. -/
  | callg (d : BitVec 5) (a : BitVec 5) (b : BitVec 5) (t : BitVec 2) (g : BitVec 3)
  /-- CBC (R309): Broadcast from a root rank across the members of a pod group. -/
  | cbc (d : BitVec 5) (a : BitVec 5) (b : BitVec 5) (t : BitVec 2) (g : BitVec 3)
  /-- COLLECTIVE_DONE (R310): A collective performs when its whole destination is written, or faults asynchronously. -/
  | collectiveDone (k : CoreId) (g : BitVec 3) (r : CollRes)
  /-- PLANED_STORE (R114): A store to a planed element performs under the region's collision rule. -/
  | planedStore (x : CtxId) (k : CoreId) (a : Dword) (v : Dword)
  /-- FEC_FAILURE (R292): A link block that cannot be corrected becomes an uncorrectable error of its traffic. -/
  | fecFailure (k : Nat)
  /-- CONTEXT_RESUME (R322): A pre-empted context is restored and resumed, and cause 0x20 is raised. -/
  | contextResume (bad : Bool) (mirrorBad : Bool)
  /-- UNCORRECTABLE_ERROR (R325): A core consumes an uncorrectable error, which is logged and cancels its running step. -/
  | uncorrectableError (k : CoreId) (e : ErrInfo)
  /-- THROTTLE_START (R333): Measured power above budget throttles the lowest-PRIO context, and cause 0x21 is raised. -/
  | throttleStart (site : BitVec 6) (share : Byte)
  /-- THROTTLE_END (R333): Throttling ends, and cause 0x21 is raised again. -/
  | throttleEnd (site : BitVec 6)
  /-- THROTTLE_ESCALATE (R333): After 1 ms over budget, the next-lowest context is throttled as well. -/
  | throttleEscalate (site : BitVec 6) (share : Byte)
  /-- ENERGY_ACCOUNT (R334): PWRACC is updated at the end of each 4,096-cycle accounting interval. -/
  | energyAccount (x : CtxId) (uj : Nat)
  /-- BOOT (R342): At power-on or module reset, firmware runs the boot steps in order. -/
  | boot (r : BootRes)
  /-- IMGPUT (R67): Host message carrying an image fragment, checked after the last fragment. -/
  | imgput (h : MsgHdr) (img : BitVec 32) (off : Nat) (bytes : List Byte)
  /-- LAUNCH (R318): Host message posting a launch record to a queue. -/
  | launch (h : MsgHdr) (bytes : List Byte)
  /-- KILL (R324): Host message requesting the kill of a context. -/
  | kill (h : MsgHdr) (x : Byte)
  /-- STATUS (R346): Host message returning the mix registers, boot record, contexts and queue depths. -/
  | status (h : MsgHdr)
  /-- MEMRD (R355): Host message reading a window of STAGE, HBM or TIER2 memory. -/
  | memrd (h : MsgHdr) (space : Byte) (bf : Byte) (off : Nat) (len : Nat)
  /-- MEMWR (R355): Host message writing a window of STAGE, HBM or TIER2 memory. -/
  | memwr (h : MsgHdr) (space : Byte) (bf : Byte) (off : Nat) (bytes : List Byte)
  /-- NOTIFY (R317): Host message raising cause 0x24 at the named cores. -/
  | notify (h : MsgHdr) (x : Byte) (cores : List CoreId) (w : Dword)
  /-- FID (R328): Fid command on the host port or the sideband connector. -/
  | fid (h : MsgHdr) (c : FidCmd)
  /-- LOGRD (R352): Host message reading error log records. -/
  | logrd (h : MsgHdr) (bf : Byte) (first : Nat) (count : Nat)
  /-- QUOTE (R348): Host message requesting a signed attestation quote. -/
  | quote (h : MsgHdr) (nonce : List Byte)
  /-- KEYSET (R347): Host message installing or clearing a key slot. -/
  | keyset (h : MsgHdr) (slot : Byte) (key : List Byte) (sig : List Byte)
  /-- FWUPD (R346): Host message carrying a firmware fragment for the copy not in use. -/
  | fwupd (h : MsgHdr) (off : Nat) (bytes : List Byte)
  /-- CLEARBOOT (R343): Host message resetting the boot record. -/
  | clearboot (h : MsgHdr)
  /-- RESET (R342): Host message resetting the module. -/
  | reset (h : MsgHdr)
  /-- ACK (R346): Acknowledgement of a message or notice by SEQ. -/
  | ack (h : MsgHdr) (seq : BitVec 32) (result : Byte)
  /-- SCRUB_READ (R351): The patrol scrub reads a word through its scrub port, corrects it or marks it poisoned. -/
  | scrubRead (l : EccLoc) (r : EccRes)
  /-- DROOP_INJECTION (R349): A detected droop ties the quad to a higher rail within the duty limit. -/
  | droopInjection (site : BitVec 6) (quad : BitVec 2)
  /-- UNASSIGNED_OPCODE (R45): An engine reaches a word whose OP is unassigned for its engine, or a reserved ALL opcode such as 0xFFFF_FFFF, and raises cause 0x01 under R38 and R40. -/
  | unassignedOpcode (w : Word)
  /-- POD_REQUEST_ARRIVAL (R298): A hawser request from another package arrives at a CL die and is translated through the table of the context holding its key, then performed at the home, raising notifies, or answered as fenced or with a remote error. -/
  | podRequestArrival (r : PodReq)
  /-- POD_BARRIER_HOLD (R328): A partner package receives HOLD for a POD barrier and suspends the deadline count and lateness of its waiting cores until HOLD is lifted. -/
  | podBarrierHold (on : Bool)
  /-- KEY_REVOCATION (R298): The fabric manager revokes a partition key, after which requests carrying it are dropped at the switches or the receiving CL die and answered as fenced. -/
  | keyRevocation (key : BitVec 16)
  /-- LOWER_DIE_BUDGETS (R353): When the module runs outside the integration figures of Table 15-8 but short of the trip limits, firmware lowers the die budgets of R332. -/
  | lowerDieBudgets (budgets : List (BitVec 6 × Nat))
  /-- POD_BARRIER_EXCHANGE (R139): Arrival messages of a POD barrier are exchanged over the hawser fabric before release. -/
  | podBarrierExchange
  /-- SRET (R337): Returns from a trap and resumes the stopped engines, or enters a pending trap. -/
  | sret
  /-- EXIT (R152): Ends each engine's program. -/
  | exit
  /-- MGO_PASS (R209): One pass reads an A panel and a B row, after any watermark stall, and accumulates into ACC. -/
  | mgoPass
  /-- AUTO_DRAIN (R213): An automatic drain follows a pass that completes a level with DRN set. -/
  | autoDrain
  /-- MCLRA (R220): Clears the accumulators. -/
  | mclra
  /-- MGVR_CHUNK (R248): One four-token chunk of an MGVR stream is read and checked, and completed rows are written. -/
  | mgvrChunk
  /-- VAMXR (R202): Resets AMAX and AMAXF at retirement. -/
  | vamxr
  /-- VEC_RETIRE (R190): A VEC word retires in issue order, and its running-maximum and flag updates take effect. -/
  | vecRetire
  /-- COPY_STATUS_WRITE (R166): CPY writes the channel status doubleword after a cycle in which WM, STATE or CAUSE changed. -/
  | copyStatusWrite
  /-- COPY_STOP_COMPLETE (R175): A cancelled channel becomes STOPPED once its last write in flight has performed. -/
  | copyStopComplete
  /-- SCHEDULE_ENTRY_START (R174): A channel with PEND above zero and not BUSY takes its next schedule entry and runs it. -/
  | scheduleEntryStart
  /-- PUSH_BEAT_DEPART (R289): A push beat leaves a die of its route in its slot. -/
  | pushBeatDepart
  /-- PUSH_LANDING (R290): A push lands in the consumer's ring when its last beat arrives, and FILL rises. -/
  | pushLanding
  /-- LQUIET (R303): Holds LNK until the core's outstanding pod requests are answered. -/
  | lquiet
  /-- WAIT_WORD_READ (R302): A read of a word that an LWSIG or WEV waits on returns its value and may end the wait. -/
  | waitWordRead
  /-- SIGNAL_NOTIFY (R302): A notify for a word reaches a waiting core and triggers a fresh read. -/
  | signalNotify
  /-- WAIT_PERIODIC_READ (R302): A stage word under wait is read again 512 cycles after the previous read. -/
  | waitPeriodicRead
  /-- GATHER_ROW_ARRIVE (R304): A row of a STAGE table arrives, and the output commits after the last row. -/
  | gatherRowArrive
  /-- CTL_RETIRE (R73): CTL retires a word in text order. -/
  | ctlRetire
  /-- STAGE_ACCESS_PERFORM (R108): A stage-memory request reaches its home and performs there. -/
  | stageAccessPerform
  /-- STAGE_REPLY (R108): A stage reply returns and makes the load result ready. -/
  | stageReply
  /-- CLAIM_ARRIVAL (R116): A claim reaches a FAULT-rule element and is granted or refused. -/
  | claimArrival
  /-- CLAIM_ANSWER (R116): A claim's answer returns, and the store issues or faults. -/
  | claimAnswer
  /-- RESIDUE_BEAT (R293): A residue beat on a link direction carries the head entry of its residue queue. -/
  | residueBeat
  /-- DEVIATION_TRAP (R130): An own word not issued by scheduled + W takes the deviation trap, cause 0x0A. -/
  | deviationTrap
  /-- DEADLINE_FAULT (R135): A core that has not arrived at a STEP within BUDGET cycles takes cause 0x0B. -/
  | deadlineFault
  /-- CLEAT_RELEASE (R137): A cleat releases every member at A_max + L. -/
  | cleatRelease
  /-- STEP_CONTINUE (R149): At its continue cycle a member resumes, STEPCNT rises and a restartable step takes its checkpoint. -/
  | stepContinue
  /-- PLANE_SWAP (R117): At cycle S the planed regions of the group swap present and next planes. -/
  | planeSwap
  /-- CORE_EXIT_RETIRE (R152): The core retires EXIT once all engines have reached it and every operation has performed. -/
  | coreExitRetire
  /-- TRAP_ENTRY (R313): CTL takes a pending takeable cause at an instruction boundary and enters a handler. -/
  | trapEntry
  /-- CONTEXT_START (R126): The capstan's start pulse leaves site 14 at G0, giving each unit its local cycle 0. -/
  | contextStart
  /-- LAUNCH_PLACE (R320): The sequencer places the first ready kernel that has a placeable variant. -/
  | launchPlace
  /-- GRAPH_NODE_READY (R319): A graph node whose predecessors have finished is evaluated. -/
  | graphNodeReady
  /-- GRAPH_WAIT_POLL (R319): A WAIT node rereads its word at least every 10 us. -/
  | graphWaitPoll
  /-- PREEMPT_FREEZE (R322): The sequencer freezes a victim context at a common cycle F and saves its state. -/
  | preemptFreeze
  /-- PMASK_TIMEOUT (R322): PMASK is ignored once it has been held 4,096 local cycles. -/
  | pmaskTimeout
  /-- KILL_COMPLETE (R324): Kill-complete is posted after the last write has performed or been discarded. -/
  | killComplete
  /-- STEP_CANCEL (R327): The context freezes at least 64 cycles after the error, and the step is discarded. -/
  | stepCancel
  /-- POWER_GRANT (R332): The die power controller grants a waiting power raise. -/
  | powerGrant
  /-- SCRUB_WRITEBACK (R350): A corrected word is written back in a free write-port cycle, or dropped if overtaken. -/
  | scrubWriteback
  /-- THERMAL_TRIP (R353): Coolant or junction temperature beyond its limit kills every context and moors the module. -/
  | thermalTrip
  deriving DecidableEq, Repr

end Sys2Proof
end

