-- ==== Sys2Proof/WellFormed.lean ====
section
/-! DEFINITION. WellFormed.lean: the limits that the decode checks 3 to 5 of Table 2-6 put on the operand
fields alone (what they ask of the context or of the die is checked where the word executes). -/
namespace Sys2Proof

/-- Check 3 (reason 1): every selector field holds an assigned value. -/
def Instr.selectorOk : Instr → Bool
  | .step _ _ s => s.toNat < 6
  | .bar _ _ s => s.toNat < 6
  | .vcvt _ _ x o => decide (o.toNat < 4) && !(x == 1 && o == 3)
  | .vpack _ _ u k => decide (k.toNat < 3) && !(u == 1 && k == 2)
  | .vunpk _ _ u k => decide (k.toNat < 3) && !(u == 1 && k == 2)
  | .vcmp _ _ _ _ c => c.toNat < 6
  | .vbcast _ _ m => m.toNat < 3
  | .viota _ m => m.toNat < 3
  | .mdrain _ _ _ _ k => k.toNat < 3
  | .mdrainAuto _ _ _ k => k.toNat < 3
  | .mtrn _ _ _ _ c _ => c.toNat < 3
  | .mbfly _ _ _ h => h.toNat < 5
  | .gtab _ _ _ _ f _ => f.toNat < 5
  | .cred _ _ _ o t _ => decide (o.toNat < 3) && decide (t.toNat < 3)
  | .crsc _ _ _ o t _ => decide (o.toNat < 3) && decide (t.toNat < 3)
  | .callg _ _ _ t _ => t.toNat < 3
  | .cbc _ _ _ t _ => t.toNat < 3
  | _ => true

/-- Check 4 (reason 2), as far as it depends on another field: a field that the chosen form does not use is
zero (R219, R262). -/
def Instr.unusedZero : Instr → Bool
  | .vstq _ n e _ _ => e == 1 || n == 0
  | .mdrain d _ _ i k => (k != 0 || i == 0) && (k == 0 || d == 0)
  | .mdrainAuto _ _ i k => k != 0 || i == 0
  | _ => true

/-- Check 5 (reason 3), as far as the word alone decides it: an operand names something the instruction can
name. -/
def Instr.operandOk : Instr → Bool
  | .adq d a => decide (d.toNat % 2 = 0) && d != 0 && decide (a.toNat % 2 = 0) && a != 0
  | .rde _ e => e != 0 && e != 7
  | .hdef _ _ _ s => s.toNat ≤ 10
  | .ldq k _ _ _ => k != 7
  | .stq k q _ _ => k != 7 && decide (q.toNat < 2)
  | .step _ _ s => s.toNat ≥ 2
  | .bar _ _ s => s.toNat ≥ 2
  | .mnest _ _ _ l => l.toNat < 6
  | .mnestc _ _ l => l.toNat < 6
  | .mdrain _ _ _ i k => k != 1 || decide (i.toNat < 8)
  | .mdrainAuto _ _ i k => k != 1 || decide (i.toNat < 8)
  | .mbfly _ _ t _ => t.toNat < 14
  | .vgrpc d _ b c _ => d != b && c != d && c != b
  | .vdefer _ b k => b.toNat + k.toNat ≤ 15
  | .vdrain d a k => decide (d.toNat + k.toNat ≤ 15) && !(decide (d.toNat ≤ a.toNat) && decide (a.toNat ≤ d.toNat + k.toNat))
  | .vdret d a b => d != a && d != b
  | .cgeo _ _ _ l _ => l.toNat < 6
  | .cgo _ _ _ _ _ e _ => e != 7
  | .cfill _ _ _ _ e _ => e != 7
  | .cadv c n => decide (c.toNat < 8) && decide (1 ≤ n.toNat) && decide (n.toNat ≤ 255)
  | .cstop m => m != 0
  | _ => true

/-- A well-formed instruction: its word passes every decode check that the word alone decides. -/
def Instr.wf (i : Instr) : Bool := i.selectorOk && i.unusedZero && i.operandOk

end Sys2Proof
end

