-- ==== Sys2Proof/Decode.lean ====
section
/-! DEFINITION. Decode.lean: from a word to an instruction (R27 to R30, R38, R45 to R51), and back. -/
namespace Sys2Proof

/-- Why a word is no instruction (checks 3 and 4 of Table 2-6; a word whose OP is unassigned is the step
unassignedOpcode, check 2). -/
inductive DecodeReject where
  /-- Check 3: fn or a selector has an unassigned value (reason 1). -/
  | badSelector
  /-- Check 4: a reserved field or bit is nonzero (reason 2). -/
  | reservedNonzero
  deriving DecidableEq, Repr

/-- The engine field of a word (R27, Table 2-1). -/
def engField (w : Word) : BitVec 3 := w.extractLsb' 29 3

/-- The word of an instruction, from the encoding tables of its entry; a step without an encoding has none,
and its word reads as zero. -/
def encode : Instr → Word
  | .ill n => 0#3 ++ 0#6 ++ n
  | .add d a b => 0#3 ++ 1#6 ++ d ++ a ++ b ++ 0#8
  | .sub d a b => 0#3 ++ 1#6 ++ d ++ a ++ b ++ 1#8
  | .and d a b => 0#3 ++ 1#6 ++ d ++ a ++ b ++ 2#8
  | .or d a b => 0#3 ++ 1#6 ++ d ++ a ++ b ++ 3#8
  | .xor d a b => 0#3 ++ 1#6 ++ d ++ a ++ b ++ 4#8
  | .sll d a b => 0#3 ++ 1#6 ++ d ++ a ++ b ++ 5#8
  | .srl d a b => 0#3 ++ 1#6 ++ d ++ a ++ b ++ 6#8
  | .sra d a b => 0#3 ++ 1#6 ++ d ++ a ++ b ++ 7#8
  | .slt d a b => 0#3 ++ 1#6 ++ d ++ a ++ b ++ 8#8
  | .sltn d a b => 0#3 ++ 1#6 ++ d ++ a ++ b ++ 9#8
  | .min d a b => 0#3 ++ 1#6 ++ d ++ a ++ b ++ 0xa#8
  | .max d a b => 0#3 ++ 1#6 ++ d ++ a ++ b ++ 0xb#8
  | .minn d a b => 0#3 ++ 1#6 ++ d ++ a ++ b ++ 0xc#8
  | .maxn d a b => 0#3 ++ 1#6 ++ d ++ a ++ b ++ 0xd#8
  | .mul d a b => 0#3 ++ 1#6 ++ d ++ a ++ b ++ 0x10#8
  | .mulh d a b => 0#3 ++ 1#6 ++ d ++ a ++ b ++ 0x11#8
  | .mulhn d a b => 0#3 ++ 1#6 ++ d ++ a ++ b ++ 0x12#8
  | .div d a b => 0#3 ++ 1#6 ++ d ++ a ++ b ++ 0x14#8
  | .divn d a b => 0#3 ++ 1#6 ++ d ++ a ++ b ++ 0x15#8
  | .rem d a b => 0#3 ++ 1#6 ++ d ++ a ++ b ++ 0x16#8
  | .remn d a b => 0#3 ++ 1#6 ++ d ++ a ++ b ++ 0x17#8
  | .clz d a => 0#3 ++ 1#6 ++ d ++ a ++ 0x18#13
  | .ctz d a => 0#3 ++ 1#6 ++ d ++ a ++ 0x19#13
  | .popc d a => 0#3 ++ 1#6 ++ d ++ a ++ 0x1a#13
  | .addi d a i => 0#3 ++ 2#6 ++ d ++ a ++ i
  | .andi d a i => 0#3 ++ 3#6 ++ d ++ a ++ i
  | .ori d a i => 0#3 ++ 4#6 ++ d ++ a ++ i
  | .xori d a i => 0#3 ++ 5#6 ++ d ++ a ++ i
  | .slli d a s => 0#3 ++ 6#6 ++ d ++ a ++ 0#7 ++ s
  | .srli d a s => 0#3 ++ 7#6 ++ d ++ a ++ 0#7 ++ s
  | .srai d a s => 0#3 ++ 8#6 ++ d ++ a ++ 0#7 ++ s
  | .slti d a i => 0#3 ++ 9#6 ++ d ++ a ++ i
  | .lui d i => 0#3 ++ 0xa#6 ++ d ++ i
  | .sloi d a i => 0#3 ++ 0xb#6 ++ d ++ a ++ i
  | .beq a b o => 0#3 ++ 0xc#6 ++ a ++ b ++ o
  | .bne a b o => 0#3 ++ 0xd#6 ++ a ++ b ++ o
  | .blt a b o => 0#3 ++ 0xe#6 ++ a ++ b ++ o
  | .bge a b o => 0#3 ++ 0xf#6 ++ a ++ b ++ o
  | .bltn a b o => 0#3 ++ 0x10#6 ++ a ++ b ++ o
  | .bgen a b o => 0#3 ++ 0x11#6 ++ a ++ b ++ o
  | .jal d o => 0#3 ++ 0x12#6 ++ d ++ o
  | .jalr d a i => 0#3 ++ 0x13#6 ++ d ++ a ++ i
  | .ldb d a i => 0#3 ++ 0x14#6 ++ d ++ a ++ i
  | .ldbn d a i => 0#3 ++ 0x15#6 ++ d ++ a ++ i
  | .ldh d a i => 0#3 ++ 0x16#6 ++ d ++ a ++ i
  | .ldhn d a i => 0#3 ++ 0x17#6 ++ d ++ a ++ i
  | .ldw d a i => 0#3 ++ 0x18#6 ++ d ++ a ++ i
  | .ldwn d a i => 0#3 ++ 0x19#6 ++ d ++ a ++ i
  | .ldd d a i => 0#3 ++ 0x1a#6 ++ d ++ a ++ i
  | .ldo d a i => 0#3 ++ 0x1b#6 ++ d ++ a ++ i
  | .lds d a i => 0#3 ++ 0x1c#6 ++ d ++ a ++ i
  | .chk a o => 0#3 ++ 0x1d#6 ++ a ++ 0#5 ++ o
  | .stb s a i => 0#3 ++ 0x1e#6 ++ s ++ a ++ i
  | .sth s a i => 0#3 ++ 0x1f#6 ++ s ++ a ++ i
  | .stw s a i => 0#3 ++ 0x20#6 ++ s ++ a ++ i
  | .std s a i => 0#3 ++ 0x21#6 ++ s ++ a ++ i
  | .aadd d a b w => 0#3 ++ 0x22#6 ++ d ++ a ++ b ++ 0#4 ++ w ++ 0#3
  | .aswp d a b w => 0#3 ++ 0x22#6 ++ d ++ a ++ b ++ 0#4 ++ w ++ 1#3
  | .acas d a b w => 0#3 ++ 0x22#6 ++ d ++ a ++ b ++ 0#4 ++ w ++ 2#3
  | .amin d a b w => 0#3 ++ 0x22#6 ++ d ++ a ++ b ++ 0#4 ++ w ++ 3#3
  | .amax d a b w => 0#3 ++ 0x22#6 ++ d ++ a ++ b ++ 0#4 ++ w ++ 4#3
  | .aand d a b w => 0#3 ++ 0x22#6 ++ d ++ a ++ b ++ 0#4 ++ w ++ 5#3
  | .aor d a b w => 0#3 ++ 0x22#6 ++ d ++ a ++ b ++ 0#4 ++ w ++ 6#3
  | .axor d a b w => 0#3 ++ 0x22#6 ++ d ++ a ++ b ++ 0#4 ++ w ++ 7#3
  | .ldq k q a i => 0#3 ++ 0x23#6 ++ k ++ q ++ a ++ i
  | .stq k q a i => 0#3 ++ 0x24#6 ++ k ++ q ++ a ++ i
  | .csrr d c => 0#3 ++ 0x25#6 ++ d ++ 0#5 ++ c
  | .csrw a c => 0#3 ++ 0x26#6 ++ 0#5 ++ a ++ c
  | .csrs d a c => 0#3 ++ 0x27#6 ++ d ++ a ++ c
  | .csrc d a c => 0#3 ++ 0x28#6 ++ d ++ a ++ c
  | .csrWrite _ _ => 0
  | .dfmaskWrite _ => 0
  | .lateWrite _ => 0
  | .budgetWrite _ => 0
  | .twinWrite _ => 0
  | .statusWrite _ => 0
  | .rde d e => 0#3 ++ 0x29#6 ++ d ++ 0#15 ++ e
  | .fpush a => 0#3 ++ 0x2a#6 ++ 0#5 ++ a ++ 0#13
  | .hdef h c a s => 0#3 ++ 0x2b#6 ++ h ++ c ++ a ++ s ++ 0#4
  | .hadvC h w => 0#3 ++ 0x2c#6 ++ h ++ w ++ 0#13
  | .hadvP h w => 0#3 ++ 0x2c#6 ++ h ++ w ++ 0x1000#13
  | .hrd h d => 0#3 ++ 0x2d#6 ++ h ++ 0#6 ++ d ++ 0#8
  | .pacq a i => 0#3 ++ 0x2e#6 ++ 0#5 ++ a ++ i
  | .prel l => 0#3 ++ 0x2f#6 ++ 0#19 ++ l
  | .trap c => 0#3 ++ 0x30#6 ++ 0#5 ++ c
  | .wev d a i => 0#3 ++ 0x32#6 ++ d ++ a ++ i
  | .adq d a => 0#3 ++ 0x33#6 ++ d ++ a ++ 0#13
  | .brk c => 0#3 ++ 0x37#6 ++ 0#5 ++ c
  | .step r g s => 7#3 ++ 1#6 ++ 0#13 ++ r ++ g ++ s
  | .bar f i s => 7#3 ++ 2#6 ++ 0#15 ++ f ++ i ++ s
  | .fenceM m => 7#3 ++ 3#6 ++ 0#16 ++ m
  | .fpcw o i r => 7#3 ++ 5#6 ++ 0#19 ++ o ++ i ++ r
  | .latew a m => 7#3 ++ 6#6 ++ 0#5 ++ a ++ 0#6 ++ m
  | .budg a => 7#3 ++ 7#6 ++ 0#5 ++ a ++ 0#13
  | .bndset n a b c => 7#3 ++ 8#6 ++ 0#2 ++ n ++ a ++ b ++ 0#6 ++ c
  | .mark v => 7#3 ++ 9#6 ++ 0#5 ++ v
  | .mnest a b r l => 1#3 ++ 1#6 ++ 0#5 ++ a ++ b ++ 0#4 ++ r ++ l
  | .mnestc a b l => 1#3 ++ 2#6 ++ 0#5 ++ a ++ b ++ 0#5 ++ l
  | .mbase d a b => 1#3 ++ 3#6 ++ d ++ a ++ b ++ 0#8
  | .mgo h w c r => 1#3 ++ 4#6 ++ h ++ w ++ 0#11 ++ c ++ r
  | .mdrain d a c i k => 1#3 ++ 5#6 ++ d ++ a ++ 0#6 ++ c ++ i ++ k
  | .mdrainAuto a c i k => 1#3 ++ 5#6 ++ 0#5 ++ a ++ 1#6 ++ c ++ i ++ k
  | .mldt a b v m => 1#3 ++ 7#6 ++ 0#5 ++ a ++ b ++ 0#4 ++ v ++ m
  | .mstt a b v m => 1#3 ++ 8#6 ++ 0#5 ++ a ++ b ++ 0#4 ++ v ++ m
  | .mtrn d a b x c m => 1#3 ++ 9#6 ++ d ++ a ++ b ++ 0#2 ++ x ++ c ++ m
  | .mact c m => 1#3 ++ 0xa#6 ++ 0#19 ++ c ++ m
  | .mtwc a b v => 1#3 ++ 0xb#6 ++ 0#5 ++ a ++ b ++ 0#7 ++ v
  | .mbfly d s t h => 1#3 ++ 0xc#6 ++ 0#2 ++ d ++ 0#2 ++ s ++ 0#1 ++ t ++ 0#5 ++ h
  | .mdrev d s v => 1#3 ++ 0xd#6 ++ 0#2 ++ d ++ 0#2 ++ s ++ 0#12 ++ v
  | .mtexpSet a m => 1#3 ++ 0xe#6 ++ 0#5 ++ a ++ 0#10 ++ m
  | .mtexpAdd a m => 1#3 ++ 0xe#6 ++ 0#5 ++ a ++ 1#10 ++ m
  | .mtexpSt a => 1#3 ++ 0xe#6 ++ 0#5 ++ a ++ 0x10#13
  | .mgvcfg a b => 1#3 ++ 0xf#6 ++ 0#5 ++ a ++ b ++ 0#8
  | .mgvr h w a n r => 1#3 ++ 0x10#6 ++ h ++ w ++ a ++ n ++ r
  | .mchkr d c => 1#3 ++ 0x11#6 ++ d ++ 0#17 ++ c
  | .mdropkKey a b => 1#3 ++ 0x12#6 ++ 0#5 ++ a ++ b ++ 0#8
  | .mdropkCtr a b => 1#3 ++ 0x12#6 ++ 0#5 ++ a ++ b ++ 1#8
  | .mdropkThr a b => 1#3 ++ 0x12#6 ++ 0#5 ++ a ++ b ++ 2#8
  | .mres a b f => 1#3 ++ 0x13#6 ++ 0#5 ++ a ++ b ++ 0#7 ++ f
  | .vshape c r => 2#3 ++ 1#6 ++ 0#13 ++ c ++ r
  | .vldq d b q => 2#3 ++ 2#6 ++ d ++ 0#16 ++ b ++ q
  | .vstq a n e b q => 2#3 ++ 3#6 ++ 0#4 ++ a ++ 0#9 ++ n ++ e ++ b ++ q
  | .vadd d a b => 2#3 ++ 4#6 ++ d ++ a ++ b ++ 0#11
  | .vsub d a b => 2#3 ++ 4#6 ++ d ++ a ++ b ++ 1#11
  | .vmul d a b => 2#3 ++ 4#6 ++ d ++ a ++ b ++ 2#11
  | .vmin d a b => 2#3 ++ 4#6 ++ d ++ a ++ b ++ 3#11
  | .vmax d a b => 2#3 ++ 4#6 ++ d ++ a ++ b ++ 4#11
  | .viadd d a b => 2#3 ++ 5#6 ++ d ++ a ++ b ++ 0#11
  | .visub d a b => 2#3 ++ 5#6 ++ d ++ a ++ b ++ 1#11
  | .vimul d a b => 2#3 ++ 5#6 ++ d ++ a ++ b ++ 2#11
  | .vand d a b => 2#3 ++ 5#6 ++ d ++ a ++ b ++ 3#11
  | .vor d a b => 2#3 ++ 5#6 ++ d ++ a ++ b ++ 4#11
  | .vxor d a b => 2#3 ++ 5#6 ++ d ++ a ++ b ++ 5#11
  | .vshl d a b => 2#3 ++ 5#6 ++ d ++ a ++ b ++ 6#11
  | .vshr d a b => 2#3 ++ 5#6 ++ d ++ a ++ b ++ 7#11
  | .vfma d a b c => 2#3 ++ 6#6 ++ d ++ a ++ b ++ c ++ 0#7
  | .vneg d a => 2#3 ++ 7#6 ++ d ++ a ++ 0#15
  | .vabs d a => 2#3 ++ 7#6 ++ d ++ a ++ 1#15
  | .vrcp d a => 2#3 ++ 7#6 ++ d ++ a ++ 2#15
  | .vrsq d a => 2#3 ++ 7#6 ++ d ++ a ++ 3#15
  | .vsqrt d a => 2#3 ++ 7#6 ++ d ++ a ++ 4#15
  | .vexp2 d a => 2#3 ++ 7#6 ++ d ++ a ++ 5#15
  | .vlog2 d a => 2#3 ++ 7#6 ++ d ++ a ++ 6#15
  | .vsinp d a => 2#3 ++ 7#6 ++ d ++ a ++ 7#15
  | .vfloor d a => 2#3 ++ 7#6 ++ d ++ a ++ 8#15
  | .vcvt d a x o => 2#3 ++ 8#6 ++ d ++ a ++ 0#11 ++ x ++ o
  | .vqbx d a x f => 2#3 ++ 9#6 ++ d ++ a ++ 0#11 ++ x ++ f
  | .vdqbx d a f => 2#3 ++ 0xa#6 ++ d ++ a ++ 0#12 ++ f
  | .vpack d a u k => 2#3 ++ 0xb#6 ++ d ++ a ++ 0#12 ++ u ++ k
  | .vunpk d a u k => 2#3 ++ 0xc#6 ++ d ++ a ++ 0#12 ++ u ++ k
  | .vcmp d a b i c => 2#3 ++ 0xd#6 ++ d ++ a ++ b ++ 0#7 ++ i ++ c
  | .vsel d a b c i => 2#3 ++ 0xe#6 ++ d ++ a ++ b ++ c ++ 0#6 ++ i
  | .vredSumRow d a => 2#3 ++ 0xf#6 ++ d ++ a ++ 0#15
  | .vredMaxRow d a => 2#3 ++ 0xf#6 ++ d ++ a ++ 1#15
  | .vredMinRow d a => 2#3 ++ 0xf#6 ++ d ++ a ++ 2#15
  | .vredSumCol d a => 2#3 ++ 0xf#6 ++ d ++ a ++ 4#15
  | .vredMaxCol d a => 2#3 ++ 0xf#6 ++ d ++ a ++ 5#15
  | .vredMinCol d a => 2#3 ++ 0xf#6 ++ d ++ a ++ 6#15
  | .vredSumAll d a => 2#3 ++ 0xf#6 ++ d ++ a ++ 8#15
  | .vredMaxAll d a => 2#3 ++ 0xf#6 ++ d ++ a ++ 9#15
  | .vredMinAll d a => 2#3 ++ 0xf#6 ++ d ++ a ++ 0xa#15
  | .vbcast d a m => 2#3 ++ 0x10#6 ++ d ++ a ++ 0#13 ++ m
  | .vxdef x a b => 2#3 ++ 0x11#6 ++ 0#1 ++ x ++ a ++ b ++ 0#8
  | .vexpr d x => 2#3 ++ 0x12#6 ++ d ++ x ++ 0#15
  | .vdefer a b k => 2#3 ++ 0x13#6 ++ 0#4 ++ a ++ b ++ 0#9 ++ k
  | .vdrain d a k => 2#3 ++ 0x14#6 ++ d ++ a ++ 0#13 ++ k
  | .vdret d a b => 2#3 ++ 0x15#6 ++ d ++ a ++ b ++ 0#11
  | .vrng d u => 2#3 ++ 0x16#6 ++ d ++ 0#18 ++ u
  | .vrngkKey a b => 2#3 ++ 0x17#6 ++ 0#5 ++ a ++ b ++ 0#8
  | .vrngkCtr a b => 2#3 ++ 0x17#6 ++ 0#5 ++ a ++ b ++ 1#8
  | .vrngkAdd a b => 2#3 ++ 0x17#6 ++ 0#5 ++ a ++ b ++ 2#8
  | .vrngkSave d => 2#3 ++ 0x17#6 ++ 0#1 ++ d ++ 3#18
  | .vgrpc d a b c l => 2#3 ++ 0x19#6 ++ d ++ a ++ b ++ c ++ 0#3 ++ l
  | .viota d m => 2#3 ++ 0x1a#6 ++ d ++ 0#17 ++ m
  | .vperm d a b => 2#3 ++ 0x1b#6 ++ d ++ a ++ b ++ 0#11
  | .vtrn d a => 2#3 ++ 0x1c#6 ++ d ++ a ++ 0#15
  | .cgeo d a b l c => 3#3 ++ 1#6 ++ d ++ a ++ b ++ 0#2 ++ l ++ c
  | .clay a b c => 3#3 ++ 2#6 ++ 0#5 ++ a ++ b ++ 0#5 ++ c
  | .cgo d a b s g e c => 3#3 ++ 3#6 ++ d ++ a ++ b ++ s ++ g ++ e ++ c
  | .csched a b c => 3#3 ++ 4#6 ++ 0#5 ++ a ++ b ++ 0#5 ++ c
  | .cadv c n => 3#3 ++ 5#6 ++ c ++ 0#5 ++ n
  | .cpage d a b f c => 3#3 ++ 6#6 ++ d ++ a ++ b ++ 0#4 ++ f ++ c
  | .cstop m => 3#3 ++ 7#6 ++ 0#15 ++ m
  | .cfill d a b g e c => 3#3 ++ 8#6 ++ d ++ a ++ b ++ 0#1 ++ g ++ e ++ c
  | .copyElement _ => 0
  | .copyPiece _ => 0
  | .pageMove _ _ => 0
  | .lpush h w a r => 4#3 ++ 1#6 ++ h ++ w ++ a ++ r ++ 0#7
  | .lslot a => 4#3 ++ 2#6 ++ 0#5 ++ a ++ 0#13
  | .lslotRel a => 4#3 ++ 2#6 ++ 0#5 ++ a ++ 1#13
  | .lput d a b => 4#3 ++ 3#6 ++ d ++ a ++ b ++ 0#8
  | .lget d a b => 4#3 ++ 4#6 ++ d ++ a ++ b ++ 0#8
  | .lsig a b => 4#3 ++ 5#6 ++ 0#5 ++ a ++ b ++ 0#8
  | .laadd d a b w => 4#3 ++ 6#6 ++ d ++ a ++ b ++ 0#4 ++ w ++ 0#3
  | .laswp d a b w => 4#3 ++ 6#6 ++ d ++ a ++ b ++ 0#4 ++ w ++ 1#3
  | .lacas d a b w => 4#3 ++ 6#6 ++ d ++ a ++ b ++ 0#4 ++ w ++ 2#3
  | .lamin d a b w => 4#3 ++ 6#6 ++ d ++ a ++ b ++ 0#4 ++ w ++ 3#3
  | .lamax d a b w => 4#3 ++ 6#6 ++ d ++ a ++ b ++ 0#4 ++ w ++ 4#3
  | .laand d a b w => 4#3 ++ 6#6 ++ d ++ a ++ b ++ 0#4 ++ w ++ 5#3
  | .laor d a b w => 4#3 ++ 6#6 ++ d ++ a ++ b ++ 0#4 ++ w ++ 6#3
  | .laxor d a b w => 4#3 ++ 6#6 ++ d ++ a ++ b ++ 0#4 ++ w ++ 7#3
  | .lwsig d a i => 4#3 ++ 7#6 ++ d ++ a ++ i
  | .podAnswer _ _ _ => 0
  | .gtab d a b g f t => 5#3 ++ 1#6 ++ d ++ a ++ b ++ 0#2 ++ g ++ f ++ t
  | .gthr h w a => 5#3 ++ 2#6 ++ h ++ w ++ a ++ 0#8
  | .gsum h w a => 5#3 ++ 3#6 ++ h ++ w ++ a ++ 0#8
  | .cgrp a b g => 6#3 ++ 1#6 ++ 0#5 ++ a ++ b ++ 0#5 ++ g
  | .cred d a b o t g => 6#3 ++ 2#6 ++ d ++ a ++ b ++ 0#1 ++ o ++ t ++ g
  | .crsc d a b o t g => 6#3 ++ 3#6 ++ d ++ a ++ b ++ 0#1 ++ o ++ t ++ g
  | .callg d a b t g => 6#3 ++ 4#6 ++ d ++ a ++ b ++ 0#3 ++ t ++ g
  | .cbc d a b t g => 6#3 ++ 5#6 ++ d ++ a ++ b ++ 0#3 ++ t ++ g
  | .collectiveDone _ _ _ => 0
  | .planedStore _ _ _ _ => 0
  | .fecFailure _ => 0
  | .contextResume _ _ => 0
  | .uncorrectableError _ _ => 0
  | .throttleStart _ _ => 0
  | .throttleEnd _ => 0
  | .throttleEscalate _ _ => 0
  | .energyAccount _ _ => 0
  | .boot _ => 0
  | .imgput _ _ _ _ => 0
  | .launch _ _ => 0
  | .kill _ _ => 0
  | .status _ => 0
  | .memrd _ _ _ _ _ => 0
  | .memwr _ _ _ _ _ => 0
  | .notify _ _ _ _ => 0
  | .fid _ _ => 0
  | .logrd _ _ _ _ => 0
  | .quote _ _ => 0
  | .keyset _ _ _ _ => 0
  | .fwupd _ _ _ => 0
  | .clearboot _ => 0
  | .reset _ => 0
  | .ack _ _ _ => 0
  | .scrubRead _ _ => 0
  | .droopInjection _ _ => 0
  | .unassignedOpcode w => w
  | .podRequestArrival _ => 0
  | .podBarrierHold _ => 0
  | .keyRevocation _ => 0
  | .lowerDieBudgets _ => 0
  | .sret => 0#3 ++ 0x31#6 ++ 0#23
  | .exit => 7#3 ++ 4#6 ++ 0#23
  | .mgoPass => 0
  | .autoDrain => 0
  | .mclra => 1#3 ++ 6#6 ++ 0#23
  | .mgvrChunk => 0
  | .vamxr => 2#3 ++ 0x18#6 ++ 0#23
  | .vecRetire => 0
  | .copyStatusWrite => 0
  | .copyStopComplete => 0
  | .scheduleEntryStart => 0
  | .pushBeatDepart => 0
  | .pushLanding => 0
  | .lquiet => 4#3 ++ 8#6 ++ 0#23
  | .waitWordRead => 0
  | .signalNotify => 0
  | .waitPeriodicRead => 0
  | .gatherRowArrive => 0
  | .ctlRetire => 0
  | .stageAccessPerform => 0
  | .stageReply => 0
  | .claimArrival => 0
  | .claimAnswer => 0
  | .residueBeat => 0
  | .deviationTrap => 0
  | .deadlineFault => 0
  | .cleatRelease => 0
  | .podBarrierExchange => 0
  | .stepContinue => 0
  | .planeSwap => 0
  | .coreExitRetire => 0
  | .trapEntry => 0
  | .contextStart => 0
  | .launchPlace => 0
  | .graphNodeReady => 0
  | .graphWaitPoll => 0
  | .preemptFreeze => 0
  | .pmaskTimeout => 0
  | .killComplete => 0
  | .stepCancel => 0
  | .powerGrant => 0
  | .scrubWriteback => 0
  | .thermalTrip => 0

/-- The steps that have an encoding. -/
def Instr.isWord : Instr → Bool
  | .ill _ => true
  | .add _ _ _ => true
  | .sub _ _ _ => true
  | .and _ _ _ => true
  | .or _ _ _ => true
  | .xor _ _ _ => true
  | .sll _ _ _ => true
  | .srl _ _ _ => true
  | .sra _ _ _ => true
  | .slt _ _ _ => true
  | .sltn _ _ _ => true
  | .min _ _ _ => true
  | .max _ _ _ => true
  | .minn _ _ _ => true
  | .maxn _ _ _ => true
  | .mul _ _ _ => true
  | .mulh _ _ _ => true
  | .mulhn _ _ _ => true
  | .div _ _ _ => true
  | .divn _ _ _ => true
  | .rem _ _ _ => true
  | .remn _ _ _ => true
  | .clz _ _ => true
  | .ctz _ _ => true
  | .popc _ _ => true
  | .addi _ _ _ => true
  | .andi _ _ _ => true
  | .ori _ _ _ => true
  | .xori _ _ _ => true
  | .slli _ _ _ => true
  | .srli _ _ _ => true
  | .srai _ _ _ => true
  | .slti _ _ _ => true
  | .lui _ _ => true
  | .sloi _ _ _ => true
  | .beq _ _ _ => true
  | .bne _ _ _ => true
  | .blt _ _ _ => true
  | .bge _ _ _ => true
  | .bltn _ _ _ => true
  | .bgen _ _ _ => true
  | .jal _ _ => true
  | .jalr _ _ _ => true
  | .ldb _ _ _ => true
  | .ldbn _ _ _ => true
  | .ldh _ _ _ => true
  | .ldhn _ _ _ => true
  | .ldw _ _ _ => true
  | .ldwn _ _ _ => true
  | .ldd _ _ _ => true
  | .ldo _ _ _ => true
  | .lds _ _ _ => true
  | .chk _ _ => true
  | .stb _ _ _ => true
  | .sth _ _ _ => true
  | .stw _ _ _ => true
  | .std _ _ _ => true
  | .aadd _ _ _ _ => true
  | .aswp _ _ _ _ => true
  | .acas _ _ _ _ => true
  | .amin _ _ _ _ => true
  | .amax _ _ _ _ => true
  | .aand _ _ _ _ => true
  | .aor _ _ _ _ => true
  | .axor _ _ _ _ => true
  | .ldq _ _ _ _ => true
  | .stq _ _ _ _ => true
  | .csrr _ _ => true
  | .csrw _ _ => true
  | .csrs _ _ _ => true
  | .csrc _ _ _ => true
  | .csrWrite _ _ => false
  | .dfmaskWrite _ => false
  | .lateWrite _ => false
  | .budgetWrite _ => false
  | .twinWrite _ => false
  | .statusWrite _ => false
  | .rde _ _ => true
  | .fpush _ => true
  | .hdef _ _ _ _ => true
  | .hadvC _ _ => true
  | .hadvP _ _ => true
  | .hrd _ _ => true
  | .pacq _ _ => true
  | .prel _ => true
  | .trap _ => true
  | .wev _ _ _ => true
  | .adq _ _ => true
  | .brk _ => true
  | .step _ _ _ => true
  | .bar _ _ _ => true
  | .fenceM _ => true
  | .fpcw _ _ _ => true
  | .latew _ _ => true
  | .budg _ => true
  | .bndset _ _ _ _ => true
  | .mark _ => true
  | .mnest _ _ _ _ => true
  | .mnestc _ _ _ => true
  | .mbase _ _ _ => true
  | .mgo _ _ _ _ => true
  | .mdrain _ _ _ _ _ => true
  | .mdrainAuto _ _ _ _ => true
  | .mldt _ _ _ _ => true
  | .mstt _ _ _ _ => true
  | .mtrn _ _ _ _ _ _ => true
  | .mact _ _ => true
  | .mtwc _ _ _ => true
  | .mbfly _ _ _ _ => true
  | .mdrev _ _ _ => true
  | .mtexpSet _ _ => true
  | .mtexpAdd _ _ => true
  | .mtexpSt _ => true
  | .mgvcfg _ _ => true
  | .mgvr _ _ _ _ _ => true
  | .mchkr _ _ => true
  | .mdropkKey _ _ => true
  | .mdropkCtr _ _ => true
  | .mdropkThr _ _ => true
  | .mres _ _ _ => true
  | .vshape _ _ => true
  | .vldq _ _ _ => true
  | .vstq _ _ _ _ _ => true
  | .vadd _ _ _ => true
  | .vsub _ _ _ => true
  | .vmul _ _ _ => true
  | .vmin _ _ _ => true
  | .vmax _ _ _ => true
  | .viadd _ _ _ => true
  | .visub _ _ _ => true
  | .vimul _ _ _ => true
  | .vand _ _ _ => true
  | .vor _ _ _ => true
  | .vxor _ _ _ => true
  | .vshl _ _ _ => true
  | .vshr _ _ _ => true
  | .vfma _ _ _ _ => true
  | .vneg _ _ => true
  | .vabs _ _ => true
  | .vrcp _ _ => true
  | .vrsq _ _ => true
  | .vsqrt _ _ => true
  | .vexp2 _ _ => true
  | .vlog2 _ _ => true
  | .vsinp _ _ => true
  | .vfloor _ _ => true
  | .vcvt _ _ _ _ => true
  | .vqbx _ _ _ _ => true
  | .vdqbx _ _ _ => true
  | .vpack _ _ _ _ => true
  | .vunpk _ _ _ _ => true
  | .vcmp _ _ _ _ _ => true
  | .vsel _ _ _ _ _ => true
  | .vredSumRow _ _ => true
  | .vredMaxRow _ _ => true
  | .vredMinRow _ _ => true
  | .vredSumCol _ _ => true
  | .vredMaxCol _ _ => true
  | .vredMinCol _ _ => true
  | .vredSumAll _ _ => true
  | .vredMaxAll _ _ => true
  | .vredMinAll _ _ => true
  | .vbcast _ _ _ => true
  | .vxdef _ _ _ => true
  | .vexpr _ _ => true
  | .vdefer _ _ _ => true
  | .vdrain _ _ _ => true
  | .vdret _ _ _ => true
  | .vrng _ _ => true
  | .vrngkKey _ _ => true
  | .vrngkCtr _ _ => true
  | .vrngkAdd _ _ => true
  | .vrngkSave _ => true
  | .vgrpc _ _ _ _ _ => true
  | .viota _ _ => true
  | .vperm _ _ _ => true
  | .vtrn _ _ => true
  | .cgeo _ _ _ _ _ => true
  | .clay _ _ _ => true
  | .cgo _ _ _ _ _ _ _ => true
  | .csched _ _ _ => true
  | .cadv _ _ => true
  | .cpage _ _ _ _ _ => true
  | .cstop _ => true
  | .cfill _ _ _ _ _ _ => true
  | .copyElement _ => false
  | .copyPiece _ => false
  | .pageMove _ _ => false
  | .lpush _ _ _ _ => true
  | .lslot _ => true
  | .lslotRel _ => true
  | .lput _ _ _ => true
  | .lget _ _ _ => true
  | .lsig _ _ => true
  | .laadd _ _ _ _ => true
  | .laswp _ _ _ _ => true
  | .lacas _ _ _ _ => true
  | .lamin _ _ _ _ => true
  | .lamax _ _ _ _ => true
  | .laand _ _ _ _ => true
  | .laor _ _ _ _ => true
  | .laxor _ _ _ _ => true
  | .lwsig _ _ _ => true
  | .podAnswer _ _ _ => false
  | .gtab _ _ _ _ _ _ => true
  | .gthr _ _ _ => true
  | .gsum _ _ _ => true
  | .cgrp _ _ _ => true
  | .cred _ _ _ _ _ _ => true
  | .crsc _ _ _ _ _ _ => true
  | .callg _ _ _ _ _ => true
  | .cbc _ _ _ _ _ => true
  | .collectiveDone _ _ _ => false
  | .planedStore _ _ _ _ => false
  | .fecFailure _ => false
  | .contextResume _ _ => false
  | .uncorrectableError _ _ => false
  | .throttleStart _ _ => false
  | .throttleEnd _ => false
  | .throttleEscalate _ _ => false
  | .energyAccount _ _ => false
  | .boot _ => false
  | .imgput _ _ _ _ => false
  | .launch _ _ => false
  | .kill _ _ => false
  | .status _ => false
  | .memrd _ _ _ _ _ => false
  | .memwr _ _ _ _ _ => false
  | .notify _ _ _ _ => false
  | .fid _ _ => false
  | .logrd _ _ _ _ => false
  | .quote _ _ => false
  | .keyset _ _ _ _ => false
  | .fwupd _ _ _ => false
  | .clearboot _ => false
  | .reset _ => false
  | .ack _ _ _ => false
  | .scrubRead _ _ => false
  | .droopInjection _ _ => false
  | .unassignedOpcode _ => false
  | .podRequestArrival _ => false
  | .podBarrierHold _ => false
  | .keyRevocation _ => false
  | .lowerDieBudgets _ => false
  | .sret => true
  | .exit => true
  | .mgoPass => false
  | .autoDrain => false
  | .mclra => true
  | .mgvrChunk => false
  | .vamxr => true
  | .vecRetire => false
  | .copyStatusWrite => false
  | .copyStopComplete => false
  | .scheduleEntryStart => false
  | .pushBeatDepart => false
  | .pushLanding => false
  | .lquiet => true
  | .waitWordRead => false
  | .signalNotify => false
  | .waitPeriodicRead => false
  | .gatherRowArrive => false
  | .ctlRetire => false
  | .stageAccessPerform => false
  | .stageReply => false
  | .claimArrival => false
  | .claimAnswer => false
  | .residueBeat => false
  | .deviationTrap => false
  | .deadlineFault => false
  | .cleatRelease => false
  | .podBarrierExchange => false
  | .stepContinue => false
  | .planeSwap => false
  | .coreExitRetire => false
  | .trapEntry => false
  | .contextStart => false
  | .launchPlace => false
  | .graphNodeReady => false
  | .graphWaitPoll => false
  | .preemptFreeze => false
  | .pmaskTimeout => false
  | .killComplete => false
  | .stepCancel => false
  | .powerGrant => false
  | .scrubWriteback => false
  | .thermalTrip => false

/-- The opcodes of CTL (Table 2-8). The outer none: OP is unassigned. The inner none: fn is unassigned. -/
def candidateCtl (w : Word) : Option (Option Instr) :=
  match (w.extractLsb' 23 6).toNat with
  | 0 => some (some (.ill (w.extractLsb' 0 23)))
  | 1 => some (match (w.extractLsb' 0 8).toNat with
    | 0 => some (.add (w.extractLsb' 18 5) (w.extractLsb' 13 5) (w.extractLsb' 8 5))
    | 1 => some (.sub (w.extractLsb' 18 5) (w.extractLsb' 13 5) (w.extractLsb' 8 5))
    | 2 => some (.and (w.extractLsb' 18 5) (w.extractLsb' 13 5) (w.extractLsb' 8 5))
    | 3 => some (.or (w.extractLsb' 18 5) (w.extractLsb' 13 5) (w.extractLsb' 8 5))
    | 4 => some (.xor (w.extractLsb' 18 5) (w.extractLsb' 13 5) (w.extractLsb' 8 5))
    | 5 => some (.sll (w.extractLsb' 18 5) (w.extractLsb' 13 5) (w.extractLsb' 8 5))
    | 6 => some (.srl (w.extractLsb' 18 5) (w.extractLsb' 13 5) (w.extractLsb' 8 5))
    | 7 => some (.sra (w.extractLsb' 18 5) (w.extractLsb' 13 5) (w.extractLsb' 8 5))
    | 8 => some (.slt (w.extractLsb' 18 5) (w.extractLsb' 13 5) (w.extractLsb' 8 5))
    | 9 => some (.sltn (w.extractLsb' 18 5) (w.extractLsb' 13 5) (w.extractLsb' 8 5))
    | 10 => some (.min (w.extractLsb' 18 5) (w.extractLsb' 13 5) (w.extractLsb' 8 5))
    | 11 => some (.max (w.extractLsb' 18 5) (w.extractLsb' 13 5) (w.extractLsb' 8 5))
    | 12 => some (.minn (w.extractLsb' 18 5) (w.extractLsb' 13 5) (w.extractLsb' 8 5))
    | 13 => some (.maxn (w.extractLsb' 18 5) (w.extractLsb' 13 5) (w.extractLsb' 8 5))
    | 16 => some (.mul (w.extractLsb' 18 5) (w.extractLsb' 13 5) (w.extractLsb' 8 5))
    | 17 => some (.mulh (w.extractLsb' 18 5) (w.extractLsb' 13 5) (w.extractLsb' 8 5))
    | 18 => some (.mulhn (w.extractLsb' 18 5) (w.extractLsb' 13 5) (w.extractLsb' 8 5))
    | 20 => some (.div (w.extractLsb' 18 5) (w.extractLsb' 13 5) (w.extractLsb' 8 5))
    | 21 => some (.divn (w.extractLsb' 18 5) (w.extractLsb' 13 5) (w.extractLsb' 8 5))
    | 22 => some (.rem (w.extractLsb' 18 5) (w.extractLsb' 13 5) (w.extractLsb' 8 5))
    | 23 => some (.remn (w.extractLsb' 18 5) (w.extractLsb' 13 5) (w.extractLsb' 8 5))
    | 24 => some (.clz (w.extractLsb' 18 5) (w.extractLsb' 13 5))
    | 25 => some (.ctz (w.extractLsb' 18 5) (w.extractLsb' 13 5))
    | 26 => some (.popc (w.extractLsb' 18 5) (w.extractLsb' 13 5))
    | _ => none)
  | 2 => some (some (.addi (w.extractLsb' 18 5) (w.extractLsb' 13 5) (w.extractLsb' 0 13)))
  | 3 => some (some (.andi (w.extractLsb' 18 5) (w.extractLsb' 13 5) (w.extractLsb' 0 13)))
  | 4 => some (some (.ori (w.extractLsb' 18 5) (w.extractLsb' 13 5) (w.extractLsb' 0 13)))
  | 5 => some (some (.xori (w.extractLsb' 18 5) (w.extractLsb' 13 5) (w.extractLsb' 0 13)))
  | 6 => some (some (.slli (w.extractLsb' 18 5) (w.extractLsb' 13 5) (w.extractLsb' 0 6)))
  | 7 => some (some (.srli (w.extractLsb' 18 5) (w.extractLsb' 13 5) (w.extractLsb' 0 6)))
  | 8 => some (some (.srai (w.extractLsb' 18 5) (w.extractLsb' 13 5) (w.extractLsb' 0 6)))
  | 9 => some (some (.slti (w.extractLsb' 18 5) (w.extractLsb' 13 5) (w.extractLsb' 0 13)))
  | 10 => some (some (.lui (w.extractLsb' 18 5) (w.extractLsb' 0 18)))
  | 11 => some (some (.sloi (w.extractLsb' 18 5) (w.extractLsb' 13 5) (w.extractLsb' 0 13)))
  | 12 => some (some (.beq (w.extractLsb' 18 5) (w.extractLsb' 13 5) (w.extractLsb' 0 13)))
  | 13 => some (some (.bne (w.extractLsb' 18 5) (w.extractLsb' 13 5) (w.extractLsb' 0 13)))
  | 14 => some (some (.blt (w.extractLsb' 18 5) (w.extractLsb' 13 5) (w.extractLsb' 0 13)))
  | 15 => some (some (.bge (w.extractLsb' 18 5) (w.extractLsb' 13 5) (w.extractLsb' 0 13)))
  | 16 => some (some (.bltn (w.extractLsb' 18 5) (w.extractLsb' 13 5) (w.extractLsb' 0 13)))
  | 17 => some (some (.bgen (w.extractLsb' 18 5) (w.extractLsb' 13 5) (w.extractLsb' 0 13)))
  | 18 => some (some (.jal (w.extractLsb' 18 5) (w.extractLsb' 0 18)))
  | 19 => some (some (.jalr (w.extractLsb' 18 5) (w.extractLsb' 13 5) (w.extractLsb' 0 13)))
  | 20 => some (some (.ldb (w.extractLsb' 18 5) (w.extractLsb' 13 5) (w.extractLsb' 0 13)))
  | 21 => some (some (.ldbn (w.extractLsb' 18 5) (w.extractLsb' 13 5) (w.extractLsb' 0 13)))
  | 22 => some (some (.ldh (w.extractLsb' 18 5) (w.extractLsb' 13 5) (w.extractLsb' 0 13)))
  | 23 => some (some (.ldhn (w.extractLsb' 18 5) (w.extractLsb' 13 5) (w.extractLsb' 0 13)))
  | 24 => some (some (.ldw (w.extractLsb' 18 5) (w.extractLsb' 13 5) (w.extractLsb' 0 13)))
  | 25 => some (some (.ldwn (w.extractLsb' 18 5) (w.extractLsb' 13 5) (w.extractLsb' 0 13)))
  | 26 => some (some (.ldd (w.extractLsb' 18 5) (w.extractLsb' 13 5) (w.extractLsb' 0 13)))
  | 27 => some (some (.ldo (w.extractLsb' 18 5) (w.extractLsb' 13 5) (w.extractLsb' 0 13)))
  | 28 => some (some (.lds (w.extractLsb' 18 5) (w.extractLsb' 13 5) (w.extractLsb' 0 13)))
  | 29 => some (some (.chk (w.extractLsb' 18 5) (w.extractLsb' 0 13)))
  | 30 => some (some (.stb (w.extractLsb' 18 5) (w.extractLsb' 13 5) (w.extractLsb' 0 13)))
  | 31 => some (some (.sth (w.extractLsb' 18 5) (w.extractLsb' 13 5) (w.extractLsb' 0 13)))
  | 32 => some (some (.stw (w.extractLsb' 18 5) (w.extractLsb' 13 5) (w.extractLsb' 0 13)))
  | 33 => some (some (.std (w.extractLsb' 18 5) (w.extractLsb' 13 5) (w.extractLsb' 0 13)))
  | 34 => some (match (w.extractLsb' 0 3).toNat with
    | 0 => some (.aadd (w.extractLsb' 18 5) (w.extractLsb' 13 5) (w.extractLsb' 8 5) (w.extractLsb' 3 1))
    | 1 => some (.aswp (w.extractLsb' 18 5) (w.extractLsb' 13 5) (w.extractLsb' 8 5) (w.extractLsb' 3 1))
    | 2 => some (.acas (w.extractLsb' 18 5) (w.extractLsb' 13 5) (w.extractLsb' 8 5) (w.extractLsb' 3 1))
    | 3 => some (.amin (w.extractLsb' 18 5) (w.extractLsb' 13 5) (w.extractLsb' 8 5) (w.extractLsb' 3 1))
    | 4 => some (.amax (w.extractLsb' 18 5) (w.extractLsb' 13 5) (w.extractLsb' 8 5) (w.extractLsb' 3 1))
    | 5 => some (.aand (w.extractLsb' 18 5) (w.extractLsb' 13 5) (w.extractLsb' 8 5) (w.extractLsb' 3 1))
    | 6 => some (.aor (w.extractLsb' 18 5) (w.extractLsb' 13 5) (w.extractLsb' 8 5) (w.extractLsb' 3 1))
    | _ => some (.axor (w.extractLsb' 18 5) (w.extractLsb' 13 5) (w.extractLsb' 8 5) (w.extractLsb' 3 1)))
  | 35 => some (some (.ldq (w.extractLsb' 20 3) (w.extractLsb' 18 2) (w.extractLsb' 13 5) (w.extractLsb' 0 13)))
  | 36 => some (some (.stq (w.extractLsb' 20 3) (w.extractLsb' 18 2) (w.extractLsb' 13 5) (w.extractLsb' 0 13)))
  | 37 => some (some (.csrr (w.extractLsb' 18 5) (w.extractLsb' 0 13)))
  | 38 => some (some (.csrw (w.extractLsb' 13 5) (w.extractLsb' 0 13)))
  | 39 => some (some (.csrs (w.extractLsb' 18 5) (w.extractLsb' 13 5) (w.extractLsb' 0 13)))
  | 40 => some (some (.csrc (w.extractLsb' 18 5) (w.extractLsb' 13 5) (w.extractLsb' 0 13)))
  | 41 => some (some (.rde (w.extractLsb' 18 5) (w.extractLsb' 0 3)))
  | 42 => some (some (.fpush (w.extractLsb' 13 5)))
  | 43 => some (some (.hdef (w.extractLsb' 19 4) (w.extractLsb' 13 6) (w.extractLsb' 8 5) (w.extractLsb' 4 4)))
  | 44 => some (match (w.extractLsb' 12 1).toNat with
    | 0 => some (.hadvC (w.extractLsb' 19 4) (w.extractLsb' 13 6))
    | _ => some (.hadvP (w.extractLsb' 19 4) (w.extractLsb' 13 6)))
  | 45 => some (some (.hrd (w.extractLsb' 19 4) (w.extractLsb' 8 5)))
  | 46 => some (some (.pacq (w.extractLsb' 13 5) (w.extractLsb' 0 13)))
  | 47 => some (some (.prel (w.extractLsb' 0 4)))
  | 48 => some (some (.trap (w.extractLsb' 0 18)))
  | 49 => some (some (.sret))
  | 50 => some (some (.wev (w.extractLsb' 18 5) (w.extractLsb' 13 5) (w.extractLsb' 0 13)))
  | 51 => some (some (.adq (w.extractLsb' 18 5) (w.extractLsb' 13 5)))
  | 55 => some (some (.brk (w.extractLsb' 0 18)))
  | _ => none

/-- The opcodes of MTX (Table 2-10). The outer none: OP is unassigned. The inner none: fn is unassigned. -/
def candidateMtx (w : Word) : Option (Option Instr) :=
  match (w.extractLsb' 23 6).toNat with
  | 1 => some (some (.mnest (w.extractLsb' 13 5) (w.extractLsb' 8 5) (w.extractLsb' 3 1) (w.extractLsb' 0 3)))
  | 2 => some (some (.mnestc (w.extractLsb' 13 5) (w.extractLsb' 8 5) (w.extractLsb' 0 3)))
  | 3 => some (some (.mbase (w.extractLsb' 18 5) (w.extractLsb' 13 5) (w.extractLsb' 8 5)))
  | 4 => some (some (.mgo (w.extractLsb' 19 4) (w.extractLsb' 13 6) (w.extractLsb' 1 1) (w.extractLsb' 0 1)))
  | 5 => some (match (w.extractLsb' 7 1).toNat with
    | 0 => some (.mdrain (w.extractLsb' 18 5) (w.extractLsb' 13 5) (w.extractLsb' 6 1) (w.extractLsb' 2 4) (w.extractLsb' 0 2))
    | _ => some (.mdrainAuto (w.extractLsb' 13 5) (w.extractLsb' 6 1) (w.extractLsb' 2 4) (w.extractLsb' 0 2)))
  | 6 => some (some (.mclra))
  | 7 => some (some (.mldt (w.extractLsb' 13 5) (w.extractLsb' 8 5) (w.extractLsb' 3 1) (w.extractLsb' 0 3)))
  | 8 => some (some (.mstt (w.extractLsb' 13 5) (w.extractLsb' 8 5) (w.extractLsb' 3 1) (w.extractLsb' 0 3)))
  | 9 => some (some (.mtrn (w.extractLsb' 18 5) (w.extractLsb' 13 5) (w.extractLsb' 8 5) (w.extractLsb' 5 1) (w.extractLsb' 3 2) (w.extractLsb' 0 3)))
  | 10 => some (some (.mact (w.extractLsb' 3 1) (w.extractLsb' 0 3)))
  | 11 => some (some (.mtwc (w.extractLsb' 13 5) (w.extractLsb' 8 5) (w.extractLsb' 0 1)))
  | 12 => some (some (.mbfly (w.extractLsb' 18 3) (w.extractLsb' 13 3) (w.extractLsb' 8 4) (w.extractLsb' 0 3)))
  | 13 => some (some (.mdrev (w.extractLsb' 18 3) (w.extractLsb' 13 3) (w.extractLsb' 0 1)))
  | 14 => some (match (w.extractLsb' 3 2).toNat with
    | 0 => some (.mtexpSet (w.extractLsb' 13 5) (w.extractLsb' 0 3))
    | 1 => some (.mtexpAdd (w.extractLsb' 13 5) (w.extractLsb' 0 3))
    | 2 => some (.mtexpSt (w.extractLsb' 13 5))
    | _ => none)
  | 15 => some (some (.mgvcfg (w.extractLsb' 13 5) (w.extractLsb' 8 5)))
  | 16 => some (some (.mgvr (w.extractLsb' 19 4) (w.extractLsb' 13 6) (w.extractLsb' 8 5) (w.extractLsb' 1 7) (w.extractLsb' 0 1)))
  | 17 => some (some (.mchkr (w.extractLsb' 18 5) (w.extractLsb' 0 1)))
  | 18 => some (match (w.extractLsb' 0 2).toNat with
    | 0 => some (.mdropkKey (w.extractLsb' 13 5) (w.extractLsb' 8 5))
    | 1 => some (.mdropkCtr (w.extractLsb' 13 5) (w.extractLsb' 8 5))
    | 2 => some (.mdropkThr (w.extractLsb' 13 5) (w.extractLsb' 8 5))
    | _ => none)
  | 19 => some (some (.mres (w.extractLsb' 13 5) (w.extractLsb' 8 5) (w.extractLsb' 0 1)))
  | _ => none

/-- The opcodes of VEC (Table 2-11). The outer none: OP is unassigned. The inner none: fn is unassigned. -/
def candidateVec (w : Word) : Option (Option Instr) :=
  match (w.extractLsb' 23 6).toNat with
  | 1 => some (some (.vshape (w.extractLsb' 5 5) (w.extractLsb' 0 5)))
  | 2 => some (some (.vldq (w.extractLsb' 19 4) (w.extractLsb' 2 1) (w.extractLsb' 0 2)))
  | 3 => some (some (.vstq (w.extractLsb' 15 4) (w.extractLsb' 3 3) (w.extractLsb' 2 1) (w.extractLsb' 1 1) (w.extractLsb' 0 1)))
  | 4 => some (match (w.extractLsb' 0 3).toNat with
    | 0 => some (.vadd (w.extractLsb' 19 4) (w.extractLsb' 15 4) (w.extractLsb' 11 4))
    | 1 => some (.vsub (w.extractLsb' 19 4) (w.extractLsb' 15 4) (w.extractLsb' 11 4))
    | 2 => some (.vmul (w.extractLsb' 19 4) (w.extractLsb' 15 4) (w.extractLsb' 11 4))
    | 3 => some (.vmin (w.extractLsb' 19 4) (w.extractLsb' 15 4) (w.extractLsb' 11 4))
    | 4 => some (.vmax (w.extractLsb' 19 4) (w.extractLsb' 15 4) (w.extractLsb' 11 4))
    | _ => none)
  | 5 => some (match (w.extractLsb' 0 3).toNat with
    | 0 => some (.viadd (w.extractLsb' 19 4) (w.extractLsb' 15 4) (w.extractLsb' 11 4))
    | 1 => some (.visub (w.extractLsb' 19 4) (w.extractLsb' 15 4) (w.extractLsb' 11 4))
    | 2 => some (.vimul (w.extractLsb' 19 4) (w.extractLsb' 15 4) (w.extractLsb' 11 4))
    | 3 => some (.vand (w.extractLsb' 19 4) (w.extractLsb' 15 4) (w.extractLsb' 11 4))
    | 4 => some (.vor (w.extractLsb' 19 4) (w.extractLsb' 15 4) (w.extractLsb' 11 4))
    | 5 => some (.vxor (w.extractLsb' 19 4) (w.extractLsb' 15 4) (w.extractLsb' 11 4))
    | 6 => some (.vshl (w.extractLsb' 19 4) (w.extractLsb' 15 4) (w.extractLsb' 11 4))
    | _ => some (.vshr (w.extractLsb' 19 4) (w.extractLsb' 15 4) (w.extractLsb' 11 4)))
  | 6 => some (some (.vfma (w.extractLsb' 19 4) (w.extractLsb' 15 4) (w.extractLsb' 11 4) (w.extractLsb' 7 4)))
  | 7 => some (match (w.extractLsb' 0 4).toNat with
    | 0 => some (.vneg (w.extractLsb' 19 4) (w.extractLsb' 15 4))
    | 1 => some (.vabs (w.extractLsb' 19 4) (w.extractLsb' 15 4))
    | 2 => some (.vrcp (w.extractLsb' 19 4) (w.extractLsb' 15 4))
    | 3 => some (.vrsq (w.extractLsb' 19 4) (w.extractLsb' 15 4))
    | 4 => some (.vsqrt (w.extractLsb' 19 4) (w.extractLsb' 15 4))
    | 5 => some (.vexp2 (w.extractLsb' 19 4) (w.extractLsb' 15 4))
    | 6 => some (.vlog2 (w.extractLsb' 19 4) (w.extractLsb' 15 4))
    | 7 => some (.vsinp (w.extractLsb' 19 4) (w.extractLsb' 15 4))
    | 8 => some (.vfloor (w.extractLsb' 19 4) (w.extractLsb' 15 4))
    | _ => none)
  | 8 => some (some (.vcvt (w.extractLsb' 19 4) (w.extractLsb' 15 4) (w.extractLsb' 3 1) (w.extractLsb' 0 3)))
  | 9 => some (some (.vqbx (w.extractLsb' 19 4) (w.extractLsb' 15 4) (w.extractLsb' 3 1) (w.extractLsb' 0 3)))
  | 10 => some (some (.vdqbx (w.extractLsb' 19 4) (w.extractLsb' 15 4) (w.extractLsb' 0 3)))
  | 11 => some (some (.vpack (w.extractLsb' 19 4) (w.extractLsb' 15 4) (w.extractLsb' 2 1) (w.extractLsb' 0 2)))
  | 12 => some (some (.vunpk (w.extractLsb' 19 4) (w.extractLsb' 15 4) (w.extractLsb' 2 1) (w.extractLsb' 0 2)))
  | 13 => some (some (.vcmp (w.extractLsb' 19 4) (w.extractLsb' 15 4) (w.extractLsb' 11 4) (w.extractLsb' 3 1) (w.extractLsb' 0 3)))
  | 14 => some (some (.vsel (w.extractLsb' 19 4) (w.extractLsb' 15 4) (w.extractLsb' 11 4) (w.extractLsb' 7 4) (w.extractLsb' 0 1)))
  | 15 => some (match (w.extractLsb' 0 4).toNat with
    | 0 => some (.vredSumRow (w.extractLsb' 19 4) (w.extractLsb' 15 4))
    | 1 => some (.vredMaxRow (w.extractLsb' 19 4) (w.extractLsb' 15 4))
    | 2 => some (.vredMinRow (w.extractLsb' 19 4) (w.extractLsb' 15 4))
    | 4 => some (.vredSumCol (w.extractLsb' 19 4) (w.extractLsb' 15 4))
    | 5 => some (.vredMaxCol (w.extractLsb' 19 4) (w.extractLsb' 15 4))
    | 6 => some (.vredMinCol (w.extractLsb' 19 4) (w.extractLsb' 15 4))
    | 8 => some (.vredSumAll (w.extractLsb' 19 4) (w.extractLsb' 15 4))
    | 9 => some (.vredMaxAll (w.extractLsb' 19 4) (w.extractLsb' 15 4))
    | 10 => some (.vredMinAll (w.extractLsb' 19 4) (w.extractLsb' 15 4))
    | _ => none)
  | 16 => some (some (.vbcast (w.extractLsb' 19 4) (w.extractLsb' 15 4) (w.extractLsb' 0 2)))
  | 17 => some (some (.vxdef (w.extractLsb' 18 4) (w.extractLsb' 13 5) (w.extractLsb' 8 5)))
  | 18 => some (some (.vexpr (w.extractLsb' 19 4) (w.extractLsb' 15 4)))
  | 19 => some (some (.vdefer (w.extractLsb' 15 4) (w.extractLsb' 11 4) (w.extractLsb' 0 2)))
  | 20 => some (some (.vdrain (w.extractLsb' 19 4) (w.extractLsb' 15 4) (w.extractLsb' 0 2)))
  | 21 => some (some (.vdret (w.extractLsb' 19 4) (w.extractLsb' 15 4) (w.extractLsb' 11 4)))
  | 22 => some (some (.vrng (w.extractLsb' 19 4) (w.extractLsb' 0 1)))
  | 23 => some (match (w.extractLsb' 0 2).toNat with
    | 0 => some (.vrngkKey (w.extractLsb' 13 5) (w.extractLsb' 8 5))
    | 1 => some (.vrngkCtr (w.extractLsb' 13 5) (w.extractLsb' 8 5))
    | 2 => some (.vrngkAdd (w.extractLsb' 13 5) (w.extractLsb' 8 5))
    | _ => some (.vrngkSave (w.extractLsb' 18 4)))
  | 24 => some (some (.vamxr))
  | 25 => some (some (.vgrpc (w.extractLsb' 19 4) (w.extractLsb' 15 4) (w.extractLsb' 11 4) (w.extractLsb' 7 4) (w.extractLsb' 0 4)))
  | 26 => some (some (.viota (w.extractLsb' 19 4) (w.extractLsb' 0 2)))
  | 27 => some (some (.vperm (w.extractLsb' 19 4) (w.extractLsb' 15 4) (w.extractLsb' 11 4)))
  | 28 => some (some (.vtrn (w.extractLsb' 19 4) (w.extractLsb' 15 4)))
  | _ => none

/-- The opcodes of CPY (Table 2-12). The outer none: OP is unassigned. The inner none: fn is unassigned. -/
def candidateCpy (w : Word) : Option (Option Instr) :=
  match (w.extractLsb' 23 6).toNat with
  | 1 => some (some (.cgeo (w.extractLsb' 18 5) (w.extractLsb' 13 5) (w.extractLsb' 8 5) (w.extractLsb' 3 3) (w.extractLsb' 0 3)))
  | 2 => some (some (.clay (w.extractLsb' 13 5) (w.extractLsb' 8 5) (w.extractLsb' 0 3)))
  | 3 => some (some (.cgo (w.extractLsb' 18 5) (w.extractLsb' 13 5) (w.extractLsb' 8 5) (w.extractLsb' 7 1) (w.extractLsb' 6 1) (w.extractLsb' 3 3) (w.extractLsb' 0 3)))
  | 4 => some (some (.csched (w.extractLsb' 13 5) (w.extractLsb' 8 5) (w.extractLsb' 0 3)))
  | 5 => some (some (.cadv (w.extractLsb' 18 5) (w.extractLsb' 0 13)))
  | 6 => some (some (.cpage (w.extractLsb' 18 5) (w.extractLsb' 13 5) (w.extractLsb' 8 5) (w.extractLsb' 3 1) (w.extractLsb' 0 3)))
  | 7 => some (some (.cstop (w.extractLsb' 0 8)))
  | 8 => some (some (.cfill (w.extractLsb' 18 5) (w.extractLsb' 13 5) (w.extractLsb' 8 5) (w.extractLsb' 6 1) (w.extractLsb' 3 3) (w.extractLsb' 0 3)))
  | _ => none

/-- The opcodes of LNK (Table 2-13). The outer none: OP is unassigned. The inner none: fn is unassigned. -/
def candidateLnk (w : Word) : Option (Option Instr) :=
  match (w.extractLsb' 23 6).toNat with
  | 1 => some (some (.lpush (w.extractLsb' 19 4) (w.extractLsb' 13 6) (w.extractLsb' 8 5) (w.extractLsb' 7 1)))
  | 2 => some (match (w.extractLsb' 0 8).toNat with
    | 0 => some (.lslot (w.extractLsb' 13 5))
    | 1 => some (.lslotRel (w.extractLsb' 13 5))
    | _ => none)
  | 3 => some (some (.lput (w.extractLsb' 18 5) (w.extractLsb' 13 5) (w.extractLsb' 8 5)))
  | 4 => some (some (.lget (w.extractLsb' 18 5) (w.extractLsb' 13 5) (w.extractLsb' 8 5)))
  | 5 => some (some (.lsig (w.extractLsb' 13 5) (w.extractLsb' 8 5)))
  | 6 => some (match (w.extractLsb' 0 3).toNat with
    | 0 => some (.laadd (w.extractLsb' 18 5) (w.extractLsb' 13 5) (w.extractLsb' 8 5) (w.extractLsb' 3 1))
    | 1 => some (.laswp (w.extractLsb' 18 5) (w.extractLsb' 13 5) (w.extractLsb' 8 5) (w.extractLsb' 3 1))
    | 2 => some (.lacas (w.extractLsb' 18 5) (w.extractLsb' 13 5) (w.extractLsb' 8 5) (w.extractLsb' 3 1))
    | 3 => some (.lamin (w.extractLsb' 18 5) (w.extractLsb' 13 5) (w.extractLsb' 8 5) (w.extractLsb' 3 1))
    | 4 => some (.lamax (w.extractLsb' 18 5) (w.extractLsb' 13 5) (w.extractLsb' 8 5) (w.extractLsb' 3 1))
    | 5 => some (.laand (w.extractLsb' 18 5) (w.extractLsb' 13 5) (w.extractLsb' 8 5) (w.extractLsb' 3 1))
    | 6 => some (.laor (w.extractLsb' 18 5) (w.extractLsb' 13 5) (w.extractLsb' 8 5) (w.extractLsb' 3 1))
    | _ => some (.laxor (w.extractLsb' 18 5) (w.extractLsb' 13 5) (w.extractLsb' 8 5) (w.extractLsb' 3 1)))
  | 7 => some (some (.lwsig (w.extractLsb' 18 5) (w.extractLsb' 13 5) (w.extractLsb' 0 13)))
  | 8 => some (some (.lquiet))
  | _ => none

/-- The opcodes of GTH (Table 2-14). The outer none: OP is unassigned. The inner none: fn is unassigned. -/
def candidateGth (w : Word) : Option (Option Instr) :=
  match (w.extractLsb' 23 6).toNat with
  | 1 => some (some (.gtab (w.extractLsb' 18 5) (w.extractLsb' 13 5) (w.extractLsb' 8 5) (w.extractLsb' 5 1) (w.extractLsb' 2 3) (w.extractLsb' 0 2)))
  | 2 => some (some (.gthr (w.extractLsb' 19 4) (w.extractLsb' 13 6) (w.extractLsb' 8 5)))
  | 3 => some (some (.gsum (w.extractLsb' 19 4) (w.extractLsb' 13 6) (w.extractLsb' 8 5)))
  | _ => none

/-- The opcodes of CLV (Table 2-15). The outer none: OP is unassigned. The inner none: fn is unassigned. -/
def candidateClv (w : Word) : Option (Option Instr) :=
  match (w.extractLsb' 23 6).toNat with
  | 1 => some (some (.cgrp (w.extractLsb' 13 5) (w.extractLsb' 8 5) (w.extractLsb' 0 3)))
  | 2 => some (some (.cred (w.extractLsb' 18 5) (w.extractLsb' 13 5) (w.extractLsb' 8 5) (w.extractLsb' 5 2) (w.extractLsb' 3 2) (w.extractLsb' 0 3)))
  | 3 => some (some (.crsc (w.extractLsb' 18 5) (w.extractLsb' 13 5) (w.extractLsb' 8 5) (w.extractLsb' 5 2) (w.extractLsb' 3 2) (w.extractLsb' 0 3)))
  | 4 => some (some (.callg (w.extractLsb' 18 5) (w.extractLsb' 13 5) (w.extractLsb' 8 5) (w.extractLsb' 3 2) (w.extractLsb' 0 3)))
  | 5 => some (some (.cbc (w.extractLsb' 18 5) (w.extractLsb' 13 5) (w.extractLsb' 8 5) (w.extractLsb' 3 2) (w.extractLsb' 0 3)))
  | _ => none

/-- The opcodes of ALL (Table 2-9). The outer none: OP is unassigned. The inner none: fn is unassigned. -/
def candidateAll (w : Word) : Option (Option Instr) :=
  match (w.extractLsb' 23 6).toNat with
  | 1 => some (some (.step (w.extractLsb' 9 1) (w.extractLsb' 3 6) (w.extractLsb' 0 3)))
  | 2 => some (some (.bar (w.extractLsb' 7 1) (w.extractLsb' 3 4) (w.extractLsb' 0 3)))
  | 3 => some (some (.fenceM (w.extractLsb' 0 7)))
  | 4 => some (some (.exit))
  | 5 => some (some (.fpcw (w.extractLsb' 3 1) (w.extractLsb' 2 1) (w.extractLsb' 0 2)))
  | 6 => some (some (.latew (w.extractLsb' 13 5) (w.extractLsb' 0 7)))
  | 7 => some (some (.budg (w.extractLsb' 13 5)))
  | 8 => some (some (.bndset (w.extractLsb' 18 3) (w.extractLsb' 13 5) (w.extractLsb' 8 5) (w.extractLsb' 0 2)))
  | 9 => some (some (.mark (w.extractLsb' 0 18)))
  | _ => none

/-- The instruction that a word's engine, OP, fn and operand fields name, whatever its reserved bits hold. -/
def candidate (w : Word) : Option (Option Instr) :=
  match (engField w).toNat with
  | 0 => candidateCtl w
  | 1 => candidateMtx w
  | 2 => candidateVec w
  | 3 => candidateCpy w
  | 4 => candidateLnk w
  | 5 => candidateGth w
  | 6 => candidateClv w
  | _ => candidateAll w

/-- Decoding, in the order of Table 2-6: check 2 (OP), check 3 (fn and selectors), check 4 (reserved bits: the
word must be the one that its own instruction encodes to). -/
def decode (w : Word) : Except DecodeReject Instr :=
  match candidate w with
  | none => .ok (.unassignedOpcode w)
  | some none => .error .badSelector
  | some (some i) =>
    if i.selectorOk then
      if encode i = w ∧ i.unusedZero = true then .ok i else .error .reservedNonzero
    else .error .badSelector

/-- The reader's question to the decoder, on a word as the opcode table numbers its bits. -/
def decodeTableWord (nbits w : Nat) : Option Instr :=
  if nbits ≤ 32 then
    match decode (BitVec.ofNat 32 w) with
    | .ok i => some i
    | .error _ => none
  else none

/-- The engine whose word an instruction is (Table 2-1), 7 for an ALL word; an event belongs to CTL's core. -/
def Instr.eng (i : Instr) : BitVec 3 := engField (encode i)

end Sys2Proof
end

