-- ==== Sys2Proof/Machine/State.lean ====
section
/-! DEFINITION. State.lean: the state of the package as plain data, the reasons a step can stop, and the state after
reset. One core is the focus (the core that moves); the other running cores stand in a list beside it. -/
namespace Sys2Proof.Machine
open Sys2Proof.Config (DieType)

/-- An outcome of a steering word, as the outcome queues hold it (R33). -/
inductive Outc where
  | taken (t : TextAddr)
  | notTaken
  deriving DecidableEq, Repr

/-- One engine's copy of a bound register and of its action (R192). -/
structure Bound where
  low  : Elem := 0
  high : Elem := 0
  act  : BitVec 2 := 0
  deriving DecidableEq, Repr

/-- An engine stopped at a word (R39, R313): the cause it raised, the EVAL detail, the engine number ECAUSE will
hold, where and when it stopped, whether CTL has taken the cause, and whether it only waits at an ALL word that
failed decode (R40). -/
structure Stop where
  cause : Byte
  eng   : BitVec 3
  eval  : Dword
  pc    : TextAddr
  cycle : Nat
  taken : Bool
  waits : Bool
  deriving DecidableEq, Repr

/-- What takes effect at the end of the cycle (R90, R96, R340). -/
inductive Eoc where
  /-- A CSR write or another event of the table. -/
  | event (i : Instr)
  /-- The granted power level. -/
  | level (n : BitVec 4)
  /-- LATEMAX of an engine is reset (R89). -/
  | lateReset (eng : Nat)
  /-- An entry enters FQ, or its head leaves it (R186). -/
  | fqPush (v : Dword)
  | fqPop
  | hdef (h : HReg) (base : BitVec 24) (lsz : BitVec 4) (cntm1 : BitVec 6)
  | release (eng : Nat) (h : HReg) (w : Nat)
  | commit (eng : Nat) (h : HReg) (w : Nat)
  /-- A push arrives from a core (R290): where its bytes stand already, and what stood there before them. -/
  | arrive (sender : CoreId) (h : HReg) (bytes : List Byte) (old : Option (Nat × List Byte))
  deriving DecidableEq, Repr

/-- What each engine of a core keeps for itself (R31 to R36, R128 to R131, R180, R192, R89). -/
structure Engine where
  /-- The engine's program counter (R31). -/
  pc        : TextAddr := 0
  /-- The dynamic position of the word it stands at (R31). -/
  pos       : Nat := 0
  /-- Cycle in which it came to that word (R40). -/
  came      : Nat := 0
  /-- Dynamic position of its latest own word. -/
  lastPos   : Nat := 0
  /-- It has issued an own word since context start. -/
  started   : Bool := false
  /-- Scheduled cycle of its latest own word, with the rebases and shifts of R132 and R133. -/
  sched     : Nat := 0
  /-- First cycle at which its unit is free for another own word. -/
  freeAt    : Nat := 0
  /-- First cycle at which it can pass another word (R32). -/
  passAt    : Nat := 0
  /-- Words it has passed in the present cycle (R32). -/
  passed    : Nat := 0
  /-- Cycles of the word it stands at that a debug-hold takes out of its lateness (R329). -/
  excuse    : Nat := 0
  /-- Code of the wait met when it last tried to issue (Table 6-2). -/
  wait      : Byte := 0
  /-- Its copy of LATE (R131). -/
  late      : BitVec 16 := 65535
  /-- LATEMAX of Table 4-7. -/
  lateMax   : Nat := 0
  /-- LASTCAUSE of Table 4-7. -/
  lastCause : Byte := 0
  /-- Current drawn by its running operation, in mA, until freeAt (R331). -/
  draw      : Nat := 0
  /-- It has reached EXIT (R152). -/
  exited    : Bool := false
  /-- It has posted its marker at a STEP or BAR and stands there (R149, R150). -/
  marked    : Bool := false
  /-- It is held after issue by LWSIG, WEV or LQUIET (R302, R303, R338). -/
  held      : Bool := false
  /-- Outcome queue, at most 64 entries (R33). -/
  outcomes  : List Outc := []
  /-- Text address of its latest own word, and the outcomes consumed since, for a fault found after issue. -/
  lastPc    : TextAddr := 0
  /-- It stands again at a word that has issued, to issue it once more at its scheduled cycle. -/
  redo      : Bool := false
  eaten     : List Outc := []
  /-- The position it had reached before it was put back at that word (R89). -/
  wasAt     : Nat := 0
  /-- FPC[3:0] of its copy (R180). -/
  mode      : BitVec 4 := 0
  /-- Its copies of BND0..BND7 (R192). -/
  bnd       : Vector Bound 8 := Vector.replicate 8 {}
  /-- Where it is stopped, if it is. -/
  stop      : Option Stop := none
  deriving DecidableEq, Repr

/-- The mode and the bounds that an operation holds for its whole life (R180, R193). -/
structure Held where
  ftzi : Bool := false
  ftzo : Bool := false
  bnd  : Vector Bound 8 := Vector.replicate 8 {}
  deriving DecidableEq, Repr
/-- What an operation of the engine that issues now holds. -/
def Engine.holds (x : Engine) : Held := { ftzi := x.mode.getLsbD 2, ftzo := x.mode.getLsbD 3, bnd := x.bnd }

/-- A handle (R93). FREE is COUNT - FILL. -/
structure Handle where
  defined : Bool := false
  base    : BitVec 24 := 0
  lsz     : BitVec 4 := 0
  cntm1   : BitVec 6 := 0
  fill    : Nat := 0
  pidx    : Nat := 0
  cidx    : Nat := 0
  deriving DecidableEq, Repr

/-- An entry of CTL's write log (R36): the overwritten value, the dynamic position of its overwriting, and the load
that still brings that value, if one does. -/
structure LogEntry where
  reg : GReg
  val : Dword
  df  : Bool
  pos : Nat
  tag : Option Nat
  deriving DecidableEq, Repr

/-- A CTL word that has issued and not retired (R73): its position, the cycle from which it can retire, the load tag
it waits for, and the outcome it posts, if it is a steering word. -/
structure CtlRet where
  pos  : Nat
  due  : Nat
  tag  : Option Nat
  outc : Option Outc
  deriving DecidableEq, Repr

/-- A load, store or atomic on its way to memory (R108, R119 to R122). A load carries its destination and its tag. -/
inductive MemOp where
  | load (d : GReg) (tag : Nat) (n : Nat) (sext : Bool)
  /-- LDO. -/
  | own (d : GReg) (tag : Nat)
  | store (n : Nat) (v : Dword)
  | amo (d : GReg) (tag : Nat) (op : BitVec 3) (wide : Bool) (x : Dword) (cmp : Dword)
  /-- A read for a waiting LWSIG or WEV (true for WEV), with the tag of the wait. -/
  | wait (ev : Bool) (tag : Nat)
  deriving DecidableEq, Repr

/-- What the activations of an MGVR chunk are read for (R247): a weight and the address of its activation, or the end of
the row. -/
inductive GvStep where
  | add (v : Int) (addr : Nat)
  | endRow
  deriving DecidableEq, Repr

/-- What an operation does at one of its documented cycles in local or die-shared scratch (R143). A key is a byte of
local scratch, or of `dsh` when `shared` is set. -/
inductive LocalEff where
  /-- A CTL access performs; the virtual address finds its element in a planed range. -/
  | ctl (op : MemOp) (shared : Bool) (key : Nat) (addr : Dword)
  | write (shared : Bool) (key : Nat) (bytes : List Byte)
  /-- A beat of an LDQ is read, and enters its queue at the end of the next cycle (R124). -/
  | beat (q : BitVec 2) (key : Nat)
  | enter (q : BitVec 2) (bytes : List Byte)
  /-- The words of a row of an MLDT are read, and enter the tile at a byte in the next cycle (R221). -/
  | row (keys : List Nat) (m : Nat) (at_ : Nat)
  /-- Bytes are written into a tile from a byte on (R212, R234). -/
  | tile (m : Nat) (at_ : Nat) (bytes : List Byte)
  /-- A source row of an MTRN is read (R222). -/
  | trnRow (i : Nat)
  /-- A residual row of the running drain is read (R213). -/
  | resid (key : Nat) (n : Nat)
  /-- The MX running maximum and its flags are updated (R189, R222). -/
  | mflags (mx : Elem) (nan sat : Bool)
  /-- The activations of a chunk of an MGVR are read (R248). -/
  | acts (xs : List GvStep)
  /-- A tile exponent is set (R233). -/
  | texp (m : Nat) (t : Byte)
  /-- The engine's operation faults: the engine stands again at its word, stopped (R213, R236, R248). -/
  | fault (cause : Byte) (eval : Dword)
  /-- An element of a fixed copy is written (R162); in gather table SRAM when `g` is set. -/
  | copy (ch : Nat) (g : Bool) (addr : Nat) (bytes : List Byte)
  /-- A status doubleword is written (R166). -/
  | status (key : Nat) (v : Dword)
  /-- A push of a core lands in a ring (R290). -/
  | arrive (sender : CoreId) (h : HReg) (bytes : List Byte)
  /-- Bytes of a push, of an LPUT, or the compare value of an LACAS are read (R294, R299, R301). -/
  | beats (key : Nat) (n : Nat)
  | podData (key : Nat) (n : Nat)
  /-- Something is due at the end of the cycle. -/
  | atEnd (x : Eoc)
  /-- Ids 32 j to 32 j + 31 of a CGRP's table of m ids at a are read; with the last ones the group is bound (R308). -/
  | members (g : BitVec 3) (a j m : Nat)
  /-- The oldest collective on a group ends (R310). -/
  | collEnd (g : BitVec 3) (r : CollRes)
  deriving DecidableEq, Repr

/-- An effect that is due: its local cycle, the engine that issued it and the dynamic position of its word. -/
structure LocalOp where
  due : Nat
  eng : Nat
  pos : Nat
  eff : LocalEff
  /-- Of a copy's write: the place of the copy in the issue order (R167). -/
  seq : Nat := 0
  /-- Of an access of CTL: the cycles that its bank has held it back (R108, R350). -/
  held : Nat := 0
  /-- Of a read of an operation that a freeze has caught: what it finds in its ranges, of die-shared scratch or not, by key (R322). -/
  seen : List (Bool × Nat × List Byte) := []
  deriving DecidableEq, Repr

/-- The wait of an LWSIG or WEV for a word (R302, R338). -/
structure WaitWord where
  addr  : Dword
  /-- LWSIG: the value to reach. WEV: the value to differ from. -/
  val   : Dword
  /-- WEV's destination, and the tag under which it waits. -/
  dst   : GReg
  tag   : Nat
  /-- Cycle of the next read. -/
  next  : Nat
  /-- Value of the last read that has returned. -/
  last  : Option Dword
  deriving DecidableEq, Repr

/-- The general registers and what CTL keeps beside them (R71 to R77, R36). -/
structure CtlUnit where
  g       : Vector Dword 32 := Vector.replicate 32 0
  df      : BitVec 32 := 0
  /-- Cycle from which a register's latest value is ready; a load in flight has none yet. -/
  ready   : Vector Nat 32 := Vector.replicate 32 0
  /-- Registers that wait for a load, each with the load's tag. -/
  pend    : List (GReg × Nat) := []
  /-- MODEL'S OWN: the tag of the next load. -/
  tags    : Nat := 0
  log     : List LogEntry := []
  retq    : List CtlRet := []
  /-- Cycle at which the latest CTL word retired. -/
  lastRet : Nat := 0
  divFree : Nat := 0
  /-- A FENCE.M that has issued and not retired: its mask and position (R151). -/
  fence   : Option (BitVec 7 × Nat) := none
  /-- The fence of a handler's FENCE.M, which acts on CTL alone (R134). -/
  hfence  : Bool := false
  /-- The LATE window that each engine will hold when it comes to CTL's position (R153). -/
  lates   : Vector (BitVec 16) 7 := Vector.replicate 7 65535
  /-- A claim that a store at CTL has sent: its tag and its answer, once it has returned (R116). -/
  claim   : Option (Nat × Option Bool) := none
  wev     : Option WaitWord := none
  deriving DecidableEq, Repr

/-- A pending asynchronous cause (R313). -/
structure PendCause where
  cause : Byte
  eng   : BitVec 3
  eval  : Dword
  /-- Local cycle at which it was raised. -/
  cycle : Nat
  deriving DecidableEq, Repr

/-- The trap registers (Tables 14-1 to 14-5). -/
structure TrapUnit where
  /-- STATUS.MODE: true in supervisor mode. -/
  mode    : Bool := false
  pmode   : Bool := false
  tl      : Bool := false
  pmask   : Bool := false
  bnd     : Bool := false
  detlost : Bool := false
  wslost  : Bool := false
  fidarm  : Bool := false
  cause   : Byte := 0
  ceng    : BitVec 3 := 0
  async   : Bool := false
  eval    : Dword := 0
  /-- EPC0..EPC7: PC. -/
  epc     : Vector TextAddr 8 := Vector.replicate 8 0
  /-- The word at which CTL stopped, its stop address (R337). -/
  stopPc  : TextAddr := 0
  /-- EPC0..EPC7: STOPPED. -/
  stopped : BitVec 8 := 0
  svec    : TextAddr := 63488
  uvec    : TextAddr := 0
  tscr    : Dword := 0
  /-- MODEL'S OWN: the tag of a load whose result TSCR waits for. -/
  tscrTag : Option Nat := none
  tdeleg  : Dword := 0
  /-- Asynchronous causes not yet taken. -/
  pend    : List PendCause := []
  /-- Local cycle of the trap entry (R133). -/
  entry   : Nat := 0
  /-- Local cycle of the latest entry, until whose end the EPCs are taken (R313). -/
  snapAt  : Nat := 0
  /-- Local cycle at which PMASK was set (R322). -/
  maskAt  : Nat := 0
  /-- PMASK has been held 4,096 cycles and is ignored (R322). -/
  maskOut : Bool := false
  deriving DecidableEq, Repr

/-- Special registers of the core beside the trap registers (Table 4-8). -/
structure SprUnit where
  twin    : BitVec 13 := 256
  budget  : BitVec 32 := 0
  stepcnt : Dword := 0
  splb    : BitVec 23 := 0
  splsz   : BitVec 23 := 0
  ovfp    : Dword := 0
  /-- PWRDECL.LEVEL and the level of a waiting PACQ (Table 14-11). -/
  level   : BitVec 4 := 0
  req     : BitVec 4 := 0
  preq    : Bool := false
  /-- The waiting raise has been granted, in which local cycle, and the global cycle from which it can be (R332, R339). -/
  granted : Bool := false
  grantAt : Nat := 0
  reqAt   : Nat := 0
  /-- The level it holds against the die's budget before what lowers it in this cycle (R332). -/
  heldWas : Nat := 0
  /-- PWRDECL.DRAW: the draw at the end of the previous cycle. -/
  draw    : Nat := 0
  /-- THRN (Table 14-12). -/
  thrAct  : Bool := false
  thrShare : Byte := 0
  thrCyc  : BitVec 32 := 0
  thrEv   : BitVec 16 := 0
  /-- The controller throttles the core, and the share it denies (R333); a write to THRN changes neither. -/
  denies  : Bool := false
  denied  : Byte := 0
  deriving DecidableEq, Repr

/-- One level of a copy's nest (R156, R158). -/
structure GeoLevel where
  count : BitVec 32 := 1
  ss    : Dword := 0
  ds    : Dword := 0
  deriving DecidableEq, Repr

/-- STATE of a copy channel (Table 7-7). -/
inductive ChState where
  | idle
  | busy
  | stopped
  | fault
  deriving DecidableEq, Repr

/-- The snapshot of a running copy (R157). -/
structure Snap where
  dbase : Dword
  sbase : Dword
  e     : Nat
  sg    : Bool
  dg    : Bool
  fill  : Bool
  geo   : Vector GeoLevel 6
  l0    : Dword
  l1    : Dword
  /-- Fixed-latency or variable (R161). -/
  fixed : Bool
  /-- First cycle at which it can read its next element, or move its next piece (R161, R162). -/
  readAt : Nat
  /-- Dynamic position of the word that issued it, and its place in the issue order of the core's copies (R167). -/
  pos    : Nat
  seq    : Nat
  /-- Of a variable copy: the CPY that executes it (a BF die's number, or 16 and more for the issuing core's), and the global cycle
  since which its channel waits for its turn there (R161). -/
  exec   : Nat := 16
  turn   : Nat := 0
  /-- Elements read so far. -/
  nread : Nat
  /-- Elements written so far. -/
  nwrit : Nat
  /-- Elements written by the end of the previous cycle, as waits see them (R145). -/
  nseen : Nat
  /-- CSTOP has been issued: no element begins (R175). -/
  stop  : Bool
  deriving DecidableEq, Repr

/-- A schedule bound to a channel (R173). -/
structure SchedBind where
  addr  : Dword
  count : Nat
  next  : Nat
  deriving DecidableEq, Repr

/-- A page move under way (R176): pages still to be moved, from the first virtual address on, each with its new place in the
context's list of pages. -/
structure PageJob where
  /-- Dynamic position of its CPAGE. -/
  pos  : Nat
  addr : Dword
  left : Nat
  /-- First cycle at which the next page can be moved. -/
  next : Nat
  deriving DecidableEq, Repr

/-- A copy channel (R156). -/
structure Channel where
  geo    : Vector GeoLevel 6 := Vector.replicate 6 {}
  l0     : Dword := 0
  l1     : Dword := 0
  status : Dword := 0
  state  : ChState := .idle
  snap   : Option Snap := none
  sched  : Option SchedBind := none
  /-- The entries released and not yet taken (PEND): the position of the CADV that released each, oldest first (R174). -/
  pendq  : List Nat := []
  cause  : Byte := 0
  /-- Watermark of the last copy, once it has ended (R164). -/
  wm     : Nat := 0
  /-- A copy issued in this cycle, and WM, STATE and CAUSE at the end of the previous one (R166). -/
  issued : Bool := false
  shown  : Dword := 0
  /-- First cycle at which the next schedule entry can issue, and whether an entry of a stage-memory table has been fetched (R174). -/
  entryAt : Nat := 0
  fetched : Bool := false
  /-- The four words of a fetched entry whose copy waits for a page that is being moved (R111). -/
  entry   : List Dword := []
  /-- The snapshots of the copies that it began in the running step (R168). -/
  begun   : List Snap := []
  page   : Option PageJob := none
  deriving DecidableEq, Repr

/-- One level of the matrix nest (Table 9-1). -/
structure NestLevel where
  count : BitVec 32 := 1
  astr  : Dword := 0
  bstr  : Dword := 0
  cstr  : Dword := 0
  drn   : Bool := false
  deriving DecidableEq, Repr

/-- DCFG (Table 9-1). -/
structure DCfg where
  kind  : BitVec 2
  idx   : BitVec 4
  shape : Dword
  clr   : Bool
  deriving DecidableEq, Repr

/-- RCFG (Table 9-1). -/
structure RCfg where
  base  : Dword
  pitch : BitVec 16
  bf    : Bool
  deriving DecidableEq, Repr

/-- Progress of an MGO (Table 9-1, R210). -/
structure Prog where
  /-- Index of the next pass in nest order; the counters k0..k5 are its digits. -/
  pass  : Nat
  /-- A drain is pending after pass `pass - 1`, at this address. -/
  drain : Option Dword
  h     : HReg
  w     : Nat
  rel   : Bool
  /-- Cycle in which the MGO issued, or went on after a trap. -/
  start : Nat
  /-- Cycle of the next pass or drain. -/
  at_   : Nat
  /-- K, once the last pass has run and no drain follows. -/
  fin   : Option Nat
  /-- MTX stands stopped at the MGO. -/
  held  : Bool
  /-- The mode and bounds it issued, or resumed, with; and whether a drain found an element out of range under a flag action. -/
  cfg   : Held
  bnd   : Bool
  deriving DecidableEq, Repr

/-- A running drain (R211 to R213). -/
structure DrainJob where
  /-- D, and the dynamic position of its word. -/
  start : Nat
  pos   : Nat
  /-- It belongs to an MGO. -/
  auto_ : Bool
  kind  : Nat
  index : Nat
  shape : Dword
  clr   : Bool
  /-- Address of row 0: the drain address, or the base of the ring's slot. -/
  addr  : Nat
  /-- Residual rows read so far. -/
  rows  : List (List Byte)
  /-- The mode and bounds of its word. -/
  cfg   : Held
  deriving DecidableEq, Repr

/-- A running MTRN (R222): issue cycle, position, operands, and the rows staged so far. -/
structure TrnJob where
  start : Nat
  pos   : Nat
  m     : Nat
  dst   : Nat
  src   : Nat
  shape : Dword
  conv  : Nat
  amx   : Bool
  rows  : List (List Elem)
  cfg   : Held
  deriving DecidableEq, Repr

/-- TWC (Table 10-1). -/
structure Twc where
  radix : List Nat
  n     : Nat
  b     : Nat
  inv   : Bool
  deriving DecidableEq, Repr

/-- GVC (Table 11-4). -/
structure Gvc where
  len   : Nat
  wide  : Bool
  lim   : Nat
  abase : Dword
  deriving DecidableEq, Repr

/-- The row state of a grouped-value row (R244, R247). -/
structure RowState where
  /-- The open group: its weight and its last position. -/
  group  : Option (Int × Option Nat) := none
  groups : Nat := 0
  /-- Positions seen so far. -/
  seen   : List Nat := []
  deriving DecidableEq, Repr

/-- GVP: an MGVR in progress (Table 11-4, R249). -/
structure Gvp where
  h     : HReg
  w     : Nat
  out   : Nat
  rows  : Nat
  rel   : Bool
  /-- Byte addresses of the slots that hold the stream, and their size. -/
  srcs  : List Nat
  slot  : Nat
  /-- Next token of the stream, the row, and its record's first token. -/
  tok   : Nat
  row   : Nat
  start : Nat
  st    : RowState
  /-- Cycle of the next chunk. -/
  at_   : Nat
  /-- Total of the row whose activations are being read, its index, and whether an output was saturated. -/
  total : Int
  orow  : Nat
  sat   : Bool
  /-- K, once the last row has been parsed; and whether a malformed token has been read. -/
  fin   : Option Nat
  bad   : Bool
  /-- MTX stands stopped at the MGVR. -/
  held  : Bool
  /-- The mode it issued, or resumed, with. -/
  cfg   : Held
  deriving DecidableEq, Repr

/-- A word that reads rows of a tile or of the accumulators, one a cycle (Tables 9-5, 10-7): the cycle of row 0, the rows, the first byte of
row 0 in MTX's register file, whether each row is cleared as well, and the permutation of a .DREV form. -/
structure RowLook where
  start : Nat
  rows  : Nat
  key   : Nat
  clr   : Bool
  drev  : Option Twc
  deriving DecidableEq, Repr

/-- The matrix engine (Table 9-1). -/
structure MtxUnit where
  acc   : Store Elem := []
  /-- m0..m7: element e of tile m under key 16384 m + e. -/
  tile  : Store Elem := []
  texp  : Vector Byte 8 := Vector.replicate 8 0
  /-- First cycle after the last write to each tile that has been issued, and after the latest retirement (R224, R234). -/
  tready : Vector Nat 8 := Vector.replicate 8 0
  retireAt : Nat := 0
  job   : Option DrainJob := none
  trn   : Option TrnJob := none
  nest  : Vector NestLevel 6 := Vector.replicate 6 {}
  abase : Dword := 0
  bbase : Dword := 0
  cbase : Dword := 0
  dcfg  : Option DCfg := none
  rcfg  : Option RCfg := none
  key   : Vector Elem 4 := Vector.replicate 4 0
  cb    : BitVec 128 := 0
  thr   : Elem := 0
  ks    : Elem := 0x3F800000
  cfw   : Dword := 0
  prog  : Option Prog := none
  stalls : Nat := 0
  passes : Nat := 0
  mism  : Bool := false
  mismCnt : Nat := 0
  mpass : Nat := 0
  mcol  : Nat := 0
  amax  : Elem := 0
  nan   : Bool := false
  sat   : Bool := false
  /-- FQ, oldest first, and the index of its head (R186, Table 8-6). -/
  fq    : List Dword := []
  fqHead : BitVec 4 := 0
  twc   : Option Twc := none
  gvc   : Option Gvc := none
  gvp   : Option Gvp := none
  /-- The latest word that reads rows one a cycle. -/
  look  : Option RowLook := none
  deriving DecidableEq, Repr

/-- An expression slot (R275). -/
structure Slot where
  bits  : BitVec 128 := 0
  valid : Bool := false
  deriving DecidableEq, Repr

/-- An entry of the deferral queue (R278). -/
structure DqEntry where
  coord : Nat
  vals  : List Elem
  deriving DecidableEq, Repr

/-- A VEC word that has issued and not retired (R190): what its retirement does. -/
structure VecRet where
  due   : Nat
  pos   : Nat
  /-- Greatest source magnitude and NaN flag of an .amax form. -/
  mx    : Elem := 0
  nan   : Bool := false
  sat   : Bool := false
  /-- A bound check with flag action failed. -/
  bnd   : Bool := false
  reset : Bool := false
  /-- Bytes that enter a store queue at completion. -/
  push  : Option (Bool × List Byte) := none
  deriving DecidableEq, Repr

/-- The vector engine (Table 12-1). -/
structure VecUnit where
  /-- v0..v15: element e of register r under key 1024 r + e. -/
  v     : Store Elem := []
  /-- Cycle from which a later word may use a register. -/
  vfree : Vector Nat 16 := Vector.replicate 16 0
  dqFree : Nat := 0
  rows  : Nat := 32
  cols  : Nat := 32
  lq    : Vector (List Byte) 4 := Vector.replicate 4 []
  sq    : Vector (List Byte) 2 := Vector.replicate 2 []
  /-- Bytes reserved in a store queue and not yet entered (R257). -/
  sres  : Vector Nat 2 := Vector.replicate 2 0
  /-- Bytes that STQs have taken from a store queue in this cycle (R257). -/
  taken : Vector Nat 2 := Vector.replicate 2 0
  slots : Vector Slot 16 := Vector.replicate 16 {}
  dq    : List DqEntry := []
  key   : Vector Elem 4 := Vector.replicate 4 0
  ctr   : BitVec 128 := 0
  amax  : Elem := 0
  nan   : Bool := false
  sat   : Bool := false
  retq  : List VecRet := []
  deriving DecidableEq, Repr

/-- A gather table (R304). -/
structure GTable where
  valid : Bool := false
  base  : Dword := 0
  g     : Bool := false
  fmt   : BitVec 3 := 0
  rb    : Nat := 0
  nrow  : Nat := 0
  deriving DecidableEq, Repr

/-- A gather under way (R304, R306). -/
structure GJob where
  pos   : Nat
  sum   : Bool
  h     : HReg
  w     : Nat
  rel   : Bool
  oh    : HReg
  /-- Byte address of the output slot. -/
  out   : Nat
  tab   : GTable
  /-- Indices of a GTHR, bags of a GSUM. -/
  n     : Nat
  /-- Byte addresses of the slots that hold the stream, and their size. -/
  srcs  : List Nat
  slot  : Nat
  /-- Issue cycle, and the copy of FPC at issue. -/
  start : Nat
  mode  : BitVec 4
  /-- Stream words read, and the cycle of the last read. -/
  k     : Nat
  last  : Nat
  /-- Rows of the image so far, none for a negative index of a GTHR, each with its stream word. -/
  rows  : List (Option Nat × Nat)
  /-- Indices of the open bag still to be read, and the number of rows of each bag so far. -/
  left  : Nat
  bags  : List Nat
  /-- Bytes of the image read so far, and beats read. -/
  got   : List Byte
  beat  : Nat
  /-- Of a GSUM whose stream may hold more: the bytes of the last beat as far as the rows so far give it, with their image's length. -/
  part  : Option (Nat × List Byte) := none
  /-- The bytes of its slots, where a freeze has caught it (R322). -/
  kept  : List (List Byte) := []
  /-- Of a STAGE table: the first cycle at which the next row can be asked for, whether it has been, and the row once it is there. -/
  at_   : Nat
  asked : Bool
  row   : Option (List Byte)
  deriving DecidableEq, Repr

/-- What a pod request does when it is answered (R299 to R301, R105). -/
inductive PodKind where
  /-- A put of so many bytes; those that have been read. -/
  | put (len : Nat) (bytes : List Byte)
  | get (dst : Nat) (len : Nat)
  | load (d : GReg) (tag : Nat)
  | signal (add : Dword)
  | atomic (op : BitVec 3) (wide : Bool) (dst : Nat) (x : Dword) (cmp : Dword)
  deriving DecidableEq, Repr

/-- An operation in a core's pod queue (R297). -/
structure PodRec where
  /-- MODEL'S OWN: its number, in order of entry. -/
  num    : Nat
  eng    : BitVec 3
  pos    : Nat
  /-- The target package and the virtual address there. -/
  pkg    : BitVec 13
  remote : Dword
  kind   : PodKind
  /-- Bytes whose requests have been answered, and whether one was answered as failed. -/
  off    : Nat
  failed : Bool
  deriving DecidableEq, Repr

/-- A push that has not left its core's link (R289, R294): its word's position, destination, beats in all, beats read,
beats departed, the slot and the cycle of the first departure, and the latencies of its route. -/
structure PushRec where
  pos   : Nat
  dst   : CoreId
  dh    : HReg
  nb    : Nat
  got   : List Byte
  gone  : Nat
  slot  : Nat
  start : Nat
  hops  : Nat
  deriving DecidableEq, Repr

/-- The link engine (R297, R302, R303). -/
structure LnkUnit where
  podq   : List PodRec := []
  wsig   : Option WaitWord := none
  /-- MODEL'S OWN: the number of the next operation that enters the pod queue. -/
  next   : Nat := 0
  /-- LQUIET waits for the operations with lower numbers (R303). -/
  quiet  : Option Nat := none
  sends  : List PushRec := []
  /-- Slot occurrences already taken: link, first slot, count and cycle (R294). -/
  used   : List (Nat × Nat × Nat × Nat) := []
  deriving DecidableEq, Repr

/-- The forms of Table 13-10. -/
inductive CollForm where
  | red
  | rsc
  | allg
  | bc
  deriving DecidableEq, Repr

/-- A collective that has not performed (R310). -/
structure Coll where
  pos   : Nat
  form  : CollForm
  group : BitVec 3
  rop   : BitVec 2
  type  : BitVec 2
  dst   : Dword
  src   : Dword
  n     : Nat
  /-- Its place in the issue order of its context's collectives, which share the groups (R307, R310). -/
  seq   : Nat
  /-- The member packages of its group as it issued, in rank order. -/
  members : List (BitVec 13)
  deriving DecidableEq, Repr

/-- The CSRs that an event can change between two cycles, as they stood at the end of the previous cycle: a read returns
these (R90). -/
structure CsrView where
  stepcnt  : Dword := 0
  status   : Dword := 0
  dfmask   : Dword := 0
  power    : Dword := 0
  energy   : Dword := 0
  throttle : Dword := 0
  deriving DecidableEq, Repr

/-- The step checkpoint of a core (R326). -/
structure Ckpt where
  cont   : Nat
  rel    : Nat
  g      : Vector Dword 32
  df     : BitVec 32
  /-- Registers whose loads had read memory and not yet returned (R140). -/
  pend   : List (GReg × Nat)
  bndFlag : Bool
  vamax  : Elem × Bool × Bool
  mamax  : Elem × Bool × Bool
  budget : BitVec 32
  eng    : Vector Engine 7
  handles : Vector Handle 16
  fq     : List Dword
  fqHead : BitVec 4
  chan   : Vector Channel 8
  deriving DecidableEq, Repr

/-- A record of the trace buffer (R155). -/
structure TraceRec where
  eng   : BitVec 3
  value : BitVec 18
  sched : Nat
  issue : Nat
  step  : Dword
  deriving DecidableEq, Repr

/-- One engine's timetable: its start cycle and the gap of each own word by text address (R64, R128). -/
structure Timetable where
  start : Nat := 0
  /-- Gap less one, so that an unlisted address has gap 1. -/
  gaps  : Store Nat := []
  deriving DecidableEq, Repr

/-- Where a core stands between arriving at a barrier and continuing (R149, R150). -/
structure AtBar where
  step  : Bool
  rs    : Bool
  group : BitVec 6
  scope : BitVec 3
  id    : BitVec 4
  /-- Arrival cycle A. -/
  arr   : Nat
  /-- Release cycle and continue cycle, once released. -/
  rel   : Option (Nat × Nat)
  /-- The deadline count of the step it opens runs already (R135, R149). -/
  counted : Bool := false
  deriving DecidableEq, Repr

/-- One core. -/
structure Core where
  id      : CoreId := 16
  ctx     : CtxId := 0
  /-- It belongs to a started context and has not retired EXIT. -/
  live    : Bool := false
  /-- Local time is stopped (R126). -/
  frozen  : Bool := false
  /-- Its die is halted by the fid, since a global cycle (R329). -/
  halted  : Bool := false
  haltAt  : Nat := 0
  /-- It is ready to freeze (R322). -/
  ready   : Bool := false
  /-- It has retired EXIT, and in which local cycle (R138, R152). -/
  retired : Bool := false
  retiredAt : Nat := 0
  /-- CTL has reached EXIT: the deadline count has stopped (R135). -/
  quit    : Bool := false
  /-- It has asked for the kill of its context (R315, R316), and the host has been told. -/
  dying   : Bool := false
  told    : Bool := false
  /-- The cause, engine and detail of a nested trap (R315). -/
  nested  : Option (Byte × BitVec 3 × Dword) := none
  /-- An uncorrectable error it has consumed (R325). -/
  err     : Option ErrInfo := none
  /-- Cycles before the start pulse reaches the core (R126). -/
  delay   : Nat := 0
  /-- MODEL'S OWN: counts the free values taken. -/
  free    : Nat := 0
  /-- The engine that moves next (7: the end of the cycle), and the local cycle (CYC). -/
  turn    : BitVec 3 := 0
  /-- MODEL'S OWN: at the end of a cycle, the arrival of CTL has been tried again. -/
  tail    : Bool := false
  now     : Nat := 0
  text    : Store Word := []
  /-- The text as the image gives it (R42, R323). -/
  text0   : Store Word := []
  tt      : Vector Timetable 7 := Vector.replicate 7 {}
  eng     : Vector Engine 7 := Vector.replicate 7 {}
  ctl     : CtlUnit := {}
  trap    : TrapUnit := {}
  /-- Per engine, the positions of its operations that had not performed at the end of the previous cycle, and its
  LASTCAUSE then, as an RDE sees them (R89). -/
  seen    : Vector (List Nat × Byte) 7 := Vector.replicate 7 ([], 0)
  /-- The CSRs as a CSR word of this cycle reads them (R90). -/
  shown   : CsrView := {}
  /-- Position of the trailing engine at the end of the previous cycle, while two engines or more have not reached EXIT
  (R35). -/
  low     : Option Nat := none
  /-- What takes effect at the end of this cycle (R90, R96). -/
  eoc     : List Eoc := []
  /-- Effects in scratch that are due at their documented cycles (R143). -/
  fly     : List LocalOp := []
  spr     : SprUnit := {}
  handles : Vector Handle 16 := Vector.replicate 16 {}
  scratch : Memory := []
  wstack  : Memory := []
  /-- For each written 64 KiB unit of the weight stack, one more than the HBM address it was last copied from whole, or 2^60
  when it was last written otherwise (R323). -/
  wsrec   : Store Nat := []
  chan    : Vector Channel 8 := Vector.replicate 8 {}
  /-- Elements that fixed copies have read in this cycle (R162). -/
  cpyReads : Nat := 0
  mtx     : MtxUnit := {}
  vec     : VecUnit := {}
  gtab    : Vector GTable 4 := Vector.replicate 4 {}
  /-- The gather whose stream is being read, and those before it with rows or beats still to come (R306). -/
  gjob    : Option GJob := none
  gtail   : List GJob := []
  /-- Ids read so far of the CGRPs whose tables are being read, each with the position of its word. -/
  ids     : List (Nat × List Nat) := []
  lnk     : LnkUnit := {}
  colls   : List Coll := []
  bar     : Option AtBar := none
  /-- Release cycle of its previous STEP, from which the budget counts (R135), and whether the fault was raised. -/
  stepRel : Nat := 0
  late    : Bool := false
  /-- The running step (R325): its group, whether it is restartable, and its restarts. -/
  step    : Option (BitVec 6 × Bool × Nat) := none
  ckpt    : Option Ckpt := none
  tracing : Bool := false
  trace   : List TraceRec := []
  deriving DecidableEq, Repr

/-- A translation entry (Table 5-2). -/
structure TransEntry where
  vbase  : Dword
  target : Dword
  lsz    : Nat
  cls    : Nat
  home   : Nat
  perm   : Nat
  deriving DecidableEq, Repr

/-- A planed region (Table 5-8). -/
structure PlaneDesc where
  vbase   : Dword
  units   : Nat
  group   : BitVec 6
  wide    : Bool
  collide : Nat
  clear   : Bool
  shared  : Bool
  deriving DecidableEq, Repr

/-- The next value and metadata of a written element (R113): the region, the site of its die-shared copy (0 for a
STAGE region), the element, and next, WR, COLL and CL. An element that is not listed has W = 0. -/
structure PlaneCell where
  ctx  : CtxId
  reg  : Nat
  site : Nat
  elem : Nat
  next : Dword
  wr   : CoreId
  coll : Bool
  cl   : Bool
  deriving DecidableEq, Repr

/-- A step group (R59). -/
structure Group where
  id      : BitVec 6
  scope   : BitVec 3
  members : List CoreId
  deriving DecidableEq, Repr

/-- A claim on lanyard slots (Table 13-3). -/
structure SlotClaim where
  site  : Nat
  link  : Nat
  core  : Nat
  first : Nat
  count : Nat
  deriving DecidableEq, Repr

/-- A hop of a route: the site it leaves and the link it takes (R288). -/
abbrev Hop := Nat × Nat

/-- An entry of a context's route table (R288). -/
structure RouteEntry where
  src    : CoreId
  dst    : CoreId
  handle : HReg
  hops   : List Hop
  deriving DecidableEq, Repr

/-- Where a page now lies, and whether its space there came from the free pool (R111, R176). -/
structure PageHome where
  page : Nat
  home : Nat
  off  : Nat
  busy : Bool
  pool : Bool := false
  /-- While it is to be moved: the new home, the offset there, and whether that space comes from the free pool. -/
  to_  : Option (Nat × Nat × Bool) := none
  /-- Bytes of the page of the reserve that it lies in, or is to lie in, where that page is longer than it (R104). -/
  room : Nat := 0
  toRoom : Nat := 0
  deriving DecidableEq, Repr

/-- The launch record, as far as NODES (Table 14-7). -/
structure LaunchRec where
  image   : BitVec 32 := 0
  prio    : Nat := 0
  preempt : Bool := false
  mirror  : Bool := false
  plevel  : BitVec 4 := 0
  reserve : Nat := 0
  key     : BitVec 16 := 0
  nnode   : Nat := 0
  splsz   : Nat := 0
  ovfpb   : Dword := 0
  save    : Dword := 0
  deleg   : Dword := 0
  garea   : Dword := 0
  deriving DecidableEq, Repr

/-- How a context stands. -/
inductive CtxPhase where
  /-- Placed and installed, waiting for the capstan (R126). -/
  | placed
  | running
  /-- Frozen for a pre-emption, its save being written (R322). -/
  | saving
  /-- Frozen for a pre-emption, cores and slots released (R322). -/
  | saved
  /-- Halted by the fid (R328). -/
  | halted
  /-- Frozen by a kill that is not complete (R324). -/
  | killed
  deriving DecidableEq, Repr

/-- Why a context is to be frozen (R322, R327, R328). -/
inductive FreezeKind where
  | preempt
  | halt
  | cancel
  | kill
  deriving DecidableEq, Repr

/-- Traffic under way between units (R108, R116, R289, R302). -/
inductive Cargo where
  | req (op : MemOp)
  /-- A reply with its value, for a register and the load's tag, with the extension done; an atomic's is ready a cycle
  later. -/
  | reply (d : GReg) (tag : Nat) (v : Dword) (amo : Bool)
  /-- A reply to a waiting LWSIG or WEV. -/
  | seen (tag : Nat) (v : Dword)
  /-- A claim and its answer, each with the tag of the store that waits for it. -/
  | claim (tag : Nat)
  | claimAns (ok : Bool) (tag : Nat)
  /-- A push: the first-link departure is done when `left` is none of the beats. -/
  | push (dst : CoreId) (handle : HReg) (bytes : List Byte)
  | notify (addr : Dword)
  /-- A beat of a copy's piece before its last one; and the last one, with what the piece writes: channel, gather table SRAM or
  not, addresses and bytes (R161, R293). -/
  | beat
  | piece (ch : Nat) (g : Bool) (writes : List (Nat × List Byte))
  /-- A request bound for another package, with the CL die that it crosses to, and an answer from there on its way to a core (R296). -/
  | hawser (pkg : BitVec 13) (cl : Nat)
  | podAns (pkg : BitVec 13) (r : PodAns)
  /-- The answer that ends a collective on a group (R296, R310). -/
  | collAns (g : BitVec 3) (r : CollRes)
  /-- A gather asks a STAGE table's home for a row of so many bytes, and the row on its way to the core (R304). -/
  | rowAsk (len : Nat)
  | row (bytes : List Byte)
  deriving DecidableEq, Repr

/-- Traffic under way: what it carries, the core it serves, the address it names, the hops still to be made, whether
they are made in owned slots or in the residue, the global cycle of its next event, and whether a link block of it could
not be corrected (R292). -/
structure Flight where
  cargo : Cargo
  core  : CoreId
  /-- The engine and the dynamic position of the word that sent it. -/
  eng   : Nat
  pos   : Nat
  addr  : Dword
  hops  : List Hop
  owned : Bool
  due   : Nat
  bad   : Bool
  /-- Of a copy's piece: the place of its copy in the issue order (R167), and the cycles that timed traffic has held it back at its home
  (R350). -/
  seq     : Nat := 0
  blocked : Nat := 0
  deriving DecidableEq, Repr

/-- A resident context (R20, R21). -/
structure Context where
  id      : CtxId
  rec_    : LaunchRec
  launch  : Nat
  node    : Option Nat
  variant : Nat
  phase   : CtxPhase
  cores   : List CoreId
  trans   : List TransEntry
  planes  : List PlaneDesc
  /-- Die-shared share of each site, in bytes (R102). -/
  shares  : List (Nat × Nat)
  groups  : List Group
  claims  : List SlotClaim
  routes  : List RouteEntry
  need    : List Nat
  route   : List Nat
  pages   : List PageHome
  /-- The page reserve as it stands: class, home, offset and length of each free page of it (R104). -/
  spare   : List (Nat × Nat × Nat × Nat) := []
  /-- Pod groups bound by CGRP: the member packages (R307). -/
  pods    : List (BitVec 3 × List (BitVec 13))
  /-- Energy charged, in microjoules (R334). -/
  energy  : Dword
  /-- Pre-emptions, and the global cycle of the freeze (R322); of a placed context, the end of its loading (R67). -/
  preempts : Nat
  frozeAt : Nat
  /-- Of a context being saved: the global cycle from which its save stands written; and whether the save has released its cores and
  claims (R287, R322). -/
  saveAt  : Nat := 0
  released : Bool := false
  /-- The freezes that are asked for, each with the global cycle of its request (R322). -/
  freeze  : List (FreezeKind × Nat)
  /-- The BF dies that were not good when it was placed: no home of a save (R22). -/
  dead    : List Nat := []
  /-- The steps to be cancelled (R325, R327): the group of each, or none for the first step. -/
  cancels : List (Option (BitVec 6)) := []
  /-- The global cycle by which its key is revoked at the switches, once a kill is requested (R324). -/
  keyAt   : Nat := 0
  /-- Traffic of a saved context, with its global cycles as they stood at the freeze (R322). -/
  held    : List Flight
  deriving DecidableEq, Repr

/-- A section's text, data and timetable, as the loader installs them (Table 3-4). -/
structure Section where
  text  : List Word := []
  data  : List (Nat × List Byte) := []
  times : List (Nat × Nat × List Nat) := []
  entry : Nat := 0
  utrap : Nat := 0
  deriving DecidableEq, Repr

/-- A binding of a section to a core (R65). -/
structure Binding where
  core   : CoreId
  sect   : Nat
  budget : BitVec 32
  late   : BitVec 16
  deriving DecidableEq, Repr

/-- A ring declaration (Table 3-4). -/
structure RingDecl where
  core  : CoreId
  h     : HReg
  lsz   : Nat
  count : Nat
  base  : Nat
  deriving DecidableEq, Repr

/-- A SYNC record (R66). -/
structure SyncRec where
  src : CoreId
  dst : CoreId
  h   : HReg
  lsz : Nat
  deriving DecidableEq, Repr

/-- A variant of an image (R65). -/
structure Variant where
  id     : Nat := 0
  rank   : Nat := 0
  need   : List Nat := []
  route  : List Nat := []
  binds  : List Binding := []
  rings  : List RingDecl := []
  trans  : List TransEntry := []
  planes : List PlaneDesc := []
  shares : List (Nat × Nat) := []
  groups : List Group := []
  slots  : List SlotClaim := []
  syncs  : List SyncRec := []
  deriving DecidableEq, Repr

/-- An image accepted under R67 steps 1 to 3, and the variants excluded by step 5. -/
structure Image where
  id       : BitVec 32
  version  : Nat
  mirror   : Bool
  twin     : Nat
  sections : List Section
  variants : List Variant
  excluded : List Nat
  digest   : List Byte
  deriving DecidableEq, Repr

/-- A graph node (Table 14-8). -/
structure GNode where
  kind  : Nat
  npred : Nat
  image : BitVec 32
  word  : Nat
  arg   : Nat
  succ  : List Nat
  deriving DecidableEq, Repr

/-- How a graph node stands (R319). -/
inductive NodeSt where
  /-- Waiting for its predecessors, of which so many have finished. -/
  | waiting (done : Nat)
  | queued
  | running
  /-- A WAIT node polling its word; the global cycle of its next read. -/
  | polling (next : Nat)
  | done
  deriving DecidableEq, Repr

/-- A launch posted to a queue (R318 to R320). -/
structure Launch where
  id    : Nat
  /-- SEQ of the message that posted it. -/
  seq   : BitVec 32
  rec_  : LaunchRec
  nodes : List GNode
  state : List NodeSt
  /-- Iterations of each LOOP node. -/
  iters : List Nat
  deriving DecidableEq, Repr

/-- A notice to the host (Table 15-5). -/
inductive Notice where
  | retired (x : CtxId) (launch : Nat) (energy : Dword)
  | killed (x : CtxId)
  | fault (x : CtxId) (core : CoreId) (ecause : Dword) (eval : Dword) (epc : List Dword) (nested : Option (Byte × BitVec 3 × Dword))
  | refusal (seq : BitVec 32) (reason : Byte)
  | mix (launch : Nat)
  | lost (x : CtxId)
  | merged (x : CtxId) (core : CoreId) (w : Dword)
  | logFull (bf : Nat) (waiting : Nat)
  /-- The fault notice (kind 3) of a launch record that retires because a node's context was ended (R319). A context that was killed
  has no cause for the body of Table 15-5, so the notice names the record. DESIGN CHOICE, log entry 79. -/
  | graphFault (launch : Nat)
  deriving DecidableEq, Repr

/-- An error log record (Table 15-7). -/
structure LogRec where
  time  : Nat
  kind  : Byte
  site  : Nat
  unit  : BitVec 16
  ctx   : CtxId
  action : Byte
  lost  : Nat
  addr  : Dword
  synd  : Dword
  /-- Of a record in a log: LOGRD has returned it. -/
  read  : Bool := false
  deriving DecidableEq, Repr

/-- A step of the boot record (R343): its outcome at the last boot, and the alternate last used. -/
structure BootStep where
  res : StepRes := .pass
  alt : Option BootAlt := none
  deriving DecidableEq, Repr

/-- A firmware copy in module flash: the bytes that FWUPD has written, with their length; none is the copy of the factory. -/
abbrev FwCopy := Option (Memory × Nat)

/-- A reply to a host message beside its ACK. -/
inductive Reply where
  | bytes (session seq : BitVec 32) (data : List Byte)
  | status (session seq : BitVec 32) (mix : List Dword) (boot : List BootStep) (ctxs : List CtxId) (queues : List Nat)
  | ack (session seq : BitVec 32) (result : Byte)
  | trace (k : CoreId) (recs : List TraceRec)
  | records (session seq : BitVec 32) (recs : List LogRec)
  /-- A quote: what it is taken over, its signature, and the certificate of the key that made it (R348). -/
  | quote (session seq : BitVec 32) (data : List Byte) (sig : List Byte) (cert : List Byte)
  /-- What the fid reads of a halted core (R328): a register, bytes of its memory, or all of it. -/
  | word (k : CoreId) (v : Dword)
  | memory (k : CoreId) (a : Dword) (data : List Byte)
  | core (k : CoreId) (c : Core)
  deriving DecidableEq, Repr

/-- A session with the host (R346): the next sequence number and the results of the messages already processed. -/
structure Session where
  id   : BitVec 32
  next : Nat
  done : List (BitVec 32 × Byte)
  /-- Messages that arrived ahead of a gap. -/
  held : List (BitVec 32 × Instr)
  deriving DecidableEq, Repr

/-- The error log of a BF die (R352): records oldest first, and records lost since the last write. -/
structure ErrLog where
  recs : List LogRec := []
  lost : Nat := 0
  deriving DecidableEq, Repr

/-- How the module stands (R342, R344). -/
inductive Boot where
  | off
  | running
  | moored
  deriving DecidableEq, Repr

/-- The host attachment and what firmware keeps (R342 to R348, R352). -/
structure HostUnit where
  boot     : Boot := .off
  /-- Boot record, step 1 first; empty once CLEARBOOT has reset it (R343). -/
  record   : List BootStep := []
  /-- Sites that manufacturing has fused off (R345). DESIGN CHOICE: none (log entry 78). -/
  fuses    : List (BitVec 6) := []
  /-- The host addresses of the installation table (R346). DESIGN CHOICE: the address 0 alone (log entry 78). -/
  hosts    : List (BitVec 128) := [0]
  /-- Firmware copy B is in use. -/
  copyB    : Bool := false
  sessions : List Session := []
  /-- Notices that the host has not acknowledged, each with its SEQ. -/
  notices  : List (BitVec 32 × Notice) := []
  replies  : List Reply := []
  /-- Notices posted so far: the module's own SEQ counter. -/
  nseq     : BitVec 32 := 0
  uploads  : List (BitVec 32 × Memory × Nat) := []
  images   : List Image := []
  /-- Image key store, eight slots; slot 0 is not here, since it cannot be changed (R347). -/
  keys     : Vector (List Byte) 8 := Vector.replicate 8 []
  /-- The two firmware copies in module flash (R342, R346). -/
  fwA      : FwCopy := none
  fwB      : FwCopy := none
  logs     : Vector ErrLog 8 := Vector.replicate 8 {}
  fid      : Bool := false
  /-- Launch fragments received so far, by session. -/
  frag     : List (BitVec 32 × List Byte) := []
  launches : List Launch := []
  nlaunch  : Nat := 0
  deriving DecidableEq, Repr

/-- The power and thermal control of the dies (R332, R333, R349, R353). -/
structure PowerUnit where
  /-- Budget of each die less one, in granted levels; an unlisted die's is that of every core at level 15. -/
  budget : Store Nat := []
  /-- Throttled contexts by site (R333). -/
  thr    : List (Nat × CtxId) := []
  /-- Charge injection in the last 1,024 cycles: site, quad, cycle (R349). -/
  droop  : List (Nat × Nat × Nat) := []
  deriving DecidableEq, Repr

/-- The device context, context 0, as far as it holds anything while it has no cores: its pending causes and its energy (R20, R323,
R334). -/
structure DevUnit where
  pend   : List PendCause := []
  energy : Dword := 0
  deriving DecidableEq, Repr

/-- What takes effect at the end of a global cycle, for every core at once: a slot claim of a context, a release (R295), a group bound or
unbound (R308). -/
inductive CycleEff where
  | claim (x : CtxId) (q : SlotClaim)
  | unclaim (x : CtxId) (q : SlotClaim)
  | bind (x : CtxId) (g : BitVec 3) (ids : List (BitVec 13))
  deriving DecidableEq, Repr

/-- The package. -/
structure State where
  /-- Global cycle count (R3). -/
  clock  : Nat := 0
  /-- The core that moves. -/
  core   : Core := {}
  /-- The other cores of started contexts, by rising id. -/
  others : List Core := []
  /-- Cores of pre-empted contexts, as their saves hold them (R322). -/
  saved  : List Core := []
  /-- MIX0..MIX6 (R345). -/
  mix    : Vector Dword 7 := Vector.replicate 7 0
  pkgid  : BitVec 13 := 0
  /-- Stage memory, HBM4E and second tier: byte o of BF die b under key capacity × b + o. -/
  stage  : Memory := []
  hbm    : Memory := []
  tier2  : Memory := []
  /-- Gather table SRAM, under 2^27 × site + offset. -/
  gsram  : Memory := []
  /-- Die-shared shares, under 2^24 × (64 × context + site) + offset. -/
  dsh    : Memory := []
  planes : List PlaneCell := []
  ctxs   : List Context := []
  flights : List Flight := []
  /-- Residue beats already used in this cycle, by link direction 32 × site + code; 2048 × (1 + core id) on top for a core's own
  slots (R286, R293). -/
  beats  : Store Nat := []
  /-- Plane swaps that have been fixed and not made: context, region, site of its memory, global cycle (R149). -/
  swaps  : List (CtxId × Nat × Nat × Nat) := []
  /-- The memories in which a plane swap has been made in this cycle: of die-shared scratch or not, and its site or home (R350). -/
  swapped : List (Bool × Nat) := []
  host   : HostUnit := {}
  dev    : DevUnit := {}
  power  : PowerUnit := {}
  /-- Poisoned words (R351), and corrected words waiting for their write-back (R350). -/
  poison : List EccLoc := []
  wback  : List (EccLoc × Dword) := []
  /-- Partition keys that are revoked (R298). -/
  revoked : List (BitVec 16) := []
  /-- Answers sent to requests of other packages (R298), oldest first. -/
  answers : List PodAns := []
  /-- A partner package holds the POD barriers (R328). -/
  podHold : Bool := false
  /-- POD barriers whose packages have all reported (R139): context and scope instance. -/
  podDone : List (CtxId × Bool × BitVec 6) := []
  /-- Reports of the pod that reach the package from outside, each for the instance that it names, in their order: every exchange of the
  agenda brings in the next one (R139). -/
  podIn : List (CtxId × Bool × BitVec 6) := []
  /-- Events and messages that reach the package from outside, each with the global cycle between which and the one before it comes,
  in order; and whether the package stands between two global cycles (R355). -/
  agenda : List (Nat × Instr) := []
  fresh  : Bool := true
  /-- What takes effect at the end of this cycle, in its order. -/
  atWrap : List CycleEff := []
  /-- Requests that have left for other packages: the CL die's site, its port, the core and the package (R296). -/
  fabric : List (Nat × Nat × CoreId × BitVec 13) := []
  /-- MODEL'S OWN: counts the free values taken. -/
  free   : Nat := 0
  deriving DecidableEq, Repr

/-- Why the machine stops. No meaning of this model raises a fault: every exception the manual describes is taken, and ends
in a next state. -/
inductive Fault where
  /-- Raised by nobody; a closed type needs a name. Safe. -/
  | none
  deriving DecidableEq, Repr

/-- Why a step has no meaning. -/
inductive Refusal where
  /-- The instruction has no meaning yet. Raised by an arm of Dispatch.lean. Safe. -/
  | notModelled (mnemonic : String)
  deriving DecidableEq, Repr

/-- The machine right after reset: no context resident, memories blank, the module still to be booted (R342). The registers
of the focus core stand at their context-start values (R75, R311, Tables 9-1 and 12-1). DESIGN CHOICE where the manual gives a value
only for context start or for boot (log entries 1 and 2). -/
def State.reset : State := {
  core := { ctl := { g := (Vector.replicate 32 0).setIfInBounds 2 0x400000 }, spr := { splb := 0x400000 } } }

end Sys2Proof.Machine
end

