-- ==== Sys2Proof/Machine/Ops.lean ====
section
/-! DEFINITION. Ops.lean: the named operations over a core: registers, engines, issue, waits, traps, handles. -/
namespace Sys2Proof.Machine
open Sys2Proof.Config (DieType siteType)

/-- The outcomes of a step. -/
abbrev Out := Host.Outcome State Fault Refusal

/-! ### Cores and engines -/

/-- The site of a core (R11). -/
def Core.site (c : Core) : Nat := c.id.toNat / 16
/-- The die of a core. -/
def Core.die (c : Core) : DieType := siteType c.site
/-- Whether engine e is present on the core's die (R9). -/
def Core.has (c : Core) (e : Nat) : Bool := c.die.hasEngine e
/-- The engines present, in ascending number. -/
def Core.engines (c : Core) : List Nat := (List.range 7).filter c.has
/-- Local scratch size in bytes (Table 1-6). -/
def Core.size (c : Core) : Nat := c.die.scratch

/-- Engine e of a core. -/
def Core.engOf (c : Core) (e : Nat) : Engine := c.eng.getD e {}
/-- Replace engine e. -/
def Core.setEng (c : Core) (e : Nat) (x : Engine) : Core := { c with eng := c.eng.setIfInBounds e x }
/-- Change engine e. -/
def Core.modEng (c : Core) (e : Nat) (f : Engine → Engine) : Core := c.setEng e (f (c.engOf e))

/-- Change the core that moves. -/
def State.mapCore (s : State) (f : Core → Core) : State := { s with core := f s.core }
/-- A core by its id. -/
def State.coreAt (s : State) (k : CoreId) : Option Core :=
  if s.core.id = k then some s.core else s.others.find? fun x => x.id == k
/-- Change the core of an id. -/
def State.modCore (s : State) (k : CoreId) (f : Core → Core) : State :=
  if s.core.id = k then { s with core := f s.core }
  else { s with others := s.others.map fun x => if x.id == k then f x else x }
/-- Act for the core of an id that owns what an answer is for: one of a pre-empted context (R322), else the running one. -/
def State.forOwner (s : State) (k : CoreId) (owns : Core → Bool) (f : State → State) : State :=
  match s.saved.find? fun c => c.id == k && owns c with
  | some c =>
    let t := f { s with core := c, others := [] }
    { t with core := s.core, others := s.others, saved := s.saved.map fun x => if x.id == k && owns x then t.core else x }
  | none => f s
/-- Change every core of a context. -/
def State.modCtxCores (s : State) (x : CtxId) (f : Core → Core) : State :=
  { s with core := if s.core.live && s.core.ctx == x then f s.core else s.core,
           others := s.others.map fun c => if c.live && c.ctx == x then f c else c }
/-- All cores of started contexts. -/
def State.allCores (s : State) : List Core := s.core :: s.others
/-- A context by its id. -/
def State.ctxOf (s : State) (x : CtxId) : Option Context := s.ctxs.find? fun y => y.id == x
/-- Change a context. -/
def State.modCtx (s : State) (x : CtxId) (f : Context → Context) : State :=
  { s with ctxs := s.ctxs.map fun y => if y.id == x then f y else y }
/-- The context of the core that moves. -/
def State.ctx (s : State) : Option Context := s.ctxOf s.core.ctx

/-! ### General registers (R30, R36, R75, R76) -/

/-- A general register: g0 reads zero. -/
def Core.g (c : Core) (r : GReg) : Dword := if r = 0 then 0 else c.ctl.g.getD r.toNat 0
/-- df of a general register: that of g0 is clear. -/
def Core.df (c : Core) (r : GReg) : Bool := r != 0 && c.ctl.df.getLsbD r.toNat
/-- Set or clear one bit of a vector. -/
def putBit {n : Nat} (x : BitVec n) (i : Nat) (b : Bool) : BitVec n :=
  if b then x ||| BitVec.ofNat n (2 ^ i) else x &&& ~~~BitVec.ofNat n (2 ^ i)
/-- The earliest logged value that a word at position p may still read (R36). -/
def Core.logged (c : Core) (p : Nat) (r : GReg) : Option LogEntry :=
  c.ctl.log.find? fun x => x.reg == r && decide (p ≤ x.pos)
/-- A register as engine e reads it at the word it stands at (R36). -/
def Core.rd (c : Core) (e : Nat) (r : GReg) : Dword :=
  if r = 0 then 0 else if e = 0 then c.g r else
    match c.logged (c.engOf e).pos r with
    | some x => x.val
    | none => c.g r
/-- df of a register as engine e reads it (R36). -/
def Core.rdDf (c : Core) (e : Nat) (r : GReg) : Bool :=
  if r = 0 then false else if e = 0 then c.df r else
    match c.logged (c.engOf e).pos r with
    | some x => x.df
    | none => c.df r
/-- The tag of the load a register waits for. -/
def Core.pendTag (c : Core) (r : GReg) : Option Nat := (c.ctl.pend.find? fun x => x.1 == r).map Prod.snd
/-- Whether a fault after issue can still put an engine back at its latest own word, which then reads its registers once more: a gather, a
grouped-value row, a drain, a transpose or a fault of MTX under way, the member table of a CGRP (R306, R308). -/
def Core.mayReturn (c : Core) (e : Nat) : Bool :=
  (e == 5 && c.gjob.isSome) ||
  (e == 1 && (c.mtx.gvp.isSome || c.mtx.trn.isSome || c.mtx.job.any fun j => !j.auto_)) ||
  c.fly.any fun o => o.eng == e && o.pos == (c.engOf e).lastPos && (match o.eff with
    | .fault _ _ => e == 1
    | .members _ _ _ _ => true
    | _ => false)
/-- The lowest position at which an engine can still read (R36). -/
def Core.readsFrom (c : Core) (e : Nat) : Nat :=
  if c.mayReturn e then min (c.engOf e).lastPos (c.engOf e).pos else (c.engOf e).pos
/-- The lowest position at which another engine that has not reached EXIT can still read: no read of an older value comes from below. -/
def Core.trail (c : Core) : Option Nat :=
  ((c.engines.filter fun e => e != 0 && !(c.engOf e).exited).map c.readsFrom).min?
/-- The log entries that some engine may still read. -/
def Core.liveLog (c : Core) : List LogEntry :=
  match c.trail with
  | none => []
  | some p => c.ctl.log.filter fun x => decide (p ≤ x.pos)
/-- The last position at which a word reads the value that CTL overwrites now: before CTL's own word, or at trap level at the
word that CTL stands at (R36, R314). -/
def Core.logPos (c : Core) : Nat := if c.trap.tl then (c.engOf 0).pos else (c.engOf 0).pos - 1
/-- Whether the write log already holds the value of a register from before CTL's word: no engine can read a value between two
writes at one position. -/
def Core.loggedHere (c : Core) (r : GReg) : Bool := c.ctl.log.any fun x => x.reg == r && decide (x.pos = c.logPos)
/-- Whether the write log has room for n more entries (R36). -/
def Core.logRoom (c : Core) (n : Nat) : Bool := decide (c.liveLog.length + n ≤ 32)
/-- Write a general register at CTL's position; the overwritten value enters the log. A write to g0 is discarded. -/
def Core.writeG (c : Core) (r : GReg) (v : Dword) (m : Bool) (rdy : Nat) : Core :=
  if r = 0 then c else
    { c with ctl := { c.ctl with
        g := c.ctl.g.setIfInBounds r.toNat v
        df := putBit c.ctl.df r.toNat m
        ready := c.ctl.ready.setIfInBounds r.toNat rdy
        pend := c.ctl.pend.filter fun x => x.1 != r
        log := if c.loggedHere r then c.liveLog else
          c.liveLog ++ [{ reg := r, val := c.g r, df := c.df r, pos := c.logPos, tag := c.pendTag r }] } }
/-- A load leaves for memory: its register waits for the answer under a tag, and its df is cleared as the word issues (R76; DEDUCED,
log entry 68). -/
def Core.awaitG (c : Core) (r : GReg) : Core :=
  if r = 0 then c else
    let c1 := c.writeG r (c.g r) false c.now
    { c1 with ctl := { c1.ctl with pend := c1.ctl.pend ++ [(r, c.ctl.tags)] } }
/-- Take the next tag. -/
def Core.nextTag (c : Core) : Core := { c with ctl := { c.ctl with tags := c.ctl.tags + 1 } }
/-- A load that was under way when a checkpoint was taken has returned (R326). -/
def Ckpt.fill (k : Ckpt) (r : GReg) (tag : Nat) (v : Dword) (m : Bool) : Ckpt :=
  if k.pend.contains (r, tag) then
    { k with g := k.g.setIfInBounds r.toNat v, df := if m then putBit k.df r.toNat true else k.df
             pend := k.pend.filter fun x => x != (r, tag) }
  else k
/-- The answer of a load: it goes to the register while the register still waits for it, to the log where a later word has
overwritten the register, and to the checkpoint. It marks the register where m is set (R106), and clears no mark: that was done as the
word issued, and DFMASK may have been written since (R77). -/
def Core.fillG (c : Core) (r : GReg) (tag : Nat) (v : Dword) (m : Bool) (rdy : Nat) : Core :=
  let hit := c.ctl.pend.contains (r, tag)
  { c with
    ckpt := c.ckpt.map fun k => k.fill r tag v m
    ctl := { c.ctl with
      g := if hit then c.ctl.g.setIfInBounds r.toNat v else c.ctl.g
      df := if hit && m then putBit c.ctl.df r.toNat true else c.ctl.df
      ready := if hit then c.ctl.ready.setIfInBounds r.toNat rdy else c.ctl.ready
      pend := c.ctl.pend.filter fun x => x != (r, tag)
      log := c.ctl.log.map fun x => if x.reg == r && x.tag == some tag then { x with val := v, df := x.df || m, tag := none } else x
      retq := c.ctl.retq.map fun x => if x.tag == some tag then { x with tag := none, due := max x.due rdy } else x }
    trap := if c.trap.tscrTag == some tag then { c.trap with tscr := v, tscrTag := none } else c.trap }

/-! ### Effects that are due (R143) -/

/-- Add an effect of engine e, due n cycles from now. -/
def Core.later (c : Core) (e n : Nat) (eff : LocalEff) : Core :=
  { c with fly := c.fly ++ [{ due := c.now + n, eng := e, pos := (c.engOf e).pos, eff := eff }] }
/-- Add an effect of a word at position p. -/
def Core.laterAt (c : Core) (e p n : Nat) (eff : LocalEff) : Core :=
  { c with fly := c.fly ++ [{ due := c.now + n, eng := e, pos := p, eff := eff }] }

/-! ### Timetable, issue and waits (R32, R71 to R73, R128 to R133) -/

/-- The gap of the word engine e stands at (R128). -/
def Core.gap (c : Core) (e : Nat) : Nat := 1 + Store.get 0 (c.tt.getD e {}).gaps (c.engOf e).pc.toNat
/-- The scheduled cycle of the own word engine e stands at (R128). -/
def Core.schedOf (c : Core) (e : Nat) : Nat :=
  if (c.engOf e).redo then (c.engOf e).sched
  else if (c.engOf e).started then (c.engOf e).sched + c.gap e else (c.tt.getD e {}).start + (c.engOf e).sched
/-- CTL's handler words are unscheduled (R133). -/
def Core.unscheduled (c : Core) (e : Nat) : Bool := e == 0 && c.trap.tl
/-- Lateness of a word that issues now (R129), without the cycles of a debug-hold (R329); a store to a FAULT-rule region counts
from `slack` on. -/
def Core.lateness (c : Core) (e slack : Nat) : Nat := c.now - (c.schedOf e + slack + (c.engOf e).excuse)

/-- The cycle in which an engine came to the word it stands at: after an own word, a taken outcome or its eighth word of a cycle it can
come to no further word before the next one (R32, R40). -/
def Engine.reached (x : Engine) : Nat := max x.came x.passAt
/-- Engine e goes on to the word at pc'. -/
def Core.goTo (c : Core) (e : Nat) (pc' : TextAddr) : Core :=
  c.modEng e fun x => { x with pc := pc', pos := if c.unscheduled e then x.pos else x.pos + 1, came := c.now }
/-- An own word of engine e issues now, at an issue cost and a draw; wait and passing counters start again. `late` is
its lateness. -/
def Core.issueAs (c : Core) (e cost draw late : Nat) : Core :=
  c.modEng e fun x => { x with
    started := if c.unscheduled e then x.started else true
    sched := if c.unscheduled e then x.sched else c.schedOf e
    lateMax := if c.unscheduled e then x.lateMax else max x.lateMax (min late 65535)
    lastPos := x.pos, lastPc := x.pc, eaten := [], redo := false, excuse := 0
    freeAt := c.now + cost, passAt := c.now + 1, passed := 0, wait := 0, draw := draw }
/-- An own word of engine e issues and the engine goes on to the next word. -/
def Core.issue (c : Core) (e cost draw : Nat) : Core :=
  (c.issueAs e cost draw (c.lateness e 0)).goTo e ((c.engOf e).pc + 1)
/-- Engine e stands again at its latest own word, which faults after issue: it will issue whole once more (R306). -/
def Core.rewind (c : Core) (e : Nat) : Core :=
  c.modEng e fun x => { x with
    pc := x.lastPc, pos := x.lastPos, outcomes := x.eaten ++ x.outcomes, eaten := [], redo := true, freeAt := c.now + 1
    wasAt := x.pos }
/-- A CTL word enters the retire queue (R73). A handler's word enters it at the position of EPC0's word, so that an engine ahead waits for
its result, and posts no outcome (R314). -/
def Core.toRetire (c : Core) (due : Nat) (tag : Option Nat) (outc : Option Outc) : Core :=
  { c with ctl := { c.ctl with retq := c.ctl.retq ++
      [{ pos := (c.engOf 0).pos, due := due, tag := tag, outc := if c.trap.tl then none else outc }] } }
/-- The head of the retire queue is a FENCE.M that has issued: no word behind it stands at its position, as it does behind a handler's word
that was issued there before the fence (R73, R151, R314). -/
def CtlUnit.fenceHead (u : CtlUnit) : Bool :=
  match u.fence, u.retq with
  | some f, r :: t => r.pos == f.2 && t.all fun x => x.pos != f.2
  | _, _ => false
/-- A CTL word of cost 1 issues, its result ready at `rdy`, and CTL goes on to the next word. -/
def Core.issueCtl (c : Core) (rdy : Nat) : Core := (c.toRetire rdy none none).issue 0 1 60

/-- Engine e waits at its word; the code is kept for a deviation trap (R130). -/
def Core.noteWait (c : Core) (e : Nat) (code : Byte) : Core := c.modEng e fun x => { x with wait := code }
/-- The machine goes on to s. -/
def ok (s : State) : Out := .next s
/-- Engine e waits under a code of Table 6-2. -/
def waitAt (s : State) (e : Nat) (code : Byte) : Out := .next (s.mapCore fun c => c.noteWait e code)

/-! ### Traps (R311 to R316, R337) -/

/-- The mode and the address of the handler of a cause (R313): true is supervisor. -/
def TrapUnit.handler (t : TrapUnit) (cause : Byte) : Bool × TextAddr :=
  if t.tdeleg.getLsbD cause.toNat && t.uvec != 0 then (false, t.uvec) else (true, t.svec)
/-- Swap g31 and TSCR (R313, R337). A load still under way to g31 goes with the value. -/
def Core.swapScr (c : Core) : Core :=
  let c1 := c.writeG 31 c.trap.tscr (c.df 31) c.now
  { c1 with
    ctl := { c1.ctl with pend := c1.ctl.pend ++ (match c.trap.tscrTag with
      | some t => [(31, t)]
      | none => []) }
    trap := { c1.trap with tscr := c.g 31, tscrTag := c.pendTag 31 } }
/-- LASTCAUSE of the raising engine (Table 4-7); a failed ALL word (engine 7) records none. -/
def Core.noteCause (c : Core) (eng : BitVec 3) (cause : Byte) : Core :=
  c.modEng eng.toNat fun x => { x with lastCause := cause }
/-- EPCn of the engines as they stand stopped (R313). -/
def Core.epcNow (c : Core) : Vector TextAddr 8 × BitVec 8 :=
  let p : Vector TextAddr 8 := Vector.ofFn fun n =>
    if n.val = 0 then (c.engOf 0).pc else
      match (c.engOf n.val).stop with
      | some x => x.pc
      | none => c.trap.epc.getD n.val 0
  (p, (List.range 7).foldl (fun b n => putBit b n (n == 0 || (c.engOf n).stop.isSome)) (0 : BitVec 8))
/-- CTL moves past the words of other engines to its next own word, or to a word whose engine is absent (R313). -/
def Core.toOwn (c : Core) : Nat → Core
  | 0 => c
  | n + 1 =>
    let e := engField (Store.get 0 c.text (c.engOf 0).pc.toNat)
    if e = 0 ∨ e = 7 ∨ !c.has e.toNat then c
    else (c.modEng 0 fun x => { x with pc := x.pc + 1, pos := x.pos + 1 }).toOwn n
/-- TRAP ENTRY: a handler is entered for a cause at the end of cycle E (R313). Its first word issues at E + 1 at the
earliest. An EXIT that CTL had reached is still to be done, at its own schedule (R152). -/
def Core.enterTrap (c : Core) (cause : Byte) (eng : BitVec 3) (async : Bool) (eval : Dword) (cycE : Nat) : Core :=
  let h := c.trap.handler cause
  let p := c.epcNow
  let c1 := { c with
    trap := { c.trap with
      cause := cause, ceng := eng, async := async, eval := eval, epc := p.1, stopped := p.2, stopPc := (c.engOf 0).pc
      pmode := c.trap.mode, tl := true, mode := h.1, entry := cycE, snapAt := cycE }
    ctl := { c.ctl with claim := none }
    spr := { c.spr with preq := false, granted := false, req := c.spr.level } }
  c1.swapScr.modEng 0 fun x => { x with
    pc := h.2, exited := false, redo := x.redo || x.exited, passAt := cycE + 1, passed := 0, wait := 0, freeAt := min x.freeAt (cycE + 1) }
/-- A synchronous fault of CTL at its word: a trap, or at trap level a nested trap, which asks for the kill of the
context (R315). -/
def Core.trapCtl (c : Core) (cause : Byte) (eng : BitVec 3) (eval : Dword) : Core :=
  let c1 := c.noteCause eng cause
  if c.trap.tl then { c1 with dying := true, nested := some (cause, eng, eval) }
  else c1.enterTrap cause eng false eval (c.now + 1)
/-- Another engine stops at its word (R39, R313). A trap whose entry is not over takes its EPC as well. An engine that waits at an ALL
word that failed decode counts as stopped from the cycle it came there, and the trap that runs meanwhile holds it with the others, so
that its SRET lets it go on (R40, R133). -/
def Core.stopEng (c : Core) (e : Nat) (cause : Byte) (eng : BitVec 3) (eval : Dword) (waits : Bool) : Core :=
  let c1 := (if waits then c else c.noteCause eng cause).modEng e fun x => { x with
    stop := some { cause := cause, eng := eng, eval := eval, pc := x.pc, cycle := if waits then x.reached else c.now, taken := waits, waits := waits } }
  if c.trap.tl && (waits || decide (c.now ≤ c.trap.snapAt)) then
    { c1 with trap := { c1.trap with
      epc := c1.trap.epc.setIfInBounds e (c.engOf e).pc, stopped := putBit c1.trap.stopped e true } }
  else c1
/-- A synchronous fault of engine e at its word. -/
def Core.raise (c : Core) (e : Nat) (cause : Byte) (eval : Dword) : Core :=
  if e = 0 then c.trapCtl cause 0 eval else c.stopEng e cause (BitVec.ofNat 3 e) eval false
/-- An asynchronous cause becomes pending; a repeat merges with the first (R313). -/
def Core.post (c : Core) (cause : Byte) (eng : BitVec 3) (eval : Dword) : Core :=
  let c1 := c.noteCause eng cause
  if c.trap.pend.any fun x => x.cause == cause then c1
  else { c1 with trap := { c1.trap with
    pend := c1.trap.pend ++ [{ cause := cause, eng := eng, eval := eval, cycle := c.now }] } }

/-- The pending synchronous fault of the lowest-numbered stopped engine, raised before this cycle. -/
def Core.stopDue (c : Core) : Option (Nat × Stop) :=
  (List.range 7).findSome? fun e =>
    match (c.engOf e).stop with
    | some x => if !x.taken && decide (x.cycle < c.now) then some (e, x) else none
    | none => none
/-- The pending asynchronous cause with the lowest code, raised before this cycle. -/
def Core.asyncDue (c : Core) : Option PendCause :=
  (c.trap.pend.filter fun x => decide (x.cycle < c.now)).foldl (fun a x =>
    match a with
    | none => some x
    | some y => if x.cause < y.cause then some x else some y) none
/-- Whether CTL stands at an instruction boundary (R313): not at a cleat after arriving, not held by a WEV. -/
def Core.atBoundary (c : Core) : Bool := c.bar.isNone && !(c.engOf 0).held
/-- A cause that CTL can take now at TL = 0. -/
def Core.trapDue (c : Core) : Bool :=
  !c.trap.tl && c.atBoundary && (c.stopDue.isSome || c.asyncDue.isSome)
/-- Choose the pending cause that is taken, and mark it taken (R313). -/
def Core.chooseCause (c : Core) : Option (Core × Byte × BitVec 3 × Bool × Dword) :=
  match c.stopDue with
  | some (e, x) => some (c.modEng e fun y => { y with stop := some { x with taken := true } }, x.cause, x.eng, false, x.eval)
  | none =>
    match c.asyncDue with
    | some x => some ({ c with trap := { c.trap with pend := c.trap.pend.filter fun y => y.cause != x.cause } },
        x.cause, x.eng, true, x.eval)
    | none => none

/-- EVAL of a decode fault (Table 2-7). -/
def decodeEval (w : Word) (reason : Nat) (eng : BitVec 3) : Dword := dw (w.toNat + reason * 2 ^ 32 + eng.toNat * 2 ^ 36)
/-- A word that fails a decode check (R38 to R41): cause 0x02 is raised by CTL; a failed ALL word is raised by CTL as
engine 7, and another engine that reaches it stops and waits, unless CTL has gone past it; any other fault is raised by the word's engine. Cause 0x03
has no detail in the manual: a free value. -/
def decodeTrap (s : State) (w : Word) (cause : Byte) (reason : Nat) : Out :=
  let e := engField w
  let c := s.core
  let ev := if cause = 3 then Config.freeEval c.free else decodeEval w reason e
  let c1 := if cause = 3 then { c with free := c.free + 1 } else c
  .next { s with core :=
    if cause = 2 then c1.trapCtl 2 0 ev
    else if e = 7 then
      if c.turn = 0 then c1.trapCtl cause 7 ev
      else if (c.engOf c.turn.toNat).pos < (c.engOf 0).pos then c.issue c.turn.toNat 1 0
      else c.stopEng c.turn.toNat cause 7 ev true
    else c1.raise e.toNat cause ev }

/-- A synchronous fault of engine e of the core that moves. -/
def trapAt (s : State) (e : Nat) (cause : Byte) (eval : Dword) : Out := .next (s.mapCore fun c => c.raise e cause eval)
/-- EVAL of a deferred-fault use (R77). -/
def markEval (e : Nat) (r : GReg) : Dword := dw (r.toNat + e * 256)
/-- The first marked register of a list, as engine e reads them (R77). Of several marked registers of a word the manual does not say which
EVAL names: the first in operand order, the base before the rest (DESIGN CHOICE, log entry 84). -/
def Core.firstMarked (c : Core) (e : Nat) (rs : List GReg) : Option GReg := rs.find? fun r => c.rdDf e r

/-! ### Power (R331) -/

/-- An MGO or MGVR runs: it is in progress, and MTX does not stand stopped at it. -/
def Core.mgoRuns (c : Core) : Bool := (c.mtx.prog.map fun p => !p.held).getD false
def Core.gvrRuns (c : Core) : Bool := (c.mtx.gvp.map fun p => !p.held).getD false
def Core.mtxRuns (c : Core) : Bool := c.mgoRuns || c.gvrRuns
/-- Draw of the core's active operations at the end of cycle t, in mA (Table 14-10). -/
def Core.drawAt (c : Core) (t : Nat) : Nat :=
  (c.eng.toList.map fun x => if t < x.freeAt then x.draw else 0).sum
  + (if c.gjob.isSome then 400 else 0)
  + 250 * (c.chan.toList.filter fun x => x.state == .busy).length
  + 150 * ((c.lnk.podq.filter fun p => p.eng == 4).length + c.lnk.sends.length)
  + 300 * c.colls.length
  + (if c.mgoRuns then 3600 else if c.gvrRuns then 1200 else 0)
/-- EVAL of a power excess (R331). -/
def powerEval (e draw : Nat) (level : BitVec 4) : Dword := dw (draw % 2 ^ 24 + level.toNat * 2 ^ 24 + e * 2 ^ 28)
/-- The power check of a word whose issue raises the draw by `cost` (R331): none, or the draw it would have made. A word that draws
nothing raises nothing. -/
def Core.excess (c : Core) (cost : Nat) : Option Nat :=
  if 0 < cost ∧ c.drawAt c.now + cost > 500 * c.spr.level.toNat then some (c.drawAt c.now + cost) else none

/-! ### Handles (R93 to R99) -/

/-- A handle. -/
def Core.hnd (c : Core) (h : HReg) : Handle := c.handles.getD h.toNat {}
/-- Replace a handle. -/
def Core.setHnd (c : Core) (h : HReg) (x : Handle) : Core := { c with handles := c.handles.setIfInBounds h.toNat x }
/-- COUNT of a handle. -/
def Handle.count (x : Handle) : Nat := x.cntm1.toNat + 1
/-- SLOT of a handle, in bytes. -/
def Handle.slot (x : Handle) : Nat := 2 ^ (x.lsz.toNat + 6)
/-- FREE of a handle (R93). -/
def Handle.free (x : Handle) : Nat := x.count - x.fill
/-- EVAL of a handle fault (R95). -/
def handleEval (h : HReg) (kind : Nat) : Dword := dw (h.toNat + kind * 16 + 0xFF * 2 ^ 56)
/-- The handle fault of an operand h:w (R94), if any. -/
def Core.handleFault (c : Core) (h : HReg) (w : Nat) : Option Dword :=
  if !(c.hnd h).defined then some (handleEval h 1)
  else if w > (c.hnd h).count then some (handleEval h 2) else none
/-- Release w filled slots, or those there are (R96, R98). -/
def Handle.release (x : Handle) (w : Nat) : Handle :=
  { x with fill := x.fill - w, cidx := if w ≤ x.fill then (x.cidx + w) % x.count else x.pidx }
/-- Commit w free slots (R98). -/
def Handle.commit (x : Handle) (w : Nat) : Handle :=
  { x with fill := x.fill + w, pidx := (x.pidx + w) % x.count }
/-- EVAL of a ring overrun (R96). -/
def overrunEval (k : CoreId) (h : HReg) (own : Bool) : Dword := dw (k.toNat + h.toNat * 1024 + bit own * 16384)
/-- The byte address of a slot, counted from an index (R93). -/
def Handle.slotAt (x : Handle) (i : Nat) : Nat := x.base.toNat + (i % x.count) * x.slot
/-- Something takes effect at the end of the cycle. -/
def Core.atEnd (c : Core) (x : Eoc) : Core := { c with eoc := c.eoc ++ [x] }
/-- The turn of an effect at the end of the cycle: HDEF, releases by engine, commits by engine, arrivals by sender, then
the rest (R96). -/
def Eoc.rank : Eoc → Nat
  | .hdef _ _ _ _ => 0
  | .release e _ _ => 1 + e
  | .commit e _ _ => 10 + e
  | .arrive k _ _ _ => 20 + k.toNat
  | _ => 2000
/-- The effect whose turn comes first, and the others. -/
def firstEoc : List Eoc → Option (Eoc × List Eoc)
  | [] => none
  | x :: t =>
    match firstEoc t with
    | none => some (x, [])
    | some (y, r) => if x.rank ≤ y.rank then some (x, t) else some (y, x :: r)
/-- Whether a ring can take a push of n bytes (R290). -/
def Handle.takes (x : Handle) (n : Nat) : Bool := x.defined && decide (1 ≤ x.free) && decide (n ≤ x.slot)
/-- What stood where a push has put its bytes early comes back. -/
def Core.putBack (c : Core) : Option (Nat × List Byte) → Core
  | some (a, was) => { c with scratch := c.scratch.writeBytes a was }
  | none => c
/-- The pushes into a ring that wait for their turn leave the slots they stand in, the last one first. -/
def Core.lift (c : Core) (h : HReg) : Core :=
  { c.eoc.foldr (fun x d => match x with
      | .arrive _ g _ old => if g = h then d.putBack old else d
      | _ => d) c with
    eoc := c.eoc.map fun x => match x with
      | .arrive k g bs old => .arrive k g bs (if g = h then none else old)
      | x => x }
/-- A change of a ring, or of the power level, takes effect (R96 to R98, R290, R340). A commit or an arrival that finds too
few free slots is a ring overrun and is discarded. A push whose bytes stand in its slot since they performed keeps them there. Where it
is an overrun after all, or its slot is another one by the end of the cycle, what stood there comes back, for every push of the cycle into
that ring that still waits for its turn, before any byte is placed anew (DEDUCED, log entry 94). The
release or commit of an operation that was in flight at an HDEF of its ring acts on the new ring: the manual says of the
operation's geometry alone that it is the old one (DESIGN CHOICE, log entry 95). -/
def Core.applyEoc (c : Core) : Eoc → Core
  | .event _ => c
  | .level n => { c with spr := { c.spr with level := n, req := if c.spr.preq then c.spr.req else n } }
  | .lateReset e => c.modEng e fun x => { x with lateMax := 0 }
  | .fqPush v => { c with mtx := { c.mtx with fq := c.mtx.fq ++ [v] } }
  | .fqPop => { c with mtx := { c.mtx with fq := c.mtx.fq.drop 1, fqHead := c.mtx.fqHead + 1 } }
  | .hdef h b l n => c.setHnd h { defined := true, base := b, lsz := l, cntm1 := n, fill := 0, pidx := 0, cidx := 0 }
  | .release _ h w => c.setHnd h ((c.hnd h).release w)
  | .commit e h w =>
    if w ≤ (c.hnd h).free then c.setHnd h ((c.hnd h).commit w)
    else c.post 0x14 (BitVec.ofNat 3 e) (overrunEval c.id h true)
  | .arrive k h bs old =>
    let x := c.hnd h
    let at_ := x.slotAt x.pidx
    let c1 := (c.lift h).putBack old
    if x.takes bs.length then
      if old.any fun o => o.1 == at_ then c.setHnd h (x.commit 1)
      else { c1 with scratch := c1.scratch.writeBytes at_ bs }.setHnd h (x.commit 1)
    else c1.post 0x14 4 (overrunEval k h false)

end Sys2Proof.Machine
end

