-- ==== Sys2Proof/Machine/Mem.lean ====
section
/-! DEFINITION. Mem.lean: windows, translation, access checks, planes, routes and the performing of accesses (chapter 5,
R285 to R293). -/
namespace Sys2Proof.Machine
open Sys2Proof.Config (DieType siteType)

/-- A page of R111, in bytes. -/
def pageBytes : Nat := 2097152

/-- The storage behind an address: a key of the memory it lies in, and the home BF die of a translated one. -/
inductive Place where
  | scratch (key : Nat)
  | wstack (key : Nat)
  | shared (key : Nat)
  | stage (home : Nat) (key : Nat)
  | hbm (home : Nat) (key : Nat)
  | tier2 (home : Nat) (key : Nat)
  | pod (pkg : Nat) (remote : Dword)
  deriving DecidableEq, Repr

/-- The entry that contains an address (R103). -/
def Context.entryAt (x : Context) (a : Nat) : Option TransEntry :=
  x.trans.find? fun e => decide (e.vbase.toNat ≤ a) && decide (a < e.vbase.toNat + 2 ^ e.lsz)
/-- The virtual base of the page that holds an address of an entry (R111). -/
def TransEntry.pageOf (e : TransEntry) (a : Nat) : Nat :=
  e.vbase.toNat + (a - e.vbase.toNat) / pageBytes * pageBytes
/-- Home and offset of an address of a STAGE, HBM or TIER2 entry, where its page now lies (R111). -/
def Context.homeOf (x : Context) (e : TransEntry) (a : Nat) : Nat × Nat :=
  match x.pages.find? fun p => p.page == e.pageOf a with
  | some p => (p.home, p.off + (a - p.page))
  | none => (e.home, e.target.toNat + (a - e.vbase.toNat))
/-- Bytes of a page of an entry: one smaller than 2 MiB is one page (R111). -/
def TransEntry.pageLen (e : TransEntry) : Nat := min pageBytes (2 ^ e.lsz)
/-- Whether a page of the range is being moved (R111). -/
def Context.busyAt (x : Context) (a n : Nat) : Bool :=
  x.pages.any fun p => p.busy && decide (p.page < a + n) &&
    (x.entryAt p.page).any fun e => decide (a < p.page + e.pageLen)
/-- Storage of a translated address. -/
def Context.placeOf (x : Context) (e : TransEntry) (a : Nat) : Place :=
  let h := x.homeOf e a
  match e.cls with
  | 0 => .stage h.1 (Config.stageBytes * h.1 + h.2)
  | 1 => .hbm h.1 (Config.hbmBytes * h.1 + h.2)
  | 2 => .tier2 h.1 (Config.tier2Bytes * h.1 + h.2)
  | _ => .pod (e.target.toNat / 2 ^ 48)
      (dw (0x0001000000000000 + e.target.toNat % 2 ^ 48 + (a - e.vbase.toNat)))

/-- The context's share of a site's die-shared scratch, in bytes (R102, R104). -/
def Context.share (x : Context) (site : Nat) : Nat := ((x.shares.find? fun p => p.1 == site).map Prod.snd).getD 0
/-- The key of an offset of a share. -/
def sharedKey (x : CtxId) (site off : Nat) : Nat := 2 ^ 24 * (64 * x.toNat + site) + off

/-- The site of the CL die through which requests to a package leave (R296). -/
def clSite (pkg : Nat) : Nat := if pkg % 2 = 0 then 20 else 29
/-- The port of that CL die (R296). -/
def clPort (pkg : Nat) : Nat := pkg / 2 % 18
/-- Base of die-shared scratch. -/
def sharedBase : Nat := 0x100000000
/-- Base of the weight-stack window. -/
def wstackBase : Nat := 0x10000000
/-- Translated space (Table 5-1). -/
def isTranslated (a : Nat) : Bool := decide (0x0001000000000000 ≤ a) && decide (a < 0xFF00000000000000)

/-- Window and extent of an access of n bytes by a core, and translation (R100 to R103): the storage, and the entry of a
translated one. Weight-stack addresses are given; who may use them is the caller's check. -/
def State.locate (s : State) (c : Core) (a n : Nat) : Except Byte (Place × Option TransEntry) :=
  if a < 2 ^ 24 then (if a + n ≤ c.size then .ok (.scratch a, none) else .error 5)
  else if wstackBase ≤ a && decide (a + n ≤ wstackBase + Config.weightStackBytes) && c.die == .mx then
    .ok (.wstack (a - wstackBase), none)
  else if sharedBase ≤ a && decide (a < sharedBase + Config.dieSharedBytes) then
    match s.ctxOf c.ctx with
    | some x =>
      if c.die.hasShared && decide (a - sharedBase + n ≤ x.share c.site) then
        .ok (.shared (sharedKey c.ctx c.site (a - sharedBase)), none)
      else .error 5
    | none => .error 5
  else if isTranslated a then
    match s.ctxOf c.ctx with
    | some x =>
      match x.entryAt a with
      | some e => if a + n ≤ e.vbase.toNat + 2 ^ e.lsz then .ok (x.placeOf e a, some e) else .error 5
      | none => .error 6
    | none => .error 6
  else .error 5

/-- The end of the extent that an address stands in (R100 to R103), 0 where it stands in none. -/
def State.reach (s : State) (c : Core) (a : Nat) : Nat :=
  if a < 2 ^ 24 then c.size
  else if wstackBase ≤ a && decide (a < wstackBase + Config.weightStackBytes) then
    (if c.die == .mx then wstackBase + Config.weightStackBytes else 0)
  else match s.ctxOf c.ctx with
    | none => 0
    | some x =>
      if sharedBase ≤ a && decide (a < sharedBase + Config.dieSharedBytes) then
        (if c.die.hasShared then sharedBase + x.share c.site else 0)
      else match x.entryAt a with
        | some e => e.vbase.toNat + 2 ^ e.lsz
        | none => 0
/-- The lowest byte from a on that lies at or beyond an end: the byte that fails an extent check. -/
def failByte (a limit : Nat) : Dword := dw (max a limit)

/-! ### Planes (R112 to R117) -/

/-- Bytes of a planed element. -/
def PlaneDesc.elem (d : PlaneDesc) : Nat := if d.wide then 8 else 4
/-- Members of a step group (R12, R59). -/
def Context.members (x : Context) (g : BitVec 6) : List CoreId :=
  ((x.groups.find? fun y => y.id == g).map Group.members).getD []
/-- Whether a planed region holds an address at a site: a DSHARED region exists on the dies of its group's members. -/
def Context.planeHas (x : Context) (d : PlaneDesc) (site a : Nat) : Bool :=
  decide (d.vbase.toNat ≤ a) && decide (a < d.vbase.toNat + d.units * 65536) &&
  (!d.shared || (x.members d.group).any fun k => k.toNat / 16 == site)
/-- The planed region that holds an address, with its number. -/
def Context.planeAt (x : Context) (site a : Nat) : Option (Nat × PlaneDesc) :=
  (x.planes.zipIdx.find? fun p => x.planeHas p.1 site a).map fun p => (p.2, p.1)
/-- Whether a range meets a planed range. -/
def Context.planeMeets (x : Context) (site a n : Nat) : Bool :=
  x.planes.any fun d => decide (d.vbase.toNat < a + n) && decide (a < d.vbase.toNat + d.units * 65536) &&
    (!d.shared || (x.members d.group).any fun k => k.toNat / 16 == site)

/-- The lowest byte of n bytes from a on that lies in a planed range. -/
def Context.planedByte (x : Context) (site a n : Nat) : Dword :=
  dw (((x.planes.filter fun d => decide (d.vbase.toNat < a + n) && decide (a < d.vbase.toNat + d.units * 65536) &&
    (!d.shared || (x.members d.group).any fun k => k.toNat / 16 == site)).map fun d => max a d.vbase.toNat).min?.getD a)
/-- The written element of a region (R113), if it is written. -/
def State.cell (s : State) (x : CtxId) (reg site elem : Nat) : Option PlaneCell :=
  s.planes.find? fun y => y.ctx == x && y.reg == reg && y.site == site && y.elem == elem
/-- Put a cell. -/
def State.putCell (s : State) (y : PlaneCell) : State :=
  { s with planes := y :: s.planes.filter fun z => !(z.ctx == y.ctx && z.reg == y.reg && z.site == y.site && z.elem == y.elem) }
/-- MANY (R113). -/
def manyWriters : CoreId := 0x3FF

/-- add_ne of R114 (binary32, nearest even, no flush). -/
def addNe (x y : Dword) : Dword := (fadd 0 (x.setWidth 32) (y.setWidth 32)).setWidth 64
/-- The metadata after a store of v by core k performs at an element (R114). -/
def PlaneDesc.collision (d : PlaneDesc) (old : Option PlaneCell) (y : PlaneCell) (k : CoreId) (v : Dword) : PlaneCell :=
  match old with
  | none => { y with next := v, wr := k, coll := false, cl := false }
  | some o =>
    if o.wr = k then { o with next := v, cl := false }
    else
      match d.collide with
      | 0 => if k < o.wr then { o with next := v, wr := k, coll := true } else { o with coll := true }
      | 2 => { o with next := (o.next.setWidth 32 + v.setWidth 32).setWidth 64, wr := manyWriters, coll := true }
      | 3 => { o with next := o.next + v, wr := manyWriters, coll := true }
      | 4 => { o with next := addNe o.next v, wr := manyWriters, coll := true }
      | _ => { o with coll := true }
/-- A store to a planed element performs (R114). -/
def State.planeStore (s : State) (xid : CtxId) (k : CoreId) (a : Nat) (v : Dword) : State :=
  match s.ctxOf xid with
  | none => s
  | some x =>
    let site := k.toNat / 16
    match x.planeAt site a with
    | none => s
    | some (n, d) =>
      let st := if d.shared then site else 0
      let e := (a - d.vbase.toNat) / d.elem
      s.putCell (d.collision (s.cell xid n st e)
        { ctx := xid, reg := n, site := st, elem := e, next := 0, wr := k, coll := false, cl := false } k v)

/-! ### Reading and writing storage -/

/-- Read n bytes at a place; local places are those of core c. -/
def State.readAt (s : State) (c : Core) (p : Place) (n : Nat) : Nat :=
  match p with
  | .scratch k => c.scratch.readNat k n
  | .wstack k => c.wstack.readNat k n
  | .shared k => s.dsh.readNat k n
  | .stage _ k => s.stage.readNat k n
  | .hbm _ k => s.hbm.readNat k n
  | .tier2 _ k => s.tier2.readNat k n
  | .pod _ _ => 0
/-- Write n bytes at a place; local places are those of core k. -/
def State.writeAt (s : State) (k : CoreId) (p : Place) (n v : Nat) : State :=
  match p with
  | .scratch a => s.modCore k fun c => { c with scratch := c.scratch.writeNat a n v }
  | .wstack a => s.modCore k fun c => { c with wstack := c.wstack.writeNat a n v }
  | .shared a => { s with dsh := s.dsh.writeNat a n v }
  | .stage _ a => { s with stage := s.stage.writeNat a n v }
  | .hbm _ a => { s with hbm := s.hbm.writeNat a n v }
  | .tier2 _ a => { s with tier2 := s.tier2.writeNat a n v }
  | .pod _ _ => s
/-- Write bytes at a place. -/
def State.writeBytesAt (s : State) (k : CoreId) (p : Place) (bs : List Byte) : State := s.writeAt k p bs.length (ofBytes bs)

/-- wrap to w bytes and sign-extend. -/
def sextTo (n x : Nat) : Dword := wrap64 (signedNat (8 * n) x)
/-- The operation of Table 2-17 on w-byte values (R122). -/
def amoNew (op : BitVec 3) (n : Nat) (old x cmp : Nat) : Nat :=
  let a := signedNat (8 * n) old
  let b := signedNat (8 * n) x
  match op.toNat with
  | 0 => (old + x) % 2 ^ (8 * n)
  | 1 => x % 2 ^ (8 * n)
  | 2 => if a = signedNat (8 * n) cmp then x % 2 ^ (8 * n) else old
  | 3 => if a ≤ b then old else x % 2 ^ (8 * n)
  | 4 => if a ≤ b then x % 2 ^ (8 * n) else old
  | 5 => (old &&& x) % 2 ^ (8 * n)
  | 6 => (old ||| x) % 2 ^ (8 * n)
  | _ => (old ^^^ x) % 2 ^ (8 * n)
/-- Width of an atomic in bytes (R47). -/
def amoBytes (wide : Bool) : Nat := if wide then 8 else 4

/-- What LDO reads (R120): the core's own uncollided next value, or the present value. -/
def State.ownRead (s : State) (c : Core) (p : Place) (a : Nat) : Dword :=
  match (s.ctxOf c.ctx).bind fun x => x.planeAt c.site a with
  | none => 0
  | some (n, d) =>
    let pres := dw (s.readAt c p d.elem)
    match s.cell c.ctx n (if d.shared then c.site else 0) ((a - d.vbase.toNat) / d.elem) with
    | none => pres
    | some y => if y.wr = c.id && !y.coll && !y.cl then y.next else pres

/-! ### Access checks (R107) -/

/-- The kinds of CTL access. -/
inductive Acc where
  | load
  | own
  | store
  | amo
  deriving DecidableEq, Repr

/-- An access that passed its checks: the storage, the address after redirection, and whether a planed range holds it. -/
structure Access where
  place : Place
  addr  : Nat
  plane : Option PlaneDesc
  deriving DecidableEq, Repr

/-- Whether an address lies in the active overflow zone (R110). -/
def Core.redirects (c : Core) (a : Nat) : Bool :=
  c.spr.splsz != 0 && c.spr.ovfp != 0 && decide (c.spr.splb.toNat - 2 ^ 20 ≤ a) && decide (a < c.spr.splb.toNat)
/-- The address of an access after spill redirection (R110). -/
def Core.redirect (c : Core) (a : Dword) : Dword :=
  if c.redirects a.toNat then c.spr.ovfp - (dw (c.spr.splb.toNat - a.toNat)) else a
/-- The plane rule of an access of n bytes (R113, R120); the boolean says that it was redirected (R110). -/
def planeRule (x : Context) (k : CoreId) (d : Option PlaneDesc) (acc : Acc) (n : Nat) (red : Bool) : Bool :=
  match d with
  | none => acc != .own
  | some d =>
    !red && match acc with
      | .load => true
      | .own => true
      | .store => decide (n = d.elem) && (n == 4 || n == 8) && (x.members d.group).contains k
      | .amo => false
/-- Rights of an access (R103): bit 0 read, bit 1 write. -/
def Acc.rights : Acc → Nat
  | .load => 1
  | .own => 1
  | .store => 2
  | .amo => 3
/-- Steps 4 to 7 of Table 5-3 for a CTL access at an address that is aligned and redirected (R107). -/
def State.checkAt (s : State) (c : Core) (acc : Acc) (n : Nat) (red : Bool) (a : Nat) : Except Byte Access :=
  match s.locate c a n with
  | .error e => .error e
  | .ok (p, ent) =>
    match s.ctxOf c.ctx with
    | none => match p with
      | .scratch _ => if acc = .own then .error 9 else if red then .error 5 else .ok { place := p, addr := a, plane := none }
      | _ => .error 5
    | some x =>
      let d := (x.planeAt c.site a).map Prod.snd
      let classOk := match ent with
        | none => !red && (match p with
          | .wstack _ => false
          | _ => true)
        | some e => decide (e.perm &&& acc.rights = acc.rights) &&
          (e.cls == 0 || (e.cls == 3 && !red && n == 8 && (acc == .load || acc == .store)))
      if !classOk then .error 5
      else if planeRule x c.id d acc n red then .ok { place := p, addr := a, plane := d }
      else .error 9
/-- Element size for the alignment check of LDO (R120). -/
def State.ownSize (s : State) (c : Core) (a : Nat) : Nat :=
  match (s.ctxOf c.ctx).bind fun x => x.planeAt c.site a with
  | some (_, d) => d.elem
  | none => 4
/-- The checks of Table 5-3 from step 2 on: the access, or the cause and the address that failed (R107). -/
def State.checkAccess (s : State) (c : Core) (acc : Acc) (n : Nat) (a : Dword) : Except (Byte × Dword) Access :=
  if a.toNat % n ≠ 0 then .error (4, a)
  else
    match s.checkAt c acc n (c.redirects a.toNat) (c.redirect a).toNat with
    | .ok x => .ok x
    | .error e => .error (e, c.redirect a)

/-! ### Routes (R285, R288, R289) -/

/-- Where a link leads (Tables 13-1, 13-2). -/
def linkTo (site code : Nat) : Option Nat :=
  if site ≥ 50 then none
  else match code with
    | 0 => if site ≥ 10 then some (site - 10) else none
    | 1 => if site % 10 < 9 then some (site + 1) else none
    | 2 => if site < 40 then some (site + 10) else none
    | 3 => if site % 10 > 0 then some (site - 1) else none
    | _ =>
      if code < 16 then
        match Config.swSites.idxOf? site with
        | some k => ((Config.expressTargets.getD k []).getD (code - 4) 50 |> fun t => if t < 50 then some t else none)
        | none => none
      else if code < 20 then
        let k := code - 16
        let t := Config.swSites.getD k 50
        if t = site then none
        else if Config.swSites.contains site || (Config.expressTargets.getD k []).contains site then some t else none
      else none
/-- Hop latency of a link (Table 13-1). -/
def hopCycles (code : Nat) : Nat := if code < 4 then 16 else 24
/-- The x-first mesh route over at most `fuel` hops (R288). -/
def meshRoute (fuel site dst : Nat) : List Hop :=
  match fuel with
  | 0 => []
  | f + 1 =>
    if site = dst then []
    else if site % 10 < dst % 10 then (site, 1) :: meshRoute f (site + 1) dst
    else if dst % 10 < site % 10 then (site, 3) :: meshRoute f (site - 1) dst
    else if site < dst then (site, 2) :: meshRoute f (site + 10) dst
    else (site, 0) :: meshRoute f (site - 10) dst
/-- Sum of the hop latencies. -/
def routeCycles (r : List Hop) : Nat := (r.map fun h => hopCycles h.2).sum
/-- Whether one route comes before another: latency, hops, then link codes from the first die on (R288). -/
def routeLt (a b : List Hop) : Bool :=
  let ka := (routeCycles a, a.length)
  let kb := (routeCycles b, b.length)
  if ka.1 ≠ kb.1 then decide (ka.1 < kb.1)
  else if ka.2 ≠ kb.2 then decide (ka.2 < kb.2)
  else decide (a.map Prod.snd < b.map Prod.snd)
/-- One round of improvement of the best routes from every site to a destination. -/
def relax (allowed : Nat → Bool) (dst : Nat) (best : List (Option (List Hop))) : List (Option (List Hop)) :=
  (List.range 50).map fun site =>
    if site = dst then some [] else
    (List.range 20).foldl (fun acc code =>
      match linkTo site code with
      | none => acc
      | some t =>
        if t = dst || allowed t then
          match best.getD t none with
          | none => acc
          | some r =>
            let cand := (site, code) :: r
            match acc with
            | none => some cand
            | some old => if routeLt cand old then some cand else acc
        else acc) (best.getD site none)
/-- Rounds of improvement. -/
def relaxN (allowed : Nat → Bool) (dst : Nat) : Nat → List (Option (List Hop)) → List (Option (List Hop))
  | 0, b => b
  | n + 1, b => relaxN allowed dst n (relax allowed dst b)
/-- The route between two sites under the sites a variant may pass (R288); none where no route exists. -/
def routeOf (allowed : Nat → Bool) (src dst : Nat) : Option (List Hop) :=
  let m := meshRoute 14 src dst
  if (m.drop 1).all fun h => allowed h.1 then some m
  else (relaxN allowed dst 49 ((List.range 50).map fun t => if t = dst then some [] else none)).getD src none
/-- Sites a context may pass (R288). -/
def Context.passes (x : Context) (site : Nat) : Bool := x.need.contains site || x.route.contains site
/-- A context's route for memory traffic; the home rule leaves no home without one. -/
def Context.routeTo (x : Context) (src dst : Nat) : List Hop := (routeOf x.passes src dst).getD []

/-- Local cycle of a site's core frame as a global cycle offset: 4 × capstan distance (R126). -/
def siteOffset (site : Nat) : Nat := 4 * Config.capstan site
/-- Frame position of a die at a global cycle (R286). -/
def framePos (site clock : Nat) : Nat := (clock + 64 - siteOffset site % 64) % 64
/-- Residue beats of a link direction in a cycle of that frame position (R286). -/
def residueBeats (pos : Nat) : Nat := if pos = 61 then 4 else if pos ≥ 62 then 6 else 0
/-- Entries in the residue queue of a link direction (R293): unowned flights that have reached its die. -/
def State.queued (s : State) (h : Hop) : List Flight :=
  s.flights.filter fun f => !f.owned && decide (f.due ≤ s.clock) && (match f.hops with
    | [] => false
    | g :: _ => g == h)
/-- Whether the residue queue of a route's first link has room (R108, R293). -/
def State.queueRoom (s : State) (r : List Hop) : Bool :=
  match r with
  | [] => true
  | h :: _ => decide ((s.queued h).length < 48)

/-- Requests of a core to stage memory and pods that have not completed, made by CTL (R108). -/
def State.requests (s : State) (c : Core) : Nat :=
  (s.flights.filter fun f => f.core == c.id && f.eng == 0 && (match f.cargo with
    | .req _ => true
    | .reply _ _ _ _ => true
    | .claim _ => true
    | .claimAns _ _ => true
    | _ => false)).length + (c.lnk.podq.filter fun p => p.eng == 0).length

/-- A request or an answer enters its route at global cycle t (R108): with no hops the last 26 cycles are 12. -/
def flightDue (hops : List Hop) (t : Nat) : Nat := if hops.isEmpty then t + 12 else t

/-- Traffic of the core that moves sets out: engine e, over a route, with its next event at a global cycle. -/
def State.sendOff (s : State) (e : Nat) (cargo : Cargo) (a : Nat) (hops : List Hop) (due : Nat) : State :=
  let f : Flight := {
    cargo := cargo, core := s.core.id, eng := e, pos := (s.core.engOf e).pos
    addr := dw a, hops := hops, owned := false, due := due, bad := false }
  { s with flights := s.flights ++ [f] }

/-- Requests of a verb of n bytes from a remote address on: each of up to 256 bytes, crossing no 256-byte boundary (Table 13-7). -/
def podRequests (remote : Dword) (n : Nat) : Nat := (remote.toNat % 256 + n + 255) / 256
/-- Requests of engine e to a package set out for a CL die, in the residue (R293, R296). -/
def State.askVia (s : State) (cl e : Nat) (pkg : BitVec 13) (remote : Dword) (n : Nat) : State :=
  let hops := match s.ctx with
    | some x => x.routeTo s.core.site cl
    | none => []
  { s with flights := s.flights ++ (List.range (podRequests remote n)).map fun i => {
      cargo := .hawser pkg cl, core := s.core.id, eng := e, pos := (s.core.engOf e).pos, addr := remote, hops := hops, owned := false
      due := s.clock + 2 + 4 * i, bad := false } }

/-- The requests of a pod operation of engine e set out for the CL die of their package (R296). -/
def State.askFabric (s : State) (e : Nat) (pkg : BitVec 13) (remote : Dword) (n : Nat) : State :=
  s.askVia (clSite pkg.toNat) e pkg remote n

/-! ### Performing (R108, R140) -/

/-- The memory part of an access that performs: the state after, and the value a load or atomic returns. -/
def State.performOp (s : State) (k : CoreId) (op : MemOp) (p : Place) (addr : Nat) : State × Dword :=
  match s.coreAt k with
  | none => (s, 0)
  | some c =>
    match op with
    | .load _ _ n sx => let v := s.readAt c p n; (s, if sx then sextTo n v else dw v)
    | .own _ _ => (s, s.ownRead c p addr)
    | .store n v =>
      match (s.ctxOf c.ctx).bind fun x => x.planeAt c.site addr with
      | some _ => (s.planeStore c.ctx k addr (dw (v.toNat % 2 ^ (8 * n))), 0)
      | none => (s.writeAt k p n v.toNat, 0)
    | .amo _ _ o wide x cmp =>
      let n := amoBytes wide
      let old := s.readAt c p n
      (s.writeAt k p n (amoNew o n old x.toNat cmp.toNat), sextTo n old)
    | .wait _ _ => (s, dw (s.readAt c p 8))

end Sys2Proof.Machine
end

