-- ==== Sys2Proof/Machine/CopyOps.lean ====
section
/-! DEFINITION. CopyOps.lean: geometry, layout, checks, elements and watermarks of copies (R156 to R168). -/
namespace Sys2Proof.Machine

/-- Signed value of a doubleword. -/
def sval (x : Dword) : Int := x.toInt

/-- The product of the counts of a geometry. -/
def geoTotal (g : Vector GeoLevel 6) : Nat := (g.toList.map fun l => l.count.toNat).foldl (· * ·) 1
/-- Offset of element j: level 0 innermost; dst chooses the destination strides (R158). -/
def geoOff (dst : Bool) (ls : List GeoLevel) (j : Nat) : Int :=
  match ls with
  | [] => 0
  | l :: t => (j % l.count.toNat : Nat) * sval (if dst then l.ds else l.ss) + geoOff dst t (j / l.count.toNat)
/-- The lowest and the highest offset of a side (R158). -/
def geoLo (dst : Bool) (g : Vector GeoLevel 6) : Int :=
  (g.toList.map fun l => min 0 (((l.count.toNat : Int) - 1) * sval (if dst then l.ds else l.ss))).sum
def geoHi (dst : Bool) (g : Vector GeoLevel 6) : Int :=
  (g.toList.map fun l => max 0 (((l.count.toNat : Int) - 1) * sval (if dst then l.ds else l.ss))).sum

/-! ### Layout records (R160) -/

/-- Fields of the layout words (Table 7-2). -/
def layBr (l0 : Dword) : Nat := field l0 7 0 + 1
def layBcl (l0 : Dword) : Nat := field l0 11 8
def layOrder (l0 : Dword) : Nat := field l0 13 12
def laySource (l0 : Dword) : Bool := l0.getLsbD 14
def layNbc (l0 : Dword) : Nat := field l0 31 16
def layNbr (l0 : Dword) : Nat := field l0 47 32
def layMask (l1 : Dword) : Nat := field l1 6 0
def layShift (l1 : Dword) : Nat := field l1 12 7
/-- Whether the record is a layout. -/
def isLayout (l0 : Dword) : Bool := layNbc l0 != 0
/-- Surface size in bytes. -/
def laySurface (l0 : Dword) : Nat := layNbc l0 * layNbr l0 * layBr l0 * 2 ^ layBcl l0
/-- Interleave the bits of two numbers, 16 bits each. -/
def interleave (a b : Nat) : Nat → Nat
  | 0 => 0
  | n + 1 => a % 2 + 2 * (b % 2) + 4 * interleave (a / 2) (b / 2) n
/-- map(L) (R160). -/
def layMap (l0 l1 : Dword) (off : Nat) : Nat :=
  let wdt := layNbc l0 * 2 ^ layBcl l0
  let r := off / wdt
  let c := off % wdt
  let br := r / layBr l0
  let bc := c / 2 ^ layBcl l0
  let blk := match layOrder l0 with
    | 0 => br * layNbc l0 + bc
    | 1 => bc * layNbr l0 + br
    | _ => interleave bc br 16
  let p := blk * layBr l0 * 2 ^ layBcl l0 + r % layBr l0 * 2 ^ layBcl l0 + c % 2 ^ layBcl l0
  p ^^^ ((p / 2 ^ layShift l1 &&& layMask l1) * 64)
/-- Whether a layout record is valid for the logical extent of its side (R160). BCL values 13 to 15, which Table 7-2 does not give and the
list of invalid records does not name, are block widths as the others are. DESIGN CHOICE, log entry 98. -/
def layValid (l0 l1 : Dword) (e : Nat) (lo hi : Int) : Bool :=
  !l0.getLsbD 15 && field l0 63 48 == 0 && field l1 63 13 == 0 && layOrder l0 != 3 && layNbr l0 != 0 &&
  (layMask l1 == 0 || (decide (13 ≤ layShift l1) && decide (layShift l1 ≤ 40))) &&
  decide (2 ^ e ≤ 2 ^ layBcl l0) &&
  decide (0 ≤ lo) && decide (hi + 2 ^ e ≤ laySurface l0) &&
  (layMask l1 == 0 || laySurface l0 % 8192 == 0) &&
  (layOrder l0 != 2 || (layNbc l0 == layNbr l0 && (layNbc l0 &&& (layNbc l0 - 1)) == 0))

/-! ### Elements (R158) -/

/-- Whether a side of a snapshot has a layout. -/
def Snap.laid (x : Snap) (dst : Bool) : Bool := isLayout x.l0 && (laySource x.l0 != dst) && !(x.fill && !dst)
/-- Address of element j on a side (R158). -/
def Snap.addr (x : Snap) (dst : Bool) (j : Nat) : Nat :=
  let off := geoOff dst x.geo.toList j
  let base := if dst then x.dbase else x.sbase
  if x.laid dst then (base + dw (layMap x.l0 x.l1 off.toNat)).toNat else (base + wrap64 off).toNat
/-- Extent of a side: its lowest byte and its length (R158). -/
def Snap.extent (x : Snap) (dst : Bool) : Int × Nat :=
  let base : Int := ((if dst then x.dbase else x.sbase).toNat : Int)
  if x.laid dst then (base, laySurface x.l0)
  else (base + geoLo dst x.geo, (geoHi dst x.geo - geoLo dst x.geo).toNat + 2 ^ x.e)
/-- Elements of the copy. -/
def Snap.total (x : Snap) : Nat := geoTotal x.geo
/-- Bytes of the pattern of a fill (R172). -/
def Snap.pattern (x : Snap) : List Byte := (List.range (2 ^ x.e)).map fun i => BitVec.ofNat 8 (x.sbase.toNat / 256 ^ (i % 8))

/-- The watermark after n elements are written, counted from lo (R164): bytes that the copy never writes pass together
with the next written byte above them. -/
def Snap.watermark (x : Snap) (n : Nat) : Nat :=
  let ext := x.extent true
  if n ≥ x.total then ext.2 else
  let ads := (List.range x.total).map fun j => ((x.addr true j : Int) - ext.1).toNat
  let done := ads.take n
  let open_ := (ads.drop n).filter fun a => !done.contains a
  match open_.min? with
  | none => ext.2
  | some u => (done.filter fun a => decide (a < u)).foldl (fun m a => max m (a + 2 ^ x.e)) 0

/-! ### Channels -/

/-- A channel. -/
def Core.ch (c : Core) (n : Nat) : Channel := c.chan.getD n {}
/-- Change a channel. -/
def Core.modCh (c : Core) (n : Nat) (f : Channel → Channel) : Core := { c with chan := c.chan.setIfInBounds n (f (c.ch n)) }
/-- PEND of a channel. -/
def Channel.pend (h : Channel) : Nat := h.pendq.length
/-- WM of a channel. -/
def Channel.wmNow (h : Channel) : Nat :=
  match h.snap with
  | some x => x.watermark x.nwrit
  | none => h.wm
/-- STATE as Table 7-7 codes it. -/
def ChState.code : ChState → Nat
  | .idle => 0
  | .busy => 1
  | .stopped => 2
  | .fault => 3
/-- The status doubleword (Table 7-7). -/
def Channel.statusWord (h : Channel) : Dword :=
  dw (h.wmNow % 2 ^ 40 + h.state.code * 2 ^ 40 + h.cause.toNat * 2 ^ 48 + h.pend * 2 ^ 56)

/-- Whether a variable copy of the core, into gather table SRAM where `g` is set, holds back an access to n bytes at y: one that
meets its destination range above the watermark (R145, R165). -/
def Core.underCopyIn (c : Core) (g : Bool) (y n : Nat) : Bool :=
  c.chan.toList.any fun h => h.state == .busy && (match h.snap with
    | some x =>
      let ext := x.extent true
      !x.fixed && x.dg == g && decide (ext.1 < (y : Int) + n) && decide ((y : Int) < ext.1 + ext.2) &&
        decide (ext.1 + x.watermark x.nseen < (y : Int) + n)
    | none => false)
/-- The same for an address of Table 5-1. -/
def Core.underCopy (c : Core) (y n : Nat) : Bool := c.underCopyIn false y n

/-- The core as an operation sees it that issued in some cycle on engine e: without the copies that issued after it, whose ranges its
accesses do not wait for (R145, R165). Engines issue in rising number within a cycle, schedule entries before them (R167). -/
def Core.olderCopies (c : Core) (start e : Nat) : Core :=
  let key := 16 * start + (if e ≤ 3 then 8 else 9)
  { c with chan := c.chan.map fun h => { h with snap := h.snap.filter fun x => decide (x.seq < key) } }
/-- A range of an engine's access waits for a watermark under code 0x05 (R145). -/
def clearOf (s : State) (e a n : Nat) (run : Out) : Out := if s.core.underCopy a n then waitAt s e 5 else run
/-- The same for several ranges. -/
def clearAll (s : State) (e : Nat) (l : List (Nat × Nat)) (run : Out) : Out :=
  if l.any fun p => s.core.underCopy p.1 p.2 then waitAt s e 5 else run

/-- EVAL of a copy parameter fault (Table 7-5). -/
def copyEval (ch kind idx : Nat) : Dword := dw (ch + kind * 16 + idx * 256 + 0x01 * 2 ^ 48 + 0xFF * 2 ^ 56)

/-- Storage of an address of a copy side; g means gather table SRAM (R159). -/
def State.copyPlace (s : State) (c : Core) (g : Bool) (a n : Nat) : Option Place :=
  if g then none else
    match s.locate c a n with
    | .ok (p, _) => some p
    | .error _ => none
/-- Read the bytes of an element. -/
def State.copyRead (s : State) (c : Core) (g : Bool) (a n : Nat) : List Byte :=
  if g then s.gsram.readBytes (Config.gatherBytes * c.site + a) n else
    match s.copyPlace c g a n with
    | some p => toBytes n (s.readAt c p n)
    | none => List.replicate n 0
/-- Write the bytes of an element. -/
def State.copyWrite (s : State) (c : Core) (g : Bool) (a : Nat) (bs : List Byte) : State :=
  if g then { s with gsram := s.gsram.writeBytes (Config.gatherBytes * c.site + a) bs } else
    match s.copyPlace c g a bs.length with
    | some p => s.writeBytesAt c.id p bs
    | none => s

/-- Whether a place lies in the SRAMs of the issuing core's die (R161). -/
def Place.onDie : Place → Bool
  | .scratch _ => true
  | .wstack _ => true
  | .shared _ => true
  | _ => false
/-- The offsets of a memory (Table 7-4): read and write. -/
def Place.copyOffsets : Place → Nat × Nat
  | .scratch _ => (2, 2)
  | .wstack _ => (2, 4)
  | _ => (6, 6)

/-- The check of step 4 of R159 for one side: none, or the cause and EVAL. -/
def State.copySide (s : State) (c : Core) (x : Snap) (dst : Bool) : Option (Byte × Dword) :=
  let (lo, len) := x.extent dst
  let a := wrap64 lo
  if (if dst then x.dg else x.sg) then
    if lo < 0 then some (5, a) else if lo + len ≤ Config.gatherBytes then none else some (5, failByte a.toNat Config.gatherBytes)
  else if lo < 0 then some (5, a)
  else if isTranslated a.toNat then
    match s.ctxOf c.ctx with
    | none => some (6, a)
    | some cx =>
      match cx.entryAt a.toNat with
      | none => some (6, a)
      | some e =>
        if a.toNat + len > e.vbase.toNat + 2 ^ e.lsz then some (5, failByte a.toNat (e.vbase.toNat + 2 ^ e.lsz))
        else if e.cls == 3 || e.perm &&& (if dst then 2 else 1) == 0 then some (5, a)
        else if dst && cx.planeMeets c.site a.toNat len then some (9, cx.planedByte c.site a.toNat len)
        else none
  else
    match s.locate c a.toNat len with
    | .error k => some (k, failByte a.toNat (s.reach c a.toNat))
    | .ok (.wstack _, _) => if dst then none else some (5, a)
    | .ok _ =>
      match s.ctxOf c.ctx with
      | some cx => if dst && cx.planeMeets c.site a.toNat len then some (9, cx.planedByte c.site a.toNat len) else none
      | none => none
/-- The first misaligned element of a side, in nest order, with its address (R159). -/
def Snap.misaligned (x : Snap) (dst : Bool) : Option (Nat × Dword) :=
  let e := 2 ^ x.e
  let bad := (if dst then x.dbase else x.sbase).toNat % e != 0 ||
    x.geo.toList.any fun l => l.count.toNat > 1 && (if dst then l.ds else l.ss).toNat % e != 0
  if bad then
    ((List.range x.total).find? fun j => (x.addr dst j) % e != 0).map fun j => (j, dw (x.addr dst j))
  else none
/-- The address of the first misaligned element of the copy, in nest order (R159). Of an element misaligned on both sides the source's
address is taken: DEDUCED (log entry 103). -/
def Snap.firstMisaligned (x : Snap) : Option Dword :=
  match if x.fill then none else x.misaligned false, x.misaligned true with
  | some p, some q => some (if q.1 < p.1 then q.2 else p.2)
  | some p, none => some p.2
  | none, q => q.map Prod.snd
/-- The checks of R159 after the marked registers: none, or the cause and EVAL. -/
def State.copyCheck (s : State) (c : Core) (ch idx : Nat) (x : Snap) (bound : Bool) (stat : Dword) : Option (Byte × Dword) :=
  let sides := if x.fill then [true] else [false, true]
  let bad (k : Nat) : Option (Byte × Dword) := some (5, copyEval ch k idx)
  if x.geo.toList.any (fun l => l.count == 0) || decide (x.total > 2 ^ 48) then bad 1
  else if sides.any fun d => decide ((x.extent d).2 > 2 ^ 40) then bad 2
  else if bound then bad 3
  else if isLayout x.l0 && sides.any (fun d => x.laid d &&
      !layValid x.l0 x.l1 x.e (geoLo d x.geo) (geoHi d x.geo)) then bad 4
  else if stat.toNat % 8 != 0 || decide (stat.toNat + 8 > c.size) then bad 8
  else
    match x.firstMisaligned with
    | some a => some (4, a)
    | none => sides.findSome? fun d => s.copySide c x d

end Sys2Proof.Machine
end

