-- ==== Sys2Proof/Machine/Operands.lean ====
section
/-! DEFINITION. Operands.lean: operand forms, the decode checks that depend on the machine (R38, R91), the registers a
word reads, the operations of an engine that have not performed, and the waits every own word shares. -/
namespace Sys2Proof.Machine

/-- Sign-extend a field to a doubleword. -/
def sextD {n : Nat} (x : BitVec n) : Dword := x.signExtend 64
/-- Zero-extend a field to a doubleword. -/
def zextD {n : Nat} (x : BitVec n) : Dword := x.setWidth 64
/-- A branch target: the word's own address plus a signed offset, modulo 65,536 (R30). -/
def branchTarget {n : Nat} (pc : TextAddr) (off : BitVec n) : TextAddr := pc + (off.signExtend 64).setWidth 16
/-- The effective address of a base and imm13 (R119). -/
def effAddr (base : Dword) (i : BitVec 13) : Dword := base + sextD i

/-! ### CSR numbers (Table 4-8) -/

/-- Whether a CSR number is in Table 4-8 and present on a die. -/
def csrKnown (die : Config.DieType) (n : Nat) : Bool :=
  decide (n ≤ 3) || (decide (8 ≤ n) && decide (n ≤ 0xE)) || (decide (0x10 ≤ n) && decide (n ≤ 0x13)) || n == 0x20 ||
  ((n == 0x21 || n == 0x22) && die == .vx) || (n == 0x23 && die == .mx) ||
  (decide (0x28 ≤ n) && decide (n ≤ 0x2F)) || (decide (0x40 ≤ n) && decide (n ≤ 0x42)) ||
  (decide (0x48 ≤ n) && decide (n ≤ 0x53)) || (decide (0x60 ≤ n) && decide (n ≤ 0x62)) ||
  (decide (0x70 ≤ n) && decide (n ≤ 0x72))
/-- CSRs that no mode may write (Table 4-8). -/
def csrReadOnly (n : Nat) : Bool :=
  decide (n ≤ 3) || (decide (8 ≤ n) && decide (n ≤ 0xE)) || n == 0x13 || (decide (0x20 ≤ n) && decide (n ≤ 0x2F)) ||
  n == 0x70 || n == 0x71
/-- CSRs that user mode may write (Table 4-8): STATUS, EPCn and DFMASK. -/
def csrUserWrites (n : Nat) : Bool := n == 0x40 || (decide (0x48 ≤ n) && decide (n ≤ 0x4F)) || n == 0x53
/-- The CSR checks (R91): none, or cause and reason. -/
def csrFault (c : Core) (n : Nat) (writes : Bool) : Option (Byte × Nat) :=
  if !csrKnown c.die n || (writes && csrReadOnly n) then some (1, 3)
  else if !c.trap.mode && (n == 0x51 || (writes && !csrUserWrites n)) then some (3, 0)
  else none

/-! ### Decode checks (R38) -/

/-- A context's pod group exists when group 0 is bound (R307). -/
def Context.hasPod (x : Context) : Bool := x.pods.any fun p => p.1 == 0
/-- Check 5 of STEP (R149). -/
def stepOk (s : State) (g : BitVec 6) (sc : BitVec 3) : Bool :=
  match s.ctx with
  | none => false
  | some x => (x.groups.any fun y => y.id == g && y.scope == sc && y.members.contains s.core.id) && (sc != 5 || x.hasPod)
/-- Check 5 of BAR (R150). -/
def barOk (s : State) (sc : BitVec 3) : Bool := sc != 5 || (match s.ctx with
  | none => false
  | some x => x.hasPod)
/-- A mask that names an engine of the die (R151, R153). -/
def maskPresent (c : Core) (m : BitVec 7) : Bool := c.engines.any fun e => m.getLsbD e
/-- Stop address of engine e (R337). -/
def Core.stopAddr (c : Core) (e : Nat) : TextAddr :=
  if e = 0 then c.trap.stopPc else
    match (c.engOf e).stop with
    | some x => x.pc
    | none => c.trap.epc.getD e 0
/-- The EPC check of SRET (R337): each stopped engine resumes where it stopped or one word on. -/
def sretOk (c : Core) : Bool :=
  c.engines.all fun e => !c.trap.stopped.getLsbD e ||
    c.trap.epc.getD e 0 == c.stopAddr e || c.trap.epc.getD e 0 == c.stopAddr e + 1
/-- CTL handles a word at trap level. -/
def atTrapLevel (c : Core) : Bool := c.trap.tl && c.turn == 0
/-- Checks 5 and 6 as far as they depend on the core, its context or its mode. -/
def dynFault (s : State) (i : Instr) : Option (Byte × Nat) :=
  let c := s.core
  let five (b : Bool) : Option (Byte × Nat) := if b then none else some (1, 3)
  match i with
  | .rde _ e => five (c.has e.toNat)
  | .ldq _ _ _ _ => five (c.has 2)
  | .stq _ _ _ _ => five (c.has 2)
  | .fpush _ => five (c.has 1)
  | .csrr _ n => csrFault c n.toNat false
  | .csrw _ n => csrFault c n.toNat true
  | .csrs _ a n => csrFault c n.toNat (a != 0)
  | .csrc _ a n => csrFault c n.toNat (a != 0)
  | .step _ g sc => five (!atTrapLevel c && stepOk s g sc)
  | .bar _ _ sc => five (!atTrapLevel c && barOk s sc)
  | .exit => five (!atTrapLevel c)
  | .budg _ => five (!atTrapLevel c)
  | .fenceM m => five (maskPresent c m)
  | .latew _ m => five (maskPresent c m)
  | .sret => if !c.trap.tl then (if c.trap.mode then some (1, 3) else some (3, 0)) else five (sretOk c)
  | .cgo _ _ _ sg dg _ _ => five (c.die == .gx || (sg == 0 && dg == 0))
  | .cfill _ _ _ dg _ _ => five (c.die == .gx || dg == 0)
  | .cpage _ _ _ f _ => if f == 1 && !c.trap.mode then some (3, 0) else none
  | .lslot _ => if c.trap.mode then none else some (3, 0)
  | .lslotRel _ => if c.trap.mode then none else some (3, 0)
  | _ => none
/-- Whether a word's OP is unassigned: ILL, an OP that no table lists, a reserved ALL opcode (check 2, R44, R45). -/
def noOp : Instr → Bool
  | .ill _ => true
  | .unassignedOpcode _ => true
  | _ => false
/-- The first decode check that a word's instruction fails (Table 2-6): its cause and reason. -/
def decodeFault (s : State) (i : Instr) : Option (Byte × Nat) :=
  let e := i.eng
  if e != 7 && !s.core.has e.toNat then some (2, 0)
  else if noOp i then some (1, 0)
  else if !i.selectorOk then some (1, 1)
  else if !i.unusedZero then some (1, 2)
  else if !i.operandOk then some (1, 3)
  else dynFault s i
/-- A word runs on when no decode check fails; else it is handled by R39 to R41. -/
def gate (i : Instr) (s : State) (run : Out) : Out :=
  match decodeFault s i with
  | some (cause, reason) => decodeTrap s (encode i) cause reason
  | none => run

/-! ### Registers a word reads (R71, R77) -/

/-- The general registers that an own word reads; for an ALL word, those that engine e reads. -/
def regsOf (e : Nat) : Instr → List GReg
  | .add _ a b | .sub _ a b | .and _ a b | .or _ a b | .xor _ a b | .sll _ a b | .srl _ a b | .sra _ a b
  | .slt _ a b | .sltn _ a b | .min _ a b | .max _ a b | .minn _ a b | .maxn _ a b | .mul _ a b | .mulh _ a b
  | .mulhn _ a b | .div _ a b | .divn _ a b | .rem _ a b | .remn _ a b => [a, b]
  | .clz _ a | .ctz _ a | .popc _ a => [a]
  | .addi _ a _ | .andi _ a _ | .ori _ a _ | .xori _ a _ | .slli _ a _ | .srli _ a _ | .srai _ a _ | .slti _ a _
  | .sloi _ a _ => [a]
  | .beq a b _ | .bne a b _ | .blt a b _ | .bge a b _ | .bltn a b _ | .bgen a b _ => [a, b]
  | .jalr _ a _ | .chk a _ => [a]
  | .ldb _ a _ | .ldbn _ a _ | .ldh _ a _ | .ldhn _ a _ | .ldw _ a _ | .ldwn _ a _ | .ldd _ a _ | .ldo _ a _
  | .lds _ a _ => [a]
  | .stb t a _ | .sth t a _ | .stw t a _ | .std t a _ => [a, t]
  | .aadd _ a b _ | .aswp _ a b _ | .amin _ a b _ | .amax _ a b _ | .aand _ a b _ | .aor _ a b _ | .axor _ a b _ => [a, b]
  | .acas d a b _ => [a, b, d]
  | .ldq _ _ a _ | .stq _ _ a _ => [a]
  | .csrw a _ | .csrs _ a _ | .csrc _ a _ => [a]
  | .fpush a | .hdef _ _ a _ | .pacq a _ => [a]
  | .wev d a _ => [d, a]
  | .adq d a => [d, d + 1, a, a + 1]
  | .latew a m => if e == 0 || m.getLsbD e then [a] else []
  | .budg a => if e == 0 then [a] else []
  | .bndset _ a b _ => [a, b]
  | .mnest a b _ _ | .mnestc a b _ | .mldt a b _ _ | .mstt a b _ _ | .mtwc a b _ | .mgvcfg a b | .mdropkKey a b
  | .mdropkCtr a b | .mdropkThr a b | .mres a b _ => [a, b]
  | .mbase d a b => [d, a, b]
  | .mtrn d a b _ _ _ => [d, a, b]
  | .mdrain d a _ _ k => if k == 0 then [d, a] else [a]
  | .mdrainAuto a _ _ _ => [a]
  | .mtexpSet a _ | .mtexpAdd a _ | .mtexpSt a | .mgvr _ _ a _ _ => [a]
  | .mchkr d _ => [d]
  | .vxdef _ a b | .vrngkKey a b | .vrngkCtr a b | .vrngkAdd a b => [a, b]
  | .cgeo d a b _ _ => [d, a, b]
  | .clay a b _ | .csched a b _ => [a, b]
  | .cgo d a b _ _ _ _ => [d, a, b]
  | .cfill d a b _ _ _ => [d, a, b]
  | .cpage d a b _ _ => [d, a, b]
  | .lpush _ _ a _ | .lslot a | .lslotRel a => [a]
  | .lput d a b | .lget d a b => [d, a, b]
  | .lsig a b => [a, b]
  | .laadd d a b _ | .laswp d a b _ | .lacas d a b _ | .lamin d a b _ | .lamax d a b _ | .laand d a b _ | .laor d a b _
  | .laxor d a b _ => [d, a, b]
  | .lwsig d a _ => [d, a]
  | .gtab d a b _ _ _ => [d, a, b]
  | .gthr _ _ a | .gsum _ _ a => [a]
  | .cgrp a b _ => [a, b]
  | .cred d a b _ _ _ | .crsc d a b _ _ _ => [d, a, b]
  | .callg d a b _ _ | .cbc d a b _ _ => [d, a, b]
  | _ => []

/-! ### Operations that have not performed (R89, R140, R151) -/

/-- The operations of a copy channel that have not performed, each by the position of its word: the running copy, the entries
still pending, each at the CADV that released it, and a page move (R168, R174, R176). -/
def Channel.ops (h : Channel) : List Nat :=
  (match h.snap with
    | some y => if h.state == .busy && (y.stop || decide (y.nwrit < y.total)) then [y.pos] else []
    | none => []) ++ h.pendq ++ (h.page.map PageJob.pos).toList
/-- The dynamic positions of the operations of engine e that have not performed; one operation stands once for each effect that it
has outstanding. A load or an atomic has performed once its home has answered it: its reply is no operation (R140). -/
def State.effectsOf (s : State) (c : Core) (e : Nat) : List Nat :=
  let x := c.engOf e
  (c.fly.filter fun o => o.eng == e && (match o.eff with
      | .status _ _ => false
      | .atEnd _ => false
      | .enter _ _ => false
      | .copy _ _ _ _ => false
      | _ => true)).map LocalOp.pos
  ++ (s.flights.filter fun f => f.core == c.id && f.eng == e && (match f.cargo with
      | .notify _ => false
      | .seen _ _ => false
      | .reply _ _ _ _ => false
      | .req (.wait _ _) => false
      | .beat => false
      | .piece _ _ _ => false
      | .hawser _ _ => false
      | .podAns _ _ => false
      | .rowAsk _ => false
      | .row _ => false
      | _ => true)).map Flight.pos
  ++ (c.lnk.podq.filter fun p => p.eng.toNat == e).map PodRec.pos
  ++ (if e == 4 then c.lnk.sends.map PushRec.pos else [])
  ++ (if (e == 1 || e == 5) && !x.marked && !x.exited && decide (c.now < x.freeAt) then [x.lastPos] else [])
  ++ (match e with
    | 1 => (if c.mtx.prog.isSome || c.mtx.gvp.isSome then [x.lastPos] else []) ++
        (c.mtx.job.map DrainJob.pos).toList ++ (c.mtx.trn.map TrnJob.pos).toList
    | 2 => (c.vec.retq.filter fun r => decide (c.now ≤ r.due)).map VecRet.pos
    | 4 => if c.lnk.wsig.isSome || c.lnk.quiet.isSome then [x.lastPos] else []
    | 5 => (c.gjob.map GJob.pos).toList ++ c.gtail.map GJob.pos
    | 6 => c.colls.map Coll.pos
    | _ => [])
/-- The operations of engine e that have not performed, each by the position of its word (R89, R140). -/
def State.opsOf (s : State) (c : Core) (e : Nat) : List Nat :=
  (s.effectsOf c e).eraseDups ++ (if e = 3 then c.chan.toList.flatMap Channel.ops else [])
/-- How many operations of engine e at positions below p have not performed. -/
def State.openBefore (s : State) (c : Core) (e p : Nat) : Nat :=
  ((s.opsOf c e).filter fun q => decide (q < p)).length
/-- What an RDE of the next cycle sees (R89). -/
def State.seenNow (s : State) (c : Core) : Vector (List Nat × Byte) 7 :=
  Vector.ofFn fun e => (s.opsOf c e.val, (c.engOf e.val).lastCause)
/-- The trailing engine's position (R35): none when at most one engine has not reached EXIT. -/
def Core.lowNow (c : Core) : Option Nat :=
  let l := (c.engines.filter fun e => !(c.engOf e).exited).map fun e => (c.engOf e).pos
  if l.length ≤ 1 then none else l.min?
/-- Whether every operation of the core has performed (R149, R152). -/
def State.allPerformed (s : State) (c : Core) : Bool := c.engines.all fun e => (s.opsOf c e).isEmpty
/-- Engine e stood stopped at a fault at the end of the previous cycle (R89, R145). -/
def Core.stoodStopped (c : Core) (e : Nat) : Bool := (c.engOf e).stop.any fun x => decide (x.cycle < c.now)
/-- Engine e has passed position p, or will not come to it. One that stops in this cycle at a fault after issue counts with the position it
had reached (R89). -/
def Core.hasPassed (c : Core) (e p : Nat) : Bool :=
  let x := c.engOf e
  decide (p < x.pos) || x.exited || c.stoodStopped e || (decide (p < x.wasAt) && x.stop.any fun y => decide (c.now ≤ y.cycle))

/-! ### Waits that every own word shares (Table 6-2) -/

/-- A register of CTL is not ready (R71). -/
def Core.notReady (c : Core) (r : GReg) : Bool :=
  r != 0 && ((c.pendTag r).isSome || decide (c.now < c.ctl.ready.getD r.toNat 0))
/-- CTL has retired every word before the position of engine e (R36). -/
def Core.retiredBefore (c : Core) (e : Nat) : Bool :=
  let p := (c.engOf e).pos
  decide (p ≤ (c.engOf 0).pos) && c.ctl.retq.all fun x => decide (p ≤ x.pos)
/-- Whether the word belongs to the divider's family (R72). -/
def isDiv : Instr → Bool
  | .div _ _ _ | .divn _ _ _ | .rem _ _ _ | .remn _ _ _ => true
  | _ => false
/-- The lowest code of a shared wait that an own word of engine e meets now: registers (0x04), a throttled cycle (0x0B), a busy unit (0x0C), a fence
(0x0E), a hold after issue (0x0F). -/
def sharedWait (s : State) (e : Nat) (i : Instr) : Option Byte :=
  let c := s.core
  let rs := regsOf e i
  if (if e = 0 then rs.any c.notReady else !rs.isEmpty && !c.retiredBefore e) then some 4
  else if (e == 1 || e == 2) && c.spr.denies && Config.denied c.spr.denied.toNat c.now then some 0x0B
  else if decide (c.now < (c.engOf e).freeAt) || (e == 0 && isDiv i && decide (c.now < c.ctl.divFree)) ||
      (e == 1 && c.mtxRuns) || (e == 5 && c.gjob.isSome) then some 0x0C
  else if e == 0 && (if c.trap.tl then c.ctl.hfence else c.ctl.fence.isSome) then some 0x0E
  else if (c.engOf e).held then some 0x0F
  else none

/-! ### Current (Table 14-10) -/

/-- Current of a word of engine e while it runs, in mA; a copy, a push, a verb and a collective draw on their own. -/
def wordDraw (e : Nat) : Instr → Nat
  | .mgo _ _ _ _ => 3600
  | .vrcp _ _ | .vrsq _ _ | .vsqrt _ _ | .vexp2 _ _ | .vlog2 _ _ | .vsinp _ _ | .vexpr _ _ | .vrng _ _ | .vgrpc _ _ _ _ _ => 900
  | .gthr _ _ _ | .gsum _ _ _ => 400
  | _ => match e with
    | 0 => 60
    | 1 => 1200
    | 2 => 700
    | _ => 0
/-- What the issue of a word adds to the draw (R331). -/
def addedDraw (e : Nat) : Instr → Nat
  | .cgo _ _ _ _ _ _ _ | .cfill _ _ _ _ _ _ | .cpage _ _ _ _ _ => 250
  | .lpush _ _ _ _ | .lput _ _ _ | .lget _ _ _ | .lsig _ _ | .laadd _ _ _ _ | .laswp _ _ _ _ | .lacas _ _ _ _ | .lamin _ _ _ _
  | .lamax _ _ _ _ | .laand _ _ _ _ | .laor _ _ _ _ | .laxor _ _ _ _ => 150
  | .cred _ _ _ _ _ _ | .crsc _ _ _ _ _ _ | .callg _ _ _ _ _ | .cbc _ _ _ _ _ => 300
  | i => wordDraw e i
/-- A non-CTL word's power check (R331): it runs on, or its engine takes cause 0x11. -/
def powered (s : State) (e : Nat) (i : Instr) (run : Out) : Out :=
  match s.core.excess (addedDraw e i) with
  | some d => if e = 0 then run else trapAt s e 0x11 (powerEval e d s.core.spr.level)
  | none => run
/-- A word takes cause 0x07 when it uses a marked register (R77). -/
def unmarked (s : State) (e : Nat) (rs : List GReg) (run : Out) : Out :=
  match s.core.firstMarked e rs with
  | some r => trapAt s e 7 (markEval e r)
  | none => run

end Sys2Proof.Machine
end

