-- ==== Sys2Proof/Machine/Flags.lean ====
section
/-! DEFINITION. Flags.lean: what CTL's arithmetic computes (Tables 4-4 to 4-6), and the flags that number words keep:
flushing, the running maximum and the bound check (R180, R189, R193). -/
namespace Sys2Proof.Machine

/-- Signed order of two doublewords. -/
def sltB (a b : Dword) : Bool := decide (a.toInt < b.toInt)
/-- One or zero. -/
def oneIf (b : Bool) : Dword := if b then 1 else 0
/-- Shift amount of a register (R79). -/
def shAmt (b : Dword) : Nat := b.toNat % 64
/-- DIV (Table 4-4). -/
def aluDiv (a b : Dword) : Dword :=
  if b = 0 then -1
  else if a.toInt = -(2 ^ 63 : Int) ∧ b.toInt = -1 then a
  else wrap64 (Int.tdiv a.toInt b.toInt)
/-- REM (Table 4-4). -/
def aluRem (a b : Dword) : Dword :=
  if b = 0 then a
  else if a.toInt = -(2 ^ 63 : Int) ∧ b.toInt = -1 then 0
  else wrap64 (a.toInt - b.toInt * Int.tdiv a.toInt b.toInt)
/-- DIVN (Table 4-4). -/
def aluDivn (a b : Dword) : Dword := if b = 0 then -1 else dw (a.toNat / b.toNat)
/-- REMN (Table 4-4). -/
def aluRemn (a b : Dword) : Dword := if b = 0 then a else dw (a.toNat - b.toNat * (a.toNat / b.toNat))
/-- CLZ: bit k down to bit 0 of x are still to be looked at. -/
def clzFrom (x : Dword) : Nat → Nat
  | 0 => 0
  | k + 1 => if x.getLsbD k then 0 else 1 + clzFrom x k
/-- CTZ: bits from 64 - fuel on. -/
def ctzFrom (x : Dword) : Nat → Nat
  | 0 => 0
  | k + 1 => if x.getLsbD (63 - k) then 0 else 1 + ctzFrom x k
/-- POPC over the low k bits. -/
def popFrom (x : Dword) : Nat → Nat
  | 0 => 0
  | k + 1 => bit (x.getLsbD k) + popFrom x k
/-- The ALU functions by fn (Table 4-4). -/
def aluFn (fn : Nat) (a b : Dword) : Dword :=
  match fn with
  | 0x00 => a + b
  | 0x01 => a - b
  | 0x02 => a &&& b
  | 0x03 => a ||| b
  | 0x04 => a ^^^ b
  | 0x05 => a <<< shAmt b
  | 0x06 => a >>> shAmt b
  | 0x07 => a.sshiftRight (shAmt b)
  | 0x08 => oneIf (sltB a b)
  | 0x09 => oneIf (decide (a.toNat < b.toNat))
  | 0x0A => if a.toInt ≤ b.toInt then a else b
  | 0x0B => if a.toInt ≤ b.toInt then b else a
  | 0x0C => if a.toNat ≤ b.toNat then a else b
  | 0x0D => if a.toNat ≤ b.toNat then b else a
  | 0x10 => wrap64 (a.toInt * b.toInt)
  | 0x11 => wrap64 (a.toInt * b.toInt / 2 ^ 64)
  | 0x12 => dw (a.toNat * b.toNat / 2 ^ 64)
  | 0x14 => aluDiv a b
  | 0x15 => aluDivn a b
  | 0x16 => aluRem a b
  | 0x17 => aluRemn a b
  | 0x18 => dw (clzFrom a 64)
  | 0x19 => dw (ctzFrom a 64)
  | _ => dw (popFrom a 64)
/-- The branch conditions by OP (Table 4-6). -/
def condFn (op : Nat) (a b : Dword) : Bool :=
  match op with
  | 0x0C => a == b
  | 0x0D => a != b
  | 0x0E => sltB a b
  | 0x0F => !sltB a b
  | 0x10 => decide (a.toNat < b.toNat)
  | _ => !decide (a.toNat < b.toNat)

/-! ### Number words (R180 to R194) -/

/-- RM, FTZI and FTZO of an engine's FPC (Table 8-3). -/
def Engine.rm (x : Engine) : Nat := x.mode.toNat % 4
def Engine.ftzi (x : Engine) : Bool := x.mode.getLsbD 2
def Engine.ftzo (x : Engine) : Bool := x.mode.getLsbD 3

/-- Magnitude of a pattern. -/
def absPat (x : Elem) : Elem := x &&& 0x7FFFFFFF
/-- One source value enters the running maximum and its NaN flag (R189). -/
def amaxStep (m : Elem × Bool) (x : Elem) : Elem × Bool :=
  if isNaN x then (m.1, true)
  else if m.1.toNat < (absPat x).toNat then (absPat x, m.2) else m
/-- The source values of one word enter the running maximum (R189). -/
def amaxOf (xs : List Elem) (m : Elem × Bool) : Elem × Bool := xs.foldl amaxStep m

/-- Result of a bound check (R193). -/
inductive BndRes where
  | keep (v : Elem)
  | flagged (v : Elem)
  | trap (v : Elem)
  deriving DecidableEq, Repr
/-- bound(v, n) (R193): a clamped NaN bound is written canonical. -/
def boundCheck (b : Bound) (v : Elem) : BndRes :=
  if b.act = 0 || (fle b.low v && fle v b.high) then .keep v
  else match b.act.toNat with
    | 1 => .flagged v
    | 2 => .keep (canon (if fle b.low v then b.high else b.low))
    | _ => .trap v
/-- The value a bound check lets through. -/
def BndRes.val : BndRes → Elem
  | .keep v => v
  | .flagged v => v
  | .trap v => v
/-- EVAL of a bound violation (R194). -/
def boundEval (v : Elem) (index n : Nat) : Dword := dw (v.toNat + index * 2 ^ 32 + n * 2 ^ 48)
/-- The lowest-numbered element out of range under a trap action (R194). -/
def firstTrap (rs : List BndRes) : Option (Nat × Elem) :=
  (rs.zipIdx).findSome? fun p => match p.1 with
    | .trap v => some (p.2, v)
    | _ => none
/-- Whether a flag action fired. -/
def anyFlag (rs : List BndRes) : Bool := rs.any fun r => match r with
  | .flagged _ => true
  | _ => false

end Sys2Proof.Machine
end

