-- ==== Sys2Proof/Machine/Block.lean ====
section
/-! DEFINITION. Block.lean: block formats: forming, expanding and laying out a block (R179, R183, R184). -/
namespace Sys2Proof.Machine

/-- Mantissa width w of a format code (Table 8-2). -/
def fmtW (code : Nat) : Nat := if code ≤ 6 then code + 2 else if code = 7 then 16 else 8
/-- Bytes of a block of a format code (Table 8-2). -/
def fmtBytes (code : Nat) : Nat := if code = 8 then 32 else 4 * (fmtW code + 1)
/-- The biased exponent field; 1 if the field is 0 (R183). -/
def efOf (x : Elem) : Nat := max 1 (expOf x)
/-- A pattern of either zero. -/
def isZero (x : Elem) : Bool := x.toNat % 2 ^ 31 == 0
/-- round_ne(x × 2^(w-1) / 2^(E-127)). -/
def quantElem (w e : Nat) (x : Elem) : Int :=
  match unpack x with
  | .fin s m k =>
    let q : Int := k + ((w : Int) - 1) - ((e : Int) - 127)
    roundInt 0 s (scaleUp m q) (scaleUp 1 (-q))
  | _ => 0
/-- A block: its exponent, its mantissas, and whether one was clamped. -/
structure Block where
  e   : Nat
  m   : List Int
  sat : Bool
  deriving DecidableEq, Repr
/-- The rounds of quant_block from exponent e on: one bump at most. -/
def quantFrom (xs : List Elem) (w : Nat) : Nat → Nat → Block
  | 0, e => { e := e, m := xs.map (quantElem w e), sat := false }
  | f + 1, e =>
    let hi : Int := (2 ^ (w - 1) : Nat) - 1
    let lo : Int := -((2 ^ (w - 1) : Nat) : Int)
    if 254 < e then
      let m := xs.map (quantElem w 254)
      { e := 254, m := m.map (clampInt lo hi), sat := m.any fun k => decide (hi < k) || decide (k < lo) }
    else
      let m := xs.map (quantElem w e)
      if m.all fun k => decide (k ≤ hi) then { e := e, m := m, sat := false } else quantFrom xs w f (e + 1)
/-- quant_block (R183), over the values given; missing ones are +0. -/
def quantBlock (xs : List Elem) (w : Nat) : Block :=
  if xs.any fun x => isNaN x || isInf x then { e := 255, m := xs.map fun _ => 0, sat := false }
  else if xs.all isZero then { e := 0, m := xs.map fun _ => 0, sat := false }
  else quantFrom xs w 2 (1 + (((xs.filter fun x => !isZero x).map efOf).foldl max 0))
/-- dequant_block (R184): one element. -/
def dequant (e : Nat) (m : Int) (w : Nat) : Elem :=
  if e = 255 then canonNaN else roundRat 0 (decide (m < 0)) m.natAbs 1 ((e : Int) - 127 - ((w : Int) - 1))
/-- The low w bits of an integer. -/
def lowBits (w : Nat) (m : Int) : Nat := (m % ((2 ^ w : Nat) : Int)).toNat
/-- The bit string of mantissas, as a number. -/
def packBits (w : Nat) : List Int → Nat
  | [] => 0
  | m :: t => lowBits w m + 2 ^ w * packBits w t
/-- The bytes of a block (R179). -/
def Block.bytes (b : Block) (w : Nat) : List Byte := toBytes 4 b.e ++ toBytes (4 * w) (packBits w b.m)
/-- Mantissa i of a bit string. -/
def mantissa (bits w i : Nat) : Int := signedNat w (bits / 2 ^ (w * i))
/-- Elements as bytes, and bytes as elements, four bytes each. -/
def elemBytes (xs : List Elem) : List Byte := xs.flatMap fun x => toBytes 4 x.toNat

/-! ### Format words (R185, R187) -/

/-- The fields of a format word (Table 8-5). -/
def fwAfmt (v : Dword) : Nat := field v 3 0
def fwBfmt (v : Dword) : Nat := field v 7 4
def fwFa (v : Dword) : Nat := field v 15 8
def fwEa (v : Dword) : Int := signedNat 8 (field v 23 16)
def fwFb (v : Dword) : Nat := field v 31 24
def fwEb (v : Dword) : Int := signedNat 8 (field v 39 32)
def fwOfmt (v : Dword) : Nat := field v 43 40
def fwBsel (v : Dword) : Nat := field v 46 44
def fwResid (v : Dword) : Bool := v.getLsbD 47
def fwDrop (v : Dword) : Bool := v.getLsbD 48
/-- What R187 asks of every entry. -/
def fwOk (v : Dword) : Bool := field v 63 49 == 0 && decide (fwAfmt v ≤ 8) && decide (fwBfmt v ≤ 8) && decide (fwOfmt v ≤ 4)


end Sys2Proof.Machine
end

