-- ==== Sys2Proof/Machine/MtxOps.lean ====
section
/-! DEFINITION. MtxOps.lean: what MTX does at its documented cycles: tile rows, transposing conversion, residual rows, grouped
activations (R204, R212, R221, R222, R247). -/
namespace Sys2Proof.Machine

/-- The fields of a shape value (R204). -/
def shPitch (v : Dword) : Nat := field v 15 0
def shRows (v : Dword) : Nat := if field v 22 16 = 0 then 128 else field v 22 16
def shCols (v : Dword) : Nat := if field v 30 24 = 0 then 128 else field v 30 24
/-- What an operation of MTX that issues now holds (R180, R193). -/
def Core.mtxHolds (c : Core) : Held := (c.engOf 1).holds
/-- Replace the matrix engine. -/
def Core.modMtx (c : Core) (f : MtxUnit → MtxUnit) : Core := { c with mtx := f c.mtx }

/-- An element with its lowest bytes replaced. -/
def mergeElem (old : Elem) (bs : List Byte) : Elem :=
  BitVec.ofNat 32 (ofBytes bs + old.toNat / 256 ^ bs.length * 256 ^ bs.length)
/-- Write n elements of bytes from a key on; the last may be partial. -/
def putElems (st : Store Elem) (k : Nat) (bs : List Byte) : Nat → Store Elem
  | 0 => st
  | n + 1 => putElems (Store.set 0 st k (mergeElem (Store.get 0 st k) (bs.take 4))) (k + 1) (bs.drop 4) n
/-- Bytes are written into tile m from byte at_ on, a multiple of 4 (R203). -/
def Core.doTile (c : Core) (m at_ : Nat) (bs : List Byte) : Core :=
  c.modMtx fun u => { u with tile := putElems u.tile (16384 * m + at_ / 4) bs ((bs.length + 3) / 4) }
/-- The words of a row are read; they enter the tile in the next cycle. -/
def Core.doRow (c : Core) (pos : Nat) (keys : List Nat) (m at_ : Nat) : Core :=
  c.laterAt 1 pos 1 (.tile m at_ (keys.flatMap fun k => c.scratch.readBytes k 4))
/-- Element (r, j) of a tile. -/
def MtxUnit.tileAt (u : MtxUnit) (m k : Nat) : Elem := Store.get 0 u.tile (16384 * m + k)

/-! ### MTRN (R222) -/

/-- Bytes of a source element, width of the mantissas, bytes of a block. -/
def trnSize (conv : Nat) : Nat := if conv = 2 then 2 else 4
def trnW (conv : Nat) : Nat := if conv = 0 then 8 else 16
def trnBlock (conv : Nat) : Nat := 4 * (trnW conv + 1)
/-- Source row i as FP32 values, flushed, a NaN as the canonical one (R178, R222). -/
def Core.trnSource (c : Core) (j : TrnJob) (i : Nat) : List Elem :=
  let z := trnSize j.conv
  (List.range (shCols j.shape)).map fun k =>
    let b := c.scratch.readNat (j.src + i * shPitch j.shape + z * k) z
    canon (flush j.cfg.ftzi (if j.conv = 2 then bf16ToF32 (BitVec.ofNat 16 b) else BitVec.ofNat 32 b))
/-- Column k of the staged rows from row 32 kb on, padded to 32 values. -/
def TrnJob.column (j : TrnJob) (kb k : Nat) : List Elem :=
  (List.range 32).map fun i => ((j.rows.getD (32 * kb + i) []).getD k 0)
/-- The blocks of a job: kb, column, block. -/
def TrnJob.blocks (j : TrnJob) : List (Nat × Nat × Block) :=
  (List.range ((shRows j.shape + 31) / 32)).flatMap fun kb =>
    (List.range 128).map fun k => (kb, k, quantBlock (j.column kb k) (trnW j.conv))
/-- Every row has been staged: the rest of the tile becomes +0, and the writes and the update become due. -/
def Core.trnEnd (c : Core) (j : TrnJob) : Core :=
  let n := shRows j.shape
  let bs := j.blocks
  let w := trnW j.conv
  let c1 := bs.foldl (fun c p => c.laterAt 1 j.pos (j.start + n + 8 + p.2.1 - c.now)
    (.write false (j.dst + p.1 * 128 * trnBlock j.conv + p.2.1 * trnBlock j.conv) (p.2.2.bytes w))) c
  let m := if j.amx then amaxOf j.rows.flatten (0, false) else (0, false)
  let c2 := c1.laterAt 1 j.pos (j.start + n + 135 - c.now) (.mflags m.1 m.2 (bs.any fun p => p.2.2.sat))
  c2.modMtx fun u => { u with
    trn := none
    tile := Store.fill 0 u.tile (16384 * j.m + 128 * n) (128 * (128 - n)) fun _ => 0 }
/-- A source row of the running MTRN is read and staged. -/
def Core.doTrn (c : Core) (i : Nat) : Core :=
  match c.mtx.trn with
  | none => c
  | some j =>
    let row := c.trnSource j i
    let j1 := { j with rows := j.rows ++ [row] }
    let c1 := c.modMtx fun u => { u with
      trn := some j1, tile := Store.fill 0 u.tile (16384 * j.m + 128 * i) 128 fun e => row.getD (e % 128) 0 }
    if i + 1 < shRows j.shape then c1 else c1.trnEnd j1

/-! ### Residual rows, flags, grouped activations (R189, R213, R247) -/

/-- A residual row of the running drain is read. -/
def Core.doResid (c : Core) (key n : Nat) : Core :=
  c.modMtx fun u => { u with job := u.job.map fun j => { j with rows := j.rows ++ [c.scratch.readBytes key n] } }
/-- The MX running maximum and its flags are updated. -/
def Core.doFlags (c : Core) (mx : Elem) (nan sat : Bool) : Core :=
  c.modMtx fun u => { u with
    amax := if u.amax.toNat < mx.toNat then mx else u.amax, nan := u.nan || nan, sat := u.sat || sat }
/-- The output of a row total (R247): its word, and whether it was saturated. -/
def gvOut (fw : Dword) (ftzo : Bool) (t : Int) : Elem × Bool :=
  if fwOfmt fw = 4 then
    let y := clampInt (-2147483648) 2147483647 t
    (wrap32 y, y != t)
  else (flush ftzo (roundRat 0 (decide (t < 0)) (t.natAbs * (256 + fwFa fw) * (256 + fwFb fw)) 1 (fwEa fw + fwEb fw - 16)), false)
/-- One step of a chunk's activations. -/
def Core.doAct (c : Core) (pos : Nat) (x : GvStep) : Core :=
  match c.mtx.gvp, c.mtx.gvc with
  | some p, some g =>
    match x with
    | .add v a =>
      let n := if g.wide then 2 else 1
      c.modMtx fun u => { u with gvp := some { p with total := p.total + v * signedNat (8 * n) (c.scratch.readNat a n) } }
    | .endRow =>
      let o := gvOut c.mtx.cfw p.cfg.ftzo p.total
      (c.modMtx fun u => { u with gvp := some { p with total := 0, orow := p.orow + 1, sat := p.sat || o.2 } }).laterAt 1 pos 3
        (.write false (p.out + 4 * p.orow) (toBytes 4 o.1.toNat))
  | _, _ => c
/-- The activations of a chunk are read. -/
def Core.doActs (c : Core) (pos : Nat) (xs : List GvStep) : Core := xs.foldl (fun c x => c.doAct pos x) c
/-- An MTX operation faults after issue: MTX stands stopped at its word, an MGO with its drain pending (R210), an MGVR at
the start of the faulting row (R249). -/
def Core.mtxFault (c : Core) (e : Nat) (cause : Byte) (eval : Dword) : Core :=
  ((c.modMtx fun u => { u with
    prog := u.prog.map fun p => { p with held := true }
    gvp := u.gvp.map fun p => { p with tok := p.start, st := {}, total := 0, orow := p.row, bad := false, held := true } }).rewind e).raise e cause eval

end Sys2Proof.Machine
end

