-- ==== Sys2Proof/Machine/Ctl.lean ====
section
/-! DEFINITION. Ctl.lean: the control core: arithmetic, constants, branches, handles, engine status (chapter 4). -/
namespace Sys2Proof.Machine

/-- A word writes one general register, or waits while the write log is full (R36). -/
def logged (s : State) (d : GReg) (n : Nat) (run : Out) : Out :=
  if d != 0 && !s.core.loggedHere d && !s.core.logRoom n then waitAt s 0 3 else run
/-- A word of CTL writes d := v, ready after lat cycles, with df from the registers it reads (R72, R76). -/
def aluWrite (c : Core) (d : GReg) (v : Dword) (m : Bool) (lat : Nat) : Core :=
  (c.writeG d v m (c.now + lat)).issueCtl (c.now + lat)
/-- The shape of the arithmetic words (R79, R80). -/
def aluWord (i : Instr) (d : GReg) (v : Dword) (m : Bool) (lat : Nat) (s : State) : Out :=
  gate i s (logged s d 1 (ok (s.mapCore fun c => aluWrite c d v m lat)))
/-- A register form of the ALU by its fn (R79). -/
def aluReg (i : Instr) (fn : Nat) (d a b : GReg) (lat : Nat) (s : State) : Out :=
  aluWord i d (aluFn fn (s.core.g a) (s.core.g b)) (s.core.df a || s.core.df b) lat s
/-- A form of the divider, which is busy until issue + 34 (R72). -/
def aluDivider (i : Instr) (fn : Nat) (d a b : GReg) (s : State) : Out :=
  gate i s (logged s d 1 (ok (s.mapCore fun c =>
    let c1 := aluWrite c d (aluFn fn (c.g a) (c.g b)) (c.df a || c.df b) 34
    { c1 with ctl := { c1.ctl with divFree := c.now + 34 } })))

/-- ADD (R79). -/
def execAdd (d a b : GReg) (s : State) : Out := aluReg (.add d a b) 0x00 d a b 1 s
/-- SUB (R79). -/
def execSub (d a b : GReg) (s : State) : Out := aluReg (.sub d a b) 0x01 d a b 1 s
/-- AND (R79). -/
def execAnd (d a b : GReg) (s : State) : Out := aluReg (.and d a b) 0x02 d a b 1 s
/-- OR (R79). -/
def execOr (d a b : GReg) (s : State) : Out := aluReg (.or d a b) 0x03 d a b 1 s
/-- XOR (R79). -/
def execXor (d a b : GReg) (s : State) : Out := aluReg (.xor d a b) 0x04 d a b 1 s
/-- SLL (R79). -/
def execSll (d a b : GReg) (s : State) : Out := aluReg (.sll d a b) 0x05 d a b 1 s
/-- SRL (R79). -/
def execSrl (d a b : GReg) (s : State) : Out := aluReg (.srl d a b) 0x06 d a b 1 s
/-- SRA (R79). -/
def execSra (d a b : GReg) (s : State) : Out := aluReg (.sra d a b) 0x07 d a b 1 s
/-- SLT (R79). -/
def execSlt (d a b : GReg) (s : State) : Out := aluReg (.slt d a b) 0x08 d a b 1 s
/-- SLTN (R79). -/
def execSltn (d a b : GReg) (s : State) : Out := aluReg (.sltn d a b) 0x09 d a b 1 s
/-- MIN (R79). -/
def execMin (d a b : GReg) (s : State) : Out := aluReg (.min d a b) 0x0A d a b 1 s
/-- MAX (R79). -/
def execMax (d a b : GReg) (s : State) : Out := aluReg (.max d a b) 0x0B d a b 1 s
/-- MINN (R79). -/
def execMinn (d a b : GReg) (s : State) : Out := aluReg (.minn d a b) 0x0C d a b 1 s
/-- MAXN (R79). -/
def execMaxn (d a b : GReg) (s : State) : Out := aluReg (.maxn d a b) 0x0D d a b 1 s
/-- MUL (R79). -/
def execMul (d a b : GReg) (s : State) : Out := aluReg (.mul d a b) 0x10 d a b 3 s
/-- MULH (R79). -/
def execMulh (d a b : GReg) (s : State) : Out := aluReg (.mulh d a b) 0x11 d a b 3 s
/-- MULHN (R79). -/
def execMulhn (d a b : GReg) (s : State) : Out := aluReg (.mulhn d a b) 0x12 d a b 3 s
/-- DIV (R79). -/
def execDiv (d a b : GReg) (s : State) : Out := aluDivider (.div d a b) 0x14 d a b s
/-- DIVN (R79). -/
def execDivn (d a b : GReg) (s : State) : Out := aluDivider (.divn d a b) 0x15 d a b s
/-- REM (R79). -/
def execRem (d a b : GReg) (s : State) : Out := aluDivider (.rem d a b) 0x16 d a b s
/-- REMN (R79). -/
def execRemn (d a b : GReg) (s : State) : Out := aluDivider (.remn d a b) 0x17 d a b s
/-- CLZ (R79). -/
def execClz (d a : GReg) (s : State) : Out := aluReg (.clz d a) 0x18 d a 0 1 s
/-- CTZ (R79). -/
def execCtz (d a : GReg) (s : State) : Out := aluReg (.ctz d a) 0x19 d a 0 1 s
/-- POPC (R79). -/
def execPopc (d a : GReg) (s : State) : Out := aluReg (.popc d a) 0x1A d a 0 1 s

/-- An immediate form by the ALU's fn and the extended immediate (R80). -/
def aluImm (i : Instr) (fn : Nat) (d a : GReg) (v : Dword) (s : State) : Out :=
  aluWord i d (aluFn fn (s.core.g a) v) (s.core.df a) 1 s
/-- ADDI (R80). -/
def execAddi (d a : GReg) (i : BitVec 13) (s : State) : Out := aluImm (.addi d a i) 0x00 d a (sextD i) s
/-- ANDI (R80). -/
def execAndi (d a : GReg) (i : BitVec 13) (s : State) : Out := aluImm (.andi d a i) 0x02 d a (zextD i) s
/-- ORI (R80). -/
def execOri (d a : GReg) (i : BitVec 13) (s : State) : Out := aluImm (.ori d a i) 0x03 d a (zextD i) s
/-- XORI (R80). -/
def execXori (d a : GReg) (i : BitVec 13) (s : State) : Out := aluImm (.xori d a i) 0x04 d a (zextD i) s
/-- SLLI (R80). -/
def execSlli (d a : GReg) (n : BitVec 6) (s : State) : Out := aluImm (.slli d a n) 0x05 d a (zextD n) s
/-- SRLI (R80). -/
def execSrli (d a : GReg) (n : BitVec 6) (s : State) : Out := aluImm (.srli d a n) 0x06 d a (zextD n) s
/-- SRAI (R80). -/
def execSrai (d a : GReg) (n : BitVec 6) (s : State) : Out := aluImm (.srai d a n) 0x07 d a (zextD n) s
/-- SLTI (R80). -/
def execSlti (d a : GReg) (i : BitVec 13) (s : State) : Out := aluImm (.slti d a i) 0x08 d a (sextD i) s
/-- LUI (R81). -/
def execLui (d : GReg) (i : BitVec 18) (s : State) : Out := aluWord (.lui d i) d (sextD i <<< 13) false 1 s
/-- SLOI (R82). -/
def execSloi (d a : GReg) (i : BitVec 13) (s : State) : Out :=
  aluWord (.sloi d a i) d ((s.core.g a <<< 13) ||| zextD i) (s.core.df a) 1 s

/-- The 128-bit value of a register pair (R88). -/
def Core.pair (c : Core) (r : GReg) : Nat := (c.g (r + 1)).toNat * 2 ^ 64 + (c.g r).toNat
/-- ADQ (R88). -/
def execAdq (d a : GReg) (s : State) : Out :=
  gate (.adq d a) s (logged s d 2 (ok (s.mapCore fun c =>
    let x := c.pair d + c.pair a
    let m := c.df d || c.df (d + 1) || c.df a || c.df (a + 1)
    aluWrite (c.writeG d (dw x) m (c.now + 1)) (d + 1) (dw (x / 2 ^ 64)) m 1)))

/-! ### Steering words (R33, R83 to R86, R312) -/

/-- Whether a steering word can post: no other engine's outcome queue would be full (R33). A full queue holds the issue of the word, as
wait code 0x03 has it (Table 6-2), and outcomes that have not retired yet count as entries, so that no retirement waits. DEDUCED (log
entry 90). -/
def Core.steerRoom (c : Core) : Bool :=
  c.trap.tl || c.engines.all fun e => e == 0 || (c.engOf e).exited ||
    decide ((c.engOf e).outcomes.length + (c.ctl.retq.filter fun x => x.outc.isSome).length < 64)
/-- A steering word issues: its outcome goes to the retire queue, and CTL follows it (R32, R33). -/
def Core.steer (c : Core) (t : Option TextAddr) : Core :=
  let c1 := (c.toRetire (c.now + 1) none (some (match t with
    | some a => .taken a
    | none => .notTaken))).issueAs 0 1 60 (c.lateness 0 0)
  match t with
  | some a => (c1.goTo 0 a).modEng 0 fun x => { x with passAt := c.now + 2 }
  | none => c1.goTo 0 ((c.engOf 0).pc + 1)
/-- A steering word that would take user-mode CTL into the firmware bank takes cause 0x05 (R312). -/
def toBank (c : Core) (t : Option TextAddr) : Option TextAddr :=
  match t with
  | some a => if a.toNat ≥ 63488 && !c.trap.mode then some a else none
  | none => none
/-- Waits and checks of a steering word. -/
def steerWord (t : Option TextAddr) (s : State) (run : Out) : Out :=
  match toBank s.core t with
  | some a => trapAt s 0 5 (zextD a)
  | none => if s.core.steerRoom then run else waitAt s 0 3
/-- A conditional branch by its OP (R83). -/
def branchWord (i : Instr) (op : Nat) (a b : GReg) (o : BitVec 13) (s : State) : Out :=
  let t := if condFn op (s.core.g a) (s.core.g b) then some (branchTarget (s.core.engOf 0).pc o) else none
  gate i s (unmarked s 0 [a, b] (steerWord t s (ok (s.mapCore fun c => c.steer t))))
/-- BEQ (R83). -/
def execBeq (a b : GReg) (o : BitVec 13) (s : State) : Out := branchWord (.beq a b o) 0x0C a b o s
/-- BNE (R83). -/
def execBne (a b : GReg) (o : BitVec 13) (s : State) : Out := branchWord (.bne a b o) 0x0D a b o s
/-- BLT (R83). -/
def execBlt (a b : GReg) (o : BitVec 13) (s : State) : Out := branchWord (.blt a b o) 0x0E a b o s
/-- BGE (R83). -/
def execBge (a b : GReg) (o : BitVec 13) (s : State) : Out := branchWord (.bge a b o) 0x0F a b o s
/-- BLTN (R83). -/
def execBltn (a b : GReg) (o : BitVec 13) (s : State) : Out := branchWord (.bltn a b o) 0x10 a b o s
/-- BGEN (R83). -/
def execBgen (a b : GReg) (o : BitVec 13) (s : State) : Out := branchWord (.bgen a b o) 0x11 a b o s
/-- The link value of a jump (R84). -/
def linkOf (c : Core) : Dword := zextD ((c.engOf 0).pc + 1)
/-- JAL (R84). -/
def execJal (d : GReg) (o : BitVec 18) (s : State) : Out :=
  let t := branchTarget (s.core.engOf 0).pc o
  gate (.jal d o) s (steerWord (some t) s (logged s d 1 (ok (s.mapCore fun c =>
    (c.writeG d (linkOf c) false (c.now + 1)).steer (some t)))))
/-- JALR (R85). -/
def execJalr (d a : GReg) (i : BitVec 13) (s : State) : Out :=
  let t : Int := (s.core.g a).toInt + i.toInt
  gate (.jalr d a i) s (unmarked s 0 [a] (
    if t < 0 ∨ 65535 < t then trapAt s 0 5 (wrap64 t)
    else
      let p := BitVec.ofNat 16 t.toNat
      steerWord (some p) s (logged s d 1 (ok (s.mapCore fun c =>
        (c.writeG d (linkOf c) false (c.now + 1)).steer (some p))))))
/-- CHK (R86). -/
def execChk (a : GReg) (o : BitVec 13) (s : State) : Out :=
  let t := if s.core.df a then some (branchTarget (s.core.engOf 0).pc o) else none
  gate (.chk a o) s (steerWord t s (ok (s.mapCore fun c => c.steer t)))

/-- ILL (R44): cause 0x01 with reason 0. -/
def execIll (n : BitVec 23) (s : State) : Out := decodeTrap s (encode (.ill n)) 1 0
/-- UNASSIGNED_OPCODE (R38, R40, R45): check 1, then check 2. -/
def execUnassignedOpcode (w : Word) (s : State) : Out :=
  if engField w != 7 && !s.core.has (engField w).toNat then decodeTrap s w 2 0 else decodeTrap s w 1 0

/-! ### Engine status (R89) -/

/-- The status of Table 4-7, for a reader at position p, as it stood at the end of the previous cycle. -/
def Core.engineStatus (c : Core) (e p : Nat) : Dword :=
  let x := c.engOf e
  let v := c.seen.getD e ([], 0)
  dw (bit (v.1.all fun q => decide (p ≤ q)) + 2 * bit (c.stoodStopped e) + 4 * bit x.exited + 256 * v.2.toNat
    + 2 ^ 16 * min x.lateMax 65535 + 2 ^ 32 * min v.1.length 65535)
/-- RDE (R89). -/
def execRde (d : GReg) (e : BitVec 3) (s : State) : Out :=
  let p := (s.core.engOf 0).pos
  gate (.rde d e) s (
    if !s.core.hasPassed e.toNat p then waitAt s 0 0x0F
    else logged s d 1 (ok (s.mapCore fun c =>
      (aluWrite c d (c.engineStatus e.toNat p) false 1).atEnd (.lateReset e.toNat))))

/-! ### Handles (R93 to R99) -/

/-- A handle operand h:w of engine e (R94): a fault, a wait, or the word runs on. -/
def withHandle (s : State) (e : Nat) (h : HReg) (w : Nat) (producer : Bool) (run : Out) : Out :=
  match s.core.handleFault h w with
  | some ev => trapAt s e 5 ev
  | none =>
    if w ≤ (if producer then (s.core.hnd h).free else (s.core.hnd h).fill) then run else waitAt s e 1
/-- HDEF (R97). -/
def execHdef (h : HReg) (k : BitVec 6) (a : GReg) (l : BitVec 4) (s : State) : Out :=
  gate (.hdef h k a l) s (unmarked s 0 [a] (
    let v := s.core.g a
    let sz := 2 ^ (l.toNat + 6)
    if v.toNat % sz ≠ 0 then trapAt s 0 4 v
    else if v.toNat + sz * (k.toNat + 1) > s.core.size then trapAt s 0 5 (handleEval h 3)
    else ok (s.mapCore fun c => (c.issueCtl (c.now + 1)).atEnd (.hdef h (v.setWidth 24) l k))))
/-- HADV.C (R98). -/
def execHadvC (h : HReg) (w : BitVec 6) (s : State) : Out :=
  gate (.hadvC h w) s (withHandle s 0 h w.toNat false
    (ok (s.mapCore fun c => (c.issueCtl (c.now + 1)).atEnd (.release 0 h w.toNat))))
/-- HADV.P (R98). -/
def execHadvP (h : HReg) (w : BitVec 6) (s : State) : Out :=
  gate (.hadvP h w) s (withHandle s 0 h w.toNat true
    (ok (s.mapCore fun c => (c.issueCtl (c.now + 1)).atEnd (.commit 0 h w.toNat))))
/-- Handle state (Table 4-12). -/
def Handle.status (x : Handle) : Dword :=
  if !x.defined then 0 else
    dw (x.fill + x.free * 2 ^ 8 + x.pidx * 2 ^ 16 + x.cidx * 2 ^ 24 + x.lsz.toNat * 2 ^ 30 + x.cntm1.toNat * 2 ^ 34
      + x.base.toNat * 2 ^ 40)
/-- HRD (R99). -/
def execHrd (h : HReg) (d : GReg) (s : State) : Out :=
  aluWord (.hrd h d) d (s.core.hnd h).status false 1 s

end Sys2Proof.Machine
end

