-- ==== Sys2Proof/Machine/LoadStore.lean ====
section
/-! DEFINITION. LoadStore.lean: loads, stores, atomics and queue transfers, and the performing of accesses in scratch
(chapter 5). -/
namespace Sys2Proof.Machine

/-! ### Effects that are due in scratch (R124, R143) -/

/-- Whether an effect only reads. -/
def LocalEff.reads : LocalEff → Bool
  | .ctl (.load _ _ _ _) _ _ _ => true
  | .ctl (.own _ _) _ _ _ => true
  | .beat _ _ => true
  | .row _ _ _ => true
  | .trnRow _ => true
  | .resid _ _ => true
  | .acts _ => true
  | .beats _ _ => true
  | .podData _ _ => true
  | .atEnd _ => true
  | .members _ _ _ _ => true
  | _ => false
/-- The turn of an effect within its cycle: writes in ascending engine number, then reads (R140). An atomic, which both reads and
writes, takes its turn among the writes of CTL (DESIGN CHOICE, log entry 74). -/
def LocalOp.rank (o : LocalOp) : Nat := if o.eff.reads then 8 else match o.eff with
  | .fault _ _ => 9
  | _ => o.eng
/-- Whether an effect takes its turn before another: by cycle, rank and issue order (R140, R167). -/
def LocalOp.before (x y : LocalOp) : Bool :=
  decide (x.due < y.due) || (x.due == y.due && (decide (x.rank < y.rank) || (x.rank == y.rank &&
    (decide (x.seq < y.seq) || (x.seq == y.seq && decide (x.pos ≤ y.pos))))))
/-- The due effect whose turn comes first, and the others. -/
def firstDue (now : Nat) : List LocalOp → Option (LocalOp × List LocalOp)
  | [] => none
  | x :: t =>
    match firstDue now t with
    | none => if x.due ≤ now then some (x, t) else none
    | some (y, r) =>
      if x.due ≤ now ∧ x.before y then some (x, t) else some (y, x :: r)
/-- A load queue with bytes added. -/
def VecUnit.pushLq (v : VecUnit) (q : Nat) (bs : List Byte) : VecUnit := { v with lq := v.lq.setIfInBounds q (v.lq.getD q [] ++ bs) }
/-- Whether a beat of a block issued earlier into a load queue has not entered it yet (R124). -/
def Core.blockAhead (c : Core) (q : BitVec 2) (seq : Nat) : Bool :=
  c.fly.any fun o => decide (o.seq < seq) && (match o.eff with
    | .beat r _ => r == q
    | .enter r _ => r == q
    | _ => false)
/-- What an effect writes: of scratch, of die-shared scratch, or of tile m. -/
def LocalEff.writes : LocalEff → Option (Nat × Nat × Nat)
  | .write sh k bs => some (bit sh, k, bs.length)
  | .tile m at_ bs => some (2 + m, at_, bs.length)
  | _ => none
/-- The cycle up to which a write of MTX waits for those of words that MTX issued before it, where they meet at a location: they take effect
in the order of issue (R141). The cycles of Table 9-5 and R213 give no such order to drains of different ROWS: a write that they would put
first comes after the other, in its cycle. DEDUCED (log entry 96). -/
def Core.writesBefore (c : Core) (o : LocalOp) : Option Nat :=
  if o.eng != 1 then none else
    (c.fly.filterMap fun x => match o.eff.writes, x.eff.writes with
      | some a, some b =>
        if x.eng == 1 && decide (x.pos < o.pos) && a.1 == b.1 && decide (a.2.1 < b.2.1 + b.2.2) && decide (b.2.1 < a.2.1 + a.2.2) &&
            decide (c.now < x.due) then some x.due else none
      | _, _ => none).max?
/-- Whether numbers rise strictly. -/
def rises : List Nat → Bool
  | [] => true
  | [_] => true
  | a :: b :: t => decide (a < b) && rises (b :: t)
/-- Whether the ids of a member table are valid: within their range, in order, and the package's own among them (R308). -/
def idsOk (own : Nat) (ids : List Nat) : Bool := rises ids && ids.all (fun i => decide (i ≤ 8191)) && (ids.isEmpty || ids.contains own)
/-- The CLV parameter form of EVAL (R308). -/
def clvEval (kind : Nat) : Dword := dw (kind * 16 + 0x05 * 2 ^ 48 + 0xFF * 2 ^ 56)
/-- The next 32 ids of a CGRP's table are read; after the last the group is bound at the end of the cycle, or its kind 4 raised. Where a
later CLV word has issued by then, the fault is raised asynchronously (R308; DESIGN CHOICE, log entry 53). -/
def State.doMembers (s : State) (pos : Nat) (g : BitVec 3) (a j m : Nat) : State :=
  let c := s.core
  let old := ((c.ids.find? fun p => p.1 == pos).map Prod.snd).getD []
  let all := old ++ (List.range (min 32 (m - 32 * j))).map fun k => c.scratch.readNat (a + 2 * (32 * j + k)) 2
  let rest := c.ids.filter fun p => p.1 != pos
  if 32 * j + 32 ≤ m then s.mapCore fun c => { c with ids := (pos, all) :: rest }
  else
    let s1 := s.mapCore fun c => { c with ids := rest }
    if idsOk s.pkgid.toNat all then { s1 with atWrap := s1.atWrap ++ [.bind c.ctx g (all.map fun i => BitVec.ofNat 13 i)] }
    else if (c.engOf 6).lastPos = pos then s1.mapCore fun c => (c.rewind 6).raise 6 5 (clvEval 4)
    else s1.mapCore fun c => c.post 5 6 (clvEval 4)
/-- The ring of a handle as an arrival of this cycle finds it: the arrivals before it have taken their slots. -/
def Core.ringNow (c : Core) (h : HReg) : Handle :=
  (c.eoc.filter fun x => match x with
    | .arrive _ g _ (some _) => g == h
    | _ => false).foldl (fun x _ => x.commit 1) (c.hnd h)
/-- A push lands (R290): its bytes perform in the slot that it will fill, and the fill rises at the end of the cycle. A release of this very
cycle may still make room in a full ring, so its bytes stand there meanwhile too, and its turn at the end of the cycle decides (DEDUCED,
log entry 94). -/
def Core.doArrive (c : Core) (k : CoreId) (h : HReg) (bs : List Byte) : Core :=
  let x := c.ringNow h
  let a := x.slotAt x.pidx
  if x.defined && decide (bs.length ≤ x.slot) then
    { c with scratch := c.scratch.writeBytes a bs }.atEnd (.arrive k h bs (some (a, c.scratch.readBytes a bs.length)))
  else c.atEnd (.arrive k h bs none)
/-- An effect of the core that moves performs; the end of a collective is State.collDone's (R310). -/
def State.doLocal (s : State) (o : LocalOp) : State :=
  let c := s.core
  match o.eff with
  | .ctl op shared key addr =>
    let p : Place := if shared then .shared key else .scratch key
    let (s1, v) := s.performOp c.id op p addr.toNat
    let rdy := c.now + (if shared then 2 else 1)
    match op with
    | .load d tag _ _ => s1.mapCore fun c => c.fillG d tag v false rdy
    | .own d tag => s1.mapCore fun c => c.fillG d tag v false rdy
    | .amo d tag _ _ _ _ => s1.mapCore fun c => c.fillG d tag v false (rdy + 1)
    | .store _ _ => s1
    | .wait _ _ => s1
  | .write shared key bs =>
    if shared then { s with dsh := s.dsh.writeBytes key bs } else { s with core := { c with scratch := c.scratch.writeBytes key bs } }
  | .copy ch g a bs =>
    (s.copyWrite c g a bs).mapCore fun c => c.modCh ch fun h => { h with snap := h.snap.map fun x => { x with nwrit := x.nwrit + 1 } }
  | .status key v => { s with core := { c with scratch := c.scratch.writeNat key 8 v.toNat } }
  | .arrive k h bs => s.mapCore fun c => c.doArrive k h bs
  | .beat q key =>
    s.mapCore fun c => { c with fly := c.fly ++ [{ o with due := c.now + 2, eff := .enter q (c.scratch.readBytes key 64) }] }
  | .enter q bs =>
    if c.blockAhead q o.seq then s.mapCore fun c => { c with fly := c.fly ++ [{ o with due := c.now + 1 }] }
    else s.mapCore fun c => { c with vec := c.vec.pushLq q.toNat bs }
  | .row keys m at_ => s.mapCore fun c => c.doRow o.pos keys m at_
  | .tile m at_ bs => s.mapCore fun c => c.doTile m at_ bs
  | .trnRow i => s.mapCore fun c => c.doTrn i
  | .resid key n => s.mapCore fun c => c.doResid key n
  | .mflags mx nan sat => s.mapCore fun c => c.doFlags mx nan sat
  | .acts xs => s.mapCore fun c => c.doActs o.pos xs
  | .texp m t => s.mapCore fun c => c.modMtx fun u => { u with texp := u.texp.setIfInBounds m t }
  | .fault cause ev => s.mapCore fun c => c.mtxFault o.eng cause ev
  | .beats key n =>
    let add (p : PushRec) : PushRec := if p.pos = o.pos then { p with got := p.got ++ c.scratch.readBytes key n } else p
    s.mapCore fun c => { c with lnk := { c.lnk with sends := c.lnk.sends.map add } }
  | .podData key n =>
    let bs := c.scratch.readBytes key n
    let add (p : PodRec) : PodRec :=
      if p.eng != 4 || p.pos != o.pos then p else match p.kind with
        | .put len old => { p with kind := .put len (old ++ bs) }
        | .atomic op w d x _ => { p with kind := .atomic op w d x (dw (ofBytes bs)) }
        | _ => p
    s.mapCore fun c => { c with lnk := { c.lnk with podq := c.lnk.podq.map add } }
  | .atEnd x => s.mapCore fun c => c.atEnd x
  | .members g a j m => s.doMembers o.pos g a j m
  | .collEnd _ _ => s

/-- Ranges of scratch and of die-shared scratch take other contents. -/
def State.overlay (s : State) (l : List (Bool × Nat × List Byte)) : State :=
  l.foldl (fun s p => if p.1 then { s with dsh := s.dsh.writeBytes p.2.1 p.2.2 }
    else s.mapCore fun c => { c with scratch := c.scratch.writeBytes p.2.1 p.2.2 }) s
/-- What stands in ranges of scratch and of die-shared scratch. -/
def State.standing (s : State) (l : List (Bool × Nat × Nat)) : List (Bool × Nat × List Byte) :=
  l.map fun p => (p.1, p.2.1, (if p.1 then s.dsh else s.core.scratch).readBytes p.2.1 p.2.2)
/-- An effect performs; a read that a freeze has caught finds what it would have found with no freeze (R322). -/
def State.doHeld (s : State) (o : LocalOp) : State :=
  if o.seen.isEmpty then s.doLocal o
  else
    let was := s.standing (o.seen.map fun p => (p.1, p.2.1, p.2.2.length))
    let t := (s.overlay o.seen).doLocal { o with seen := [] }
    if o.eff.reads then t.overlay was else t

/-! ### Sending an access (R106, R108) -/

/-- An operation enters the pod queue (R297). -/
def Core.enqueue (c : Core) (e pos : Nat) (pkg : BitVec 13) (remote : Dword) (k : PodKind) : Core :=
  let r : PodRec := {
    num := c.lnk.next, eng := BitVec.ofNat 3 e, pos := pos, pkg := pkg, remote := remote, kind := k, off := 0, failed := false }
  { c with lnk := { c.lnk with podq := c.lnk.podq ++ [r], next := c.lnk.next + 1 } }
/-- An access is sent to its memory: in scratch it performs at its offset, to stage memory it enters its route, to a pod
it enters the pod queue. -/
def State.send (s : State) (x : Access) (op : MemOp) : State :=
  let c := s.core
  let pos := (c.engOf 0).pos
  match x.place with
  | .scratch k => s.mapCore fun c => c.later 0 2 (.ctl op false k (dw x.addr))
  | .shared k => s.mapCore fun c => c.later 0 6 (.ctl op true k (dw x.addr))
  | .stage home _ =>
    let r := match s.ctx with
      | some cx => cx.routeTo c.site (Config.bfSite home)
      | none => []
    s.sendOff 0 (.req op) x.addr r (flightDue r s.clock)
  | .pod pkg _ =>
    let k : PodKind := match op with
      | .load d tag _ _ => .load d tag
      | .store n v => .put n (toBytes n v.toNat)
      | _ => .put 0 []
    (s.mapCore fun c => c.enqueue 0 pos (BitVec.ofNat 13 pkg) (dw x.addr) k).askFabric 0 (BitVec.ofNat 13 pkg) (dw x.addr) 8
  | _ => s
/-- The waits of an access of engine e that passed its checks, lowest code first (R107): watermarks, pages that move, the
request limit and the residue queue. -/
def accessWaits (s : State) (e : Nat) (x : Access) (n : Nat) (run : Out) : Out :=
  if s.core.underCopy x.addr n then waitAt s e 5
  else if (match s.ctx with
    | some cx => cx.busyAt x.addr n
    | none => false) then waitAt s e 6
  else if (match x.place with
    | .stage home _ => decide (16 ≤ s.requests s.core) || (match s.ctx with
      | some cx => !s.queueRoom (cx.routeTo s.core.site (Config.bfSite home))
      | none => false)
    | .pod _ _ => decide (16 ≤ s.requests s.core)
    | _ => false) then waitAt s e 7
  else run

/-! ### Loads (R119, R120, R87) -/

/-- A load issues: d waits for the answer under a tag (R119). -/
def State.sendLoad (s : State) (d : GReg) (x : Access) (op : Nat → MemOp) : State :=
  let tag := s.core.ctl.tags
  ((s.send x (op tag)).mapCore fun c =>
    (((c.awaitG d).nextTag).toRetire (c.now + 1) (if d = 0 then none else some tag) none).issue 0 1 60)
/-- The shape of the loads: n bytes, an access kind and the request. -/
def loadWord (i : Instr) (d a : GReg) (imm : BitVec 13) (acc : Acc) (n : Nat) (op : Nat → MemOp) (s : State) : Out :=
  gate i s (unmarked s 0 [a] (
    match s.checkAccess s.core acc n (effAddr (s.core.g a) imm) with
    | .error (cause, ev) => trapAt s 0 cause ev
    | .ok x => logged s d 1 (accessWaits s 0 x n (ok (s.sendLoad d x op)))))
/-- LDB (R119). -/
def execLdb (d a : GReg) (i : BitVec 13) (s : State) : Out := loadWord (.ldb d a i) d a i .load 1 (fun t => .load d t 1 true) s
/-- LDBN (R119). -/
def execLdbn (d a : GReg) (i : BitVec 13) (s : State) : Out := loadWord (.ldbn d a i) d a i .load 1 (fun t => .load d t 1 false) s
/-- LDH (R119). -/
def execLdh (d a : GReg) (i : BitVec 13) (s : State) : Out := loadWord (.ldh d a i) d a i .load 2 (fun t => .load d t 2 true) s
/-- LDHN (R119). -/
def execLdhn (d a : GReg) (i : BitVec 13) (s : State) : Out := loadWord (.ldhn d a i) d a i .load 2 (fun t => .load d t 2 false) s
/-- LDW (R119). -/
def execLdw (d a : GReg) (i : BitVec 13) (s : State) : Out := loadWord (.ldw d a i) d a i .load 4 (fun t => .load d t 4 true) s
/-- LDWN (R119). -/
def execLdwn (d a : GReg) (i : BitVec 13) (s : State) : Out := loadWord (.ldwn d a i) d a i .load 4 (fun t => .load d t 4 false) s
/-- LDD (R119). -/
def execLdd (d a : GReg) (i : BitVec 13) (s : State) : Out := loadWord (.ldd d a i) d a i .load 8 (fun t => .load d t 8 false) s
/-- LDO (R120). -/
def execLdo (d a : GReg) (i : BitVec 13) (s : State) : Out :=
  loadWord (.ldo d a i) d a i .own (s.ownSize s.core (effAddr (s.core.g a) i).toNat) (fun t => .own d t) s
/-- What LDS finds at its address: an access, or a deferral (R87). -/
def ldsAccess (s : State) (a : GReg) (i : BitVec 13) : Option Access :=
  if s.core.df a then none else
    match s.checkAccess s.core .load 8 (effAddr (s.core.g a) i) with
    | .error _ => none
    | .ok x => match x.place with
      | .pod _ _ => none
      | _ => some x
/-- LDS (R87): a load that defers its fault by marking d. -/
def execLds (d a : GReg) (i : BitVec 13) (s : State) : Out :=
  gate (.lds d a i) s (
    match ldsAccess s a i with
    | none => logged s d 1 (ok (s.mapCore fun c => aluWrite c d 0 true 1))
    | some x => logged s d 1 (accessWaits s 0 x 8 (ok (s.sendLoad d x fun t => .load d t 8 false))))

/-! ### Stores and claims (R121, R116) -/

/-- The unloaded round trip of a claim, the load result offset of Table 5-4 (R116). -/
def State.claimTrip (s : State) (x : Access) : Nat :=
  match x.place with
  | .stage home _ =>
    match s.ctx with
    | some cx =>
      let q := cx.routeTo s.core.site (Config.bfSite home)
      let r := cx.routeTo (Config.bfSite home) s.core.site
      if q.isEmpty then 24 else 26 + routeCycles q + (26 + routeCycles r)
    | none => 24
  | .shared _ => 8
  | _ => 3
/-- Whether an access goes to a FAULT-rule region (R112). -/
def Access.claims (x : Access) : Bool :=
  match x.plane with
  | some d => d.collide == 1
  | none => false
/-- A claim leaves for the element's memory (R116). -/
def State.sendClaim (s : State) (x : Access) : State :=
  let c := s.core
  let tag := c.ctl.tags
  let r := match x.place, s.ctx with
    | .stage home _, some cx => cx.routeTo c.site (Config.bfSite home)
    | _, _ => []
  let due := match x.place with
    | .shared _ => s.clock + 6
    | _ => flightDue r s.clock
  (s.sendOff 0 (.claim tag) x.addr r due).mapCore fun c =>
    { c.nextTag with ctl := { c.nextTag.ctl with claim := some (tag, none) } }
/-- A store issues (R121); its lateness counts from `slack` on (R116). -/
def State.sendStore (s : State) (x : Access) (n : Nat) (v : Dword) (slack : Nat) : State :=
  (s.send x (.store n v)).mapCore fun c =>
    (({ c with ctl := { c.ctl with claim := none } }.toRetire (c.now + 1) none none).issueAs 0 1 60 (c.lateness 0 slack)).goTo 0
      ((c.engOf 0).pc + 1)
/-- The shape of the stores. -/
def storeWord (i : Instr) (t a : GReg) (imm : BitVec 13) (n : Nat) (s : State) : Out :=
  gate i s (unmarked s 0 [a, t] (
    match s.checkAccess s.core .store n (effAddr (s.core.g a) imm) with
    | .error (cause, ev) => trapAt s 0 cause ev
    | .ok x =>
      if x.claims then
        match s.core.ctl.claim with
        | some (_, some true) => accessWaits s 0 x n (ok (s.sendStore x n (s.core.g t) (s.claimTrip x)))
        | some (_, some false) =>
          .next (s.mapCore fun c => ({ c with ctl := { c.ctl with claim := none } }).raise 0 8 (dw x.addr))
        | some (_, none) => waitAt s 0 9
        | none => accessWaits s 0 x n (ok ((s.sendClaim x).mapCore fun c => c.noteWait 0 9))
      else accessWaits s 0 x n (ok (s.sendStore x n (s.core.g t) 0))))
/-- STB (R121). -/
def execStb (t a : GReg) (i : BitVec 13) (s : State) : Out := storeWord (.stb t a i) t a i 1 s
/-- STH (R121). -/
def execSth (t a : GReg) (i : BitVec 13) (s : State) : Out := storeWord (.sth t a i) t a i 2 s
/-- STW (R121). -/
def execStw (t a : GReg) (i : BitVec 13) (s : State) : Out := storeWord (.stw t a i) t a i 4 s
/-- STD (R121). -/
def execStd (t a : GReg) (i : BitVec 13) (s : State) : Out := storeWord (.std t a i) t a i 8 s
/-- By how much the deviation check of a word is put off: the round trip of a claim (R116, R130). While the store's base is not ready, the
value that the register still holds says which region it names (DESIGN CHOICE, log entry 73). -/
def slackOf (s : State) (i : Instr) : Nat :=
  let at_ (a : GReg) (imm : BitVec 13) (n : Nat) : Nat :=
    match s.checkAccess s.core .store n (effAddr (s.core.g a) imm) with
    | .ok x => if x.claims then s.claimTrip x else 0
    | .error _ => 0
  match i with
  | .stw _ a imm => at_ a imm 4
  | .std _ a imm => at_ a imm 8
  | _ => 0

/-! ### Atomics (R122) -/

/-- The shape of the atomics: the operation of Table 2-17. -/
def amoWord (i : Instr) (op : BitVec 3) (d a b : GReg) (w : BitVec 1) (s : State) : Out :=
  let n := amoBytes (w == 1)
  gate i s (unmarked s 0 (if op = 2 then [a, b, d] else [a, b]) (
    match s.checkAccess s.core .amo n (s.core.g a) with
    | .error (cause, ev) => trapAt s 0 cause ev
    | .ok x => logged s d 1 (accessWaits s 0 x n (ok (s.sendLoad d x fun t =>
        .amo d t op (w == 1) (s.core.g b) (s.core.g d))))))
/-- AADD (R122). -/
def execAadd (d a b : GReg) (w : BitVec 1) (s : State) : Out := amoWord (.aadd d a b w) 0 d a b w s
/-- ASWP (R122). -/
def execAswp (d a b : GReg) (w : BitVec 1) (s : State) : Out := amoWord (.aswp d a b w) 1 d a b w s
/-- ACAS (R122). -/
def execAcas (d a b : GReg) (w : BitVec 1) (s : State) : Out := amoWord (.acas d a b w) 2 d a b w s
/-- AMIN (R122). -/
def execAmin (d a b : GReg) (w : BitVec 1) (s : State) : Out := amoWord (.amin d a b w) 3 d a b w s
/-- AMAX (R122). -/
def execAmax (d a b : GReg) (w : BitVec 1) (s : State) : Out := amoWord (.amax d a b w) 4 d a b w s
/-- AAND (R122). -/
def execAand (d a b : GReg) (w : BitVec 1) (s : State) : Out := amoWord (.aand d a b w) 5 d a b w s
/-- AOR (R122). -/
def execAor (d a b : GReg) (w : BitVec 1) (s : State) : Out := amoWord (.aor d a b w) 6 d a b w s
/-- AXOR (R122). -/
def execAxor (d a b : GReg) (w : BitVec 1) (s : State) : Out := amoWord (.axor d a b w) 7 d a b w s

/-! ### Queue transfers (R123 to R125) -/

/-- Bytes of a block. -/
def blockBytes (k : BitVec 3) : Nat := 64 * 2 ^ k.toNat
/-- The address checks of a queue transfer (R123). -/
def queueAddr (s : State) (k : BitVec 3) (a : Dword) : Option (Byte × Dword) :=
  if a.toNat % 64 ≠ 0 then some (4, a)
  else if a.toNat + blockBytes k > s.core.size then some (5, a) else none
/-- Bytes issued into a load queue and not yet consumed (R124). -/
def Core.lqHeld (c : Core) (q : BitVec 2) : Nat :=
  (c.vec.lq.getD q.toNat []).length + 64 * (c.fly.filter fun o => match o.eff with
    | .beat r _ => r == q
    | .enter r _ => r == q
    | _ => false).length
/-- The beats of an LDQ, numbered so that every beat of a block goes before those of a later block (R124). -/
def Core.beats (c : Core) (q : BitVec 2) (a : Nat) : Nat → Core
  | 0 => c
  | j + 1 =>
    let c1 := c.beats q a j
    { c1 with fly := c1.fly ++ [{
        due := c.now + (2 + j), eng := 0, pos := (c.engOf 0).pos, eff := .beat q (a + 64 * j), seq := 128 * c.now + j }] }
/-- The beats of an STQ (R125). -/
def Core.puts (c : Core) (a : Nat) (bs : List Byte) : Nat → Core
  | 0 => c
  | j + 1 => (c.puts a bs j).later 0 (2 + j) (.write false (a + 64 * j) ((bs.drop (64 * j)).take 64))
/-- LDQ (R124). -/
def execLdq (k : BitVec 3) (q : BitVec 2) (a : GReg) (i : BitVec 13) (s : State) : Out :=
  gate (.ldq k q a i) s (unmarked s 0 [a] (
    let y := effAddr (s.core.g a) i
    match queueAddr s k y with
    | some (cause, ev) => trapAt s 0 cause ev
    | none =>
      if s.core.underCopy y.toNat (blockBytes k) then waitAt s 0 5
      else if s.core.lqHeld q + blockBytes k > 8192 then waitAt s 0 8
      else ok (s.mapCore fun c => (c.beats q y.toNat (2 ^ k.toNat)).issueCtl (c.now + 1))))
/-- STQ (R125). -/
def execStq (k : BitVec 3) (q : BitVec 2) (a : GReg) (i : BitVec 13) (s : State) : Out :=
  gate (.stq k q a i) s (unmarked s 0 [a] (
    let y := effAddr (s.core.g a) i
    let held := s.core.vec.sq.getD q.toNat []
    match queueAddr s k y with
    | some (cause, ev) => trapAt s 0 cause ev
    | none =>
      if s.core.underCopy y.toNat (blockBytes k) then waitAt s 0 5
      else if held.length < blockBytes k then waitAt s 0 8
      else ok (s.mapCore fun c =>
        ({ c.puts y.toNat held (2 ^ k.toNat) with
          vec := { c.vec with
            sq := c.vec.sq.setIfInBounds q.toNat (held.drop (blockBytes k))
            taken := c.vec.taken.setIfInBounds q.toNat (c.vec.taken.getD q.toNat 0 + blockBytes k) } }).issueCtl (c.now + 1))))

end Sys2Proof.Machine
end

