-- ==== Sys2Proof/Machine/Sync.lean ====
section
/-! DEFINITION. Sync.lean: the words addressed to every engine: steps, barriers, fences, the end of a program, modes,
bounds, windows, budgets and trace marks (R134, R149 to R155, R196, R197). The engine whose turn it is executes them. -/
namespace Sys2Proof.Machine

/-- The engine whose turn it is. -/
def Core.acting (c : Core) : Nat := c.turn.toNat
/-- Whether the interrupted code runs in user mode. -/
def Core.userPath (c : Core) : Bool := if c.trap.tl then !c.trap.pmode else !c.trap.mode
/-- An ALL word with no effect beyond its issue on engine e. -/
def passAll (s : State) (e : Nat) (i : Instr) : Out := ok (s.mapCore fun c =>
  if e = 0 then (c.toRetire (c.now + 1) none none).issue 0 1 60 else c.issue e 1 (wordDraw e i))
/-- An engine posts its marker at a STEP or BAR and stands there (R149, R150); CTL's word retires in its order (R73). -/
def Core.mark (c : Core) (e : Nat) (i : Instr) : Core :=
  ((if e = 0 then c.toRetire (c.now + 1) none none else c).issueAs e 1 (wordDraw e i) (c.lateness e 0)).modEng e fun x =>
    { x with marked := true }
/-- Every engine but CTL stands at its marker. -/
def Core.allMarked (c : Core) : Bool := c.engines.all fun e => e == 0 || (c.engOf e).marked

/-- STEP (R149): engines post markers; CTL arrives when every engine has, and every earlier operation has performed. -/
def execStep (r : BitVec 1) (g : BitVec 6) (sc : BitVec 3) (s : State) : Out :=
  let e := s.core.acting
  gate (.step r g sc) s (powered s e (.step r g sc) (
    if e ≠ 0 then ok (s.mapCore fun c => c.mark e (.step r g sc))
    else if s.core.allMarked && s.allPerformed s.core then
      ok (s.mapCore fun c => { c.mark 0 (.step r g sc) with
        bar := some { step := true, rs := r == 1, group := g, scope := sc, id := 0, arr := c.now, rel := none } })
    else waitAt s 0 0x0A))
/-- BAR (R150). -/
def execBar (f : BitVec 1) (n : BitVec 4) (sc : BitVec 3) (s : State) : Out :=
  let e := s.core.acting
  gate (.bar f n sc) s (powered s e (.bar f n sc) (
    if e ≠ 0 then ok (s.mapCore fun c => c.mark e (.bar f n sc))
    else if s.core.allMarked && (f == 0 || s.allPerformed s.core) then
      ok (s.mapCore fun c => { c.mark 0 (.bar f n sc) with
        bar := some { step := false, rs := false, group := 0, scope := sc, id := n, arr := c.now, rel := none } })
    else waitAt s 0 0x0A))
/-- FENCE.M (R151): an engine posts its marker by passing the word; CTL issues it and is held until it retires. At trap
level it acts on CTL alone (R134). -/
def execFenceM (m : BitVec 7) (s : State) : Out :=
  let e := s.core.acting
  gate (.fenceM m) s (powered s e (.fenceM m) (
    if e ≠ 0 then passAll s e (.fenceM m)
    else ok (s.mapCore fun c => if c.trap.tl then { c.issue 0 1 60 with ctl := { c.ctl with hfence := m.getLsbD 0 } } else
      let c1 := c.issueCtl (c.now + 1)
      { c1 with ctl := { c1.ctl with fence := some (m, (c.engOf 0).pos) } })))
/-- Whether a FENCE.M at position q retires: every named engine has posted its marker, and its earlier operations have
performed (R151). -/
def State.fenceDone (s : State) (c : Core) (m : BitVec 7) (q : Nat) : Bool :=
  c.engines.all fun e => !m.getLsbD e ||
    ((e == 0 || decide (q < (c.engOf e).pos) || (c.engOf e).exited) && s.openBefore c e q == 0)
/-- Whether the head of the retire queue is a FENCE.M that retires in this cycle: every CTL word before it has retired, its own turn has
come (R73), and what it waits for is done. -/
def State.fenceDue (s : State) (c : Core) : Bool :=
  match c.ctl.fence, c.ctl.retq with
  | some (m, q), r :: _ => c.ctl.fenceHead && decide (r.due ≤ c.now) && decide (c.ctl.lastRet < c.now) && s.fenceDone c m q
  | _, _ => false
/-- Whether the FENCE.M of a handler holds CTL still: an earlier word of the handler has no result yet, or an operation of CTL has not
performed (R134). -/
def State.hfenceHolds (s : State) (c : Core) : Bool :=
  let x := c.engOf 0
  !(s.opsOf c 0).isEmpty || decide (c.now < x.freeAt) ||
    c.ctl.retq.any fun r => decide (x.pos ≤ r.pos) && (r.tag.isSome || decide (c.now < r.due))
/-- The fences of CTL that retire in this cycle (R73, R134, R151). -/
def State.retireFence (s : State) : State :=
  let c := s.core
  let due := s.fenceDue c
  s.mapCore fun c => { c with ctl := { c.ctl with
    fence := if due then none else c.ctl.fence
    retq := if due then c.ctl.retq.drop 1 else c.ctl.retq
    lastRet := if due then c.now else c.ctl.lastRet
    hfence := c.ctl.hfence && s.hfenceHolds c } }
/-- EXIT (R152): the engine ends; it stays at the word. -/
def execExit (s : State) : Out :=
  let e := s.core.acting
  gate .exit s (powered s e .exit (ok (s.mapCore fun c =>
    ({ c with quit := c.quit || e == 0 }.issueAs e 1 (wordDraw e .exit) 0).modEng e fun x => { x with exited := true })))

/-- Apply a change to the engine that passes a word; at trap level to CTL and to every engine that is stopped (R134). -/
def Core.setMode (c : Core) (e : Nat) (f : Engine → Engine) : Core :=
  if c.trap.tl && e == 0 then
    (List.range 7).foldl (fun c n => if n = 0 ∨ c.trap.stopped.getLsbD n then c.modEng n f else c) c
  else c.modEng e f
/-- FPCW (R196). -/
def execFpcw (o i : BitVec 1) (r : BitVec 2) (s : State) : Out :=
  let e := s.core.acting
  gate (.fpcw o i r) s (powered s e (.fpcw o i r)
    (passAll (s.mapCore fun c => c.setMode e fun x => { x with mode := o ++ i ++ r }) e (.fpcw o i r)))
/-- BNDSET (R197). -/
def execBndset (n : BitVec 3) (a b : GReg) (k : BitVec 2) (s : State) : Out :=
  let e := s.core.acting
  gate (.bndset n a b k) s (unmarked s e [a, b] (powered s e (.bndset n a b k)
    (let v : Bound := { low := (s.core.rd e a).setWidth 32, high := (s.core.rd e b).setWidth 32, act := k }
     passAll (s.mapCore fun c => c.setMode e fun x => { x with bnd := x.bnd.setIfInBounds n.toNat v }) e (.bndset n a b k))))
/-- MARK (R155). In a handler, whose words have no schedule, the scheduled-cycle field holds what the position's stored cycle and the gap at
the handler's address give: the manual names no value. DESIGN CHOICE, log entry 85. -/
def execMark (v : BitVec 18) (s : State) : Out :=
  let e := s.core.acting
  gate (.mark v) s (powered s e (.mark v) (passAll (s.mapCore fun c =>
    if c.tracing then
      { c with trace := c.trace ++ [{ eng := c.turn, value := v, sched := c.schedOf e, issue := c.now, step := c.spr.stepcnt }] }
    else c) e (.mark v)))

/-- A word that user mode may not execute with this value is handled as a failed ALL word of cause 0x03 (R153, R154). CTL goes by its
present mode (R38), another engine by that of the path. One that finds CTL in the trap of the word, or that CTL has retired every word before
it and that the value is refused, waits there as R40 has it wait; any other runs on: the words join no engines (R34), and no wait of Table
6-2 holds it. DEDUCED (log entry 18). The check is that of the operand's value: it comes after the shared waits and the
deviation of the word, where the register is known (DEDUCED, log entry 88). -/
def userRefuse (s : State) (e : Nat) (i : Instr) (bad : Bool) (run : Out) : Out :=
  let c := s.core
  if e = 0 then (if !c.trap.mode && bad then decodeTrap s (encode i) 3 0 else run)
  else if !c.userPath || decide ((c.engOf e).pos < (c.engOf 0).pos) then run
  else if c.trap.tl && (c.engOf e).pos == (c.engOf 0).pos && c.trap.ceng == 7 && c.trap.cause == 3 then decodeTrap s (encode i) 3 0
  else if c.retiredBefore e && bad then decodeTrap s (encode i) 3 0
  else run
/-- LATEW (R153). The manual gives no order among the marked operand, the power check and the value check of this word: the
mark comes first (0x07), then the power (0x11), then the value (0x03). DEDUCED (log entry 88). -/
def execLatew (a : GReg) (m : BitVec 7) (s : State) : Out :=
  let e := s.core.acting
  let i := Instr.latew a m
  let w : BitVec 16 := (s.core.rd e a).setWidth 16
  let named (n : Nat) : Bool := m.getLsbD n && s.core.has n && (!atTrapLevel s.core || n == 0)
  let lates := s.core.ctl.lates
  let raises := (List.range 7).any fun n => named n && decide ((lates.getD n 0).toNat < w.toNat)
  gate i s (unmarked s e (regsOf e i) (powered s e i (userRefuse s e i raises
    (passAll (s.mapCore fun c =>
      let c1 := if named e then c.modEng e fun x => { x with late := w } else c
      if e = 0 then
        { c1 with ctl := { c1.ctl with lates := Vector.ofFn fun n => if named n.val then w else c1.ctl.lates.getD n.val 0 } }
      else c1) e i))))
/-- BUDG (R154), with its checks in the order of LATEW's (DEDUCED, log entry 88). -/
def execBudg (a : GReg) (s : State) : Out :=
  let e := s.core.acting
  let i := Instr.budg a
  let v := (s.core.rd e a).setWidth 32
  let cur := s.core.spr.budget
  let raises := cur != 0 && (v == 0 || decide (cur.toNat < v.toNat))
  gate i s (unmarked s e (regsOf e i) (powered s e i (userRefuse s e i raises (
    if e = 0 then passAll (s.mapCore fun c => c.atEnd (.event (.budgetWrite (zextD v)))) 0 i else passAll s e i))))

/-! ### Release and continue (R137 to R139, R149, R150) -/

/-- Cleat latency of a scope (R137). -/
def cleatCycles (sc : BitVec 3) : Nat := if sc = 2 then 8 else if sc = 3 then 20 else 80
/-- Members of the instance a core stands at, in this package (R12, R138). -/
def Context.barMembers (x : Context) (k : CoreId) (b : AtBar) : List CoreId :=
  if b.step then x.members b.group
  else x.cores.filter fun m =>
    match b.scope.toNat with
    | 2 => m.toNat / 16 == k.toNat / 16 && m.toNat % 16 / 4 == k.toNat % 16 / 4
    | 3 => m.toNat / 16 == k.toNat / 16
    | _ => true
/-- Whether two cores stand at the same instance. -/
def AtBar.same (a b : AtBar) : Bool := a.step == b.step && a.group == b.group && a.scope == b.scope && a.id == b.id
/-- Arrival cycles of the members of an instance; none when a member has not arrived. A retired core counts as arrived, in the
cycle in which it retired (R138; DEDUCED, log entry 69). -/
def State.arrivals (s : State) (b : AtBar) (ms : List CoreId) : Option (List Nat) :=
  ms.foldl (fun acc k =>
    match acc, s.coreAt k with
    | some l, some c =>
      if c.retired then some (c.retiredAt :: l) else
        match c.bar with
        | some y => if y.same b && y.rel.isNone then some (y.arr :: l) else none
        | none => none
    | some l, none => some l
    | none, _ => none) (some [])
/-- Whether the running step of a member is to be cancelled: no STEP closes it any more (R327). -/
def State.closesCancelled (s : State) (x : Context) (b : AtBar) (ms : List CoreId) : Bool :=
  b.step && ms.any fun k => (s.coreAt k).any fun c => x.cancels.contains (c.step.map fun t => t.1)
/-- The instance the moving core stands at has all its members, and at POD scope every package has reported (R137 to
R139): its greatest arrival cycle. -/
def State.releaseAt (s : State) : Option (AtBar × List CoreId × Nat) :=
  match s.core.bar, s.ctx with
  | some b, some x =>
    if b.rel.isSome ∨ s.closesCancelled x b (x.barMembers s.core.id b) then none else
      let ms := x.barMembers s.core.id b
      match s.arrivals b ms with
      | some l =>
        let pod := b.scope == 5 && !(s.podDone.contains (x.id, b.step, if b.step then b.group else b.id.setWidth 6))
        if pod then none else some (b, ms, l.foldl max 0)
      | none => none
  | _, _ => none
/-- Global cycle at which a unit of the moving core's context at site h reaches local cycle t (R126). -/
def State.globalOf (s : State) (h t : Nat) : Nat :=
  s.clock + t + siteOffset h - (s.core.now + siteOffset s.core.site)
/-- The greatest local cycle that a member of the moving core's context is in: local cycle numbers differ with the distance from
site 14 (R126). -/
def State.localMax (s : State) (ms : List CoreId) : Nat :=
  (ms.map fun k => s.core.now + siteOffset s.core.site - siteOffset (k.toNat / 16)).foldl max s.core.now
/-- CLEAT_RELEASE (R137, R149, R150): release and continue cycles of every member, and the swaps of the group. -/
def execCleatRelease (s : State) : Out :=
  match s.releaseAt, s.ctx with
  | some (b, ms, amax), some x =>
    let pod := b.scope == 5
    let rel := if pod then max (amax + 80) (s.localMax ms + 1) + Config.freeDelay s.free else amax + cleatCycles b.scope
    let dist (k : CoreId) : Nat := Config.capstan (k.toNat / 16)
    let dm := (ms.map dist).foldl max 0
    let cont (k : CoreId) : Nat := if b.step then rel + 4 + 4 * (dm - dist k) else rel
    let free := if pod then s.free + 1 else s.free
    let swapAt (h : Nat) : Nat := s.globalOf h (rel + 4 + 4 * (dm - Config.capstan h))
    let sw := if !b.step then [] else
      x.planes.zipIdx.flatMap fun p =>
        if p.1.group != b.group then []
        else if p.1.shared then
          ((ms.map fun k => k.toNat / 16).eraseDups).map fun h => (x.id, p.2, h, swapAt h)
        else
          match x.entryAt p.1.vbase.toNat with
          | some e => let h := Config.bfSite e.home; [(x.id, p.2, h, swapAt h)]
          | none => []
    let s1 := ms.foldl (fun s k => s.modCore k fun c =>
      match c.bar with
      | some y => if y.same b then { c with bar := some { y with rel := some (rel, cont k) } } else c
      | none => c) s
    ok { s1 with
      swaps := s1.swaps ++ sw, free := free
      podDone := s1.podDone.filter fun p => p != (x.id, b.step, if b.step then b.group else b.id.setWidth 6) }
  | _, _ => ok s
/-- The POD instance that a core stands at and that no package exchange has completed yet. -/
def State.podBarOf (s : State) (c : Core) : Option (CtxId × Bool × BitVec 6) :=
  c.bar.bind fun b =>
    let q := (c.ctx, b.step, if b.step then b.group else b.id.setWidth 6)
    if b.scope == 5 && b.rel.isNone && !s.podDone.contains q then some q else none
/-- POD_BARRIER_EXCHANGE (R139): the next report of the pod comes in. Every package of the pod group has reported for the instance that it
names: a context's, of a step of a group or of a barrier of a number. One at which no core stands changes nothing. -/
def execPodBarrierExchange (s : State) : Out :=
  match s.podIn with
  | [] => ok s
  | q :: t =>
    let s1 := { s with podIn := t }
    ok (if s.allCores.any fun c => s.podBarOf c == some q then { s1 with podDone := s.podDone ++ [q] } else s1)
/-- The step checkpoint of a core (R326). -/
def Core.checkpoint (c : Core) (cont rel : Nat) : Ckpt := {
  cont := cont, rel := rel, g := c.ctl.g, df := c.ctl.df, pend := c.ctl.pend, bndFlag := c.trap.bnd
  vamax := (c.vec.amax, c.vec.nan, c.vec.sat), mamax := (c.mtx.amax, c.mtx.nan, c.mtx.sat)
  budget := c.spr.budget, eng := c.eng, handles := c.handles, fq := c.mtx.fq, fqHead := c.mtx.fqHead, chan := c.chan }
/-- Every engine resumes past a STEP or BAR at continue cycle C; its next own word counts from C - 1 (R132). -/
def Core.resumeBar (c : Core) (cont : Nat) : Core :=
  { c with eng := c.eng.map fun x => if x.marked then
      { x with marked := false, started := true, sched := cont - 1, pos := x.pos + 1, pc := x.pc + 1,
               came := cont, passAt := cont, passed := 0, wait := 0 } else x }
/-- At its release Rel a STEP closes the running step, whose count of restarts returns to 0 (R327), and the deadline count of the step that
it opens runs from there (R135, R149). -/
def Core.countFrom (c : Core) : Core :=
  match c.bar with
  | some b =>
    match b.rel with
    | some (rel, _) =>
      if b.step && !b.counted && decide (rel ≤ c.now) then
        { c with
          bar := some { b with counted := true }, stepRel := rel, late := false, quit := false
          step := c.step.map fun t => (t.1, t.2.1, 0) }
      else c
    | none => c
  | none => c
/-- STEP_CONTINUE (R149, R150): at its continue cycle a member resumes. -/
def execStepContinue (s : State) : Out :=
  match s.core.bar with
  | some b =>
    match b.rel with
    | some (rel, cont) =>
      if s.core.now < cont then ok s else
        ok (s.mapCore fun c =>
          let c1 := { c.countFrom with bar := none }.resumeBar cont
          if b.step then
            let c2 := { c1 with
              spr := { c1.spr with stepcnt := c1.spr.stepcnt + 1 }
              chan := c1.chan.map fun (h : Channel) => { h with begun := [] }
              step := some (b.group, b.rs, 0) }
            { c2 with ckpt := if b.rs then some (c2.checkpoint cont rel) else none }
          else c1)
    | none => ok s
  | none => ok s
/-- Where the elements of a planed region of a context lie, at site h for one of die-shared scratch (R112). -/
def Context.regionPlace (x : Context) (d : PlaneDesc) (h : Nat) : Place :=
  if d.shared then .shared (sharedKey x.id h (d.vbase.toNat - sharedBase)) else
    match x.entryAt d.vbase.toNat with
    | some e => x.placeOf e d.vbase.toNat
    | none => .pod 0 0
/-- The memory that a swap in a place occupies for its cycle, as State.swapped has it. -/
def Place.swapMem (h : Nat) : Place → Option (Bool × Nat)
  | .shared _ => some (true, h)
  | .stage b _ => some (false, b)
  | _ => none
/-- Swap one element of a region (R117): a written element becomes present; an unwritten one keeps or clears. -/
def State.swapRegion (s : State) (x : Context) (n : Nat) (d : PlaneDesc) (h : Nat) : State :=
  let st := if d.shared then h else 0
  let mine (y : PlaneCell) : Bool := y.ctx == x.id && y.reg == n && y.site == st
  let base := x.regionPlace d h
  let len := d.units * 65536
  let clear (m : Memory) (k : Nat) : Memory := if d.clear then Store.clear m k len else m
  let put (m : Memory) (k : Nat) : Memory :=
    (s.planes.filter fun y => mine y && !y.cl).foldl (fun m y => m.writeNat (k + y.elem * d.elem) d.elem y.next.toNat) (clear m k)
  { s with
    swapped := s.swapped ++ (base.swapMem h).toList
    planes := s.planes.filter fun y => !mine y
    dsh := match base with
      | .shared k => put s.dsh k
      | _ => s.dsh
    stage := match base with
      | .stage _ k => put s.stage k
      | _ => s.stage }
/-- The first swap that is due. -/
def State.swapDue (s : State) : Option (CtxId × Nat × Nat × Nat) := s.swaps.find? fun p => decide (p.2.2.2 ≤ s.clock) &&
  (match s.ctxOf p.1 with
  | some x => x.phase == .running
  | none => true)
/-- PLANE_SWAP (R117): a region of the group swaps at its memory. -/
def execPlaneSwap (s : State) : Out :=
  match s.swapDue with
  | none => ok s
  | some p =>
    let s1 := { s with swaps := s.swaps.filter fun q => q != p }
    match s.ctxOf p.1 with
    | none => ok s1
    | some x =>
      match x.planes[p.2.1]? with
      | some d => ok (s1.swapRegion x p.2.1 d p.2.2.1)
      | none => ok s1
/-- PLANED_STORE (R114): a store to a planed element performs under the collision rule. -/
def execPlanedStore (x : CtxId) (k : CoreId) (a v : Dword) (s : State) : Out := ok (s.planeStore x k a.toNat v)

end Sys2Proof.Machine
end

