-- ==== Sys2Proof/Machine/Csr.lean ====
section
/-! DEFINITION. Csr.lean: the control and status registers: reading, writing and their words (R90 to R92, R311, Tables 4-8
to 4-10, 14-1 to 14-5). -/
namespace Sys2Proof.Machine

/-! ### Reading (Table 4-8) -/

/-- The mix entry of a site (R345). -/
def State.mixByte (s : State) (site : Nat) : Nat := (s.mix.getD (site / 8) 0).toNat / 256 ^ (site % 8) % 256
/-- SITE (Table 4-9). -/
def State.siteWord (s : State) (c : Core) : Dword :=
  dw (c.id.toNat + c.die.code.toNat * 2 ^ 10 + s.mixByte c.site / 32 * 2 ^ 13)
/-- PKGID (Table 4-10). -/
def State.pkgWord (s : State) (c : Core) : Dword :=
  dw (s.pkgid.toNat + ((s.ctxOf c.ctx).map fun x => x.rec_.key.toNat).getD 0 * 2 ^ 16)
/-- BACT (Table 8-3): the actions of BND0 to BND7. -/
def Engine.bact (x : Engine) : Nat := (List.range 8).foldl (fun a n => a + (x.bnd.getD n {}).act.toNat * 4 ^ n) 0
/-- FPC (Table 8-3) of CTL's copy. -/
def Core.fpcWord (c : Core) : Dword := dw ((c.engOf 0).mode.toNat + (c.engOf 0).bact * 256)
/-- FQST (Table 8-6). -/
def Core.fqstWord (c : Core) : Dword :=
  dw (c.mtx.fq.length + c.mtx.fqHead.toNat * 256 + (c.mtx.fqHead.toNat + c.mtx.fq.length) % 16 * 4096)
/-- BNDn (Table 8-9) of CTL's copy. -/
def Core.bndWord (c : Core) (n : Nat) : Dword :=
  let b := (c.engOf 0).bnd.getD n {}
  dw (b.low.toNat + b.high.toNat * 2 ^ 32)
/-- STATUS (Table 14-1). -/
def Core.statusWord (c : Core) : Dword :=
  let t := c.trap
  dw (bit t.mode + 2 * bit t.pmode + 4 * bit t.tl + 8 * bit t.pmask + 16 * bit t.bnd + 32 * bit t.detlost + 64 * bit t.wslost
    + 128 * bit t.fidarm)
/-- ECAUSE (Table 14-2). -/
def Core.ecauseWord (c : Core) : Dword := dw (c.trap.cause.toNat + c.trap.ceng.toNat * 256 + bit c.trap.async * 2048)
/-- EPCn (Table 14-3); that of an absent engine reads zero. -/
def Core.epcWord (c : Core) (n : Nat) : Dword :=
  if c.has n && decide (n < 7) then dw ((c.trap.epc.getD n 0).toNat + bit (c.trap.stopped.getLsbD n) * 65536) else 0
/-- PWRDECL (Table 14-11). -/
def Core.pwrWord (c : Core) : Dword :=
  dw (c.spr.level.toNat + c.spr.req.toNat * 16 + bit c.spr.preq * 256 + c.spr.draw % 2 ^ 24 * 2 ^ 16)
/-- THRN (Table 14-12). -/
def Core.thrWord (c : Core) : Dword :=
  dw (bit c.spr.thrAct + c.spr.thrShare.toNat * 256 + c.spr.thrCyc.toNat * 2 ^ 16 + c.spr.thrEv.toNat * 2 ^ 48)
/-- The CSRs that an event can change between two cycles, as the end of a cycle leaves them (R90). -/
def State.csrView (s : State) (c : Core) : CsrView := {
  stepcnt := c.spr.stepcnt, status := c.statusWord, dfmask := (c.ctl.df &&& ~~~1).setWidth 64, power := c.pwrWord
  energy := ((s.ctxOf c.ctx).map Context.energy).getD 0, throttle := c.thrWord }
/-- A CSR as a word that issues now reads it: as at the end of the previous cycle, but for CYC (R90). -/
def State.csrRead (s : State) (c : Core) (n : Nat) : Dword :=
  match n with
  | 0 => dw c.now
  | 1 => s.siteWord c
  | 2 => c.ctx.setWidth 64
  | 3 => s.pkgWord c
  | 0x10 => (c.engOf 0).late.setWidth 64
  | 0x11 => c.spr.twin.setWidth 64
  | 0x12 => c.spr.budget.setWidth 64
  | 0x13 => c.shown.stepcnt
  | 0x20 => c.fpcWord
  | 0x21 => c.vec.amax.setWidth 64
  | 0x22 => dw (bit c.vec.nan + 2 * bit c.vec.sat)
  | 0x23 => c.fqstWord
  | 0x40 => c.shown.status
  | 0x41 => c.ecauseWord
  | 0x42 => c.trap.eval
  | 0x50 => dw (c.trap.svec.toNat + c.trap.uvec.toNat * 65536)
  | 0x51 => c.trap.tscr
  | 0x52 => c.trap.tdeleg
  | 0x53 => c.shown.dfmask
  | 0x60 => c.spr.splb.setWidth 64
  | 0x61 => c.spr.splsz.setWidth 64
  | 0x62 => c.spr.ovfp
  | 0x70 => c.shown.power
  | 0x71 => c.shown.energy
  | 0x72 => c.shown.throttle
  | k =>
    if 8 ≤ k ∧ k ≤ 0xE then s.mix.getD (k - 8) 0
    else if 0x28 ≤ k ∧ k ≤ 0x2F then c.bndWord (k - 0x28)
    else if 0x48 ≤ k ∧ k ≤ 0x4F then c.epcWord (k - 0x48)
    else 0

/-! ### Writing -/

/-- The writable bits of TDELEG: all but those of causes 0x02, 0x03, 0x22 and 0x25 (Tables 14-5, 14-6). -/
def delegMask : Dword := 0xFFFFFFDBFFFFFFF3
/-- A write to a CSR without a row of its own (R90, R110, Tables 5-5 to 5-7, 14-2 to 14-5, 14-12). -/
def Core.csrPut (c : Core) (n : Nat) (v : Dword) : Core :=
  let t := c.trap
  let p := c.spr
  match n with
  | 0x41 => { c with trap := { t with cause := v.setWidth 8, ceng := BitVec.ofNat 3 (field v 10 8), async := v.getLsbD 11 } }
  | 0x42 => { c with trap := { t with eval := v } }
  | 0x50 => { c with trap := { t with svec := v.setWidth 16, uvec := BitVec.ofNat 16 (field v 31 16) } }
  | 0x51 => { c with trap := { t with tscr := v, tscrTag := none } }
  | 0x52 => { c with trap := { t with tdeleg := v &&& delegMask } }
  | 0x60 =>
    if field v 11 0 ≠ 0 ∨ c.size < field v 22 0 + p.splsz.toNat then c else { c with spr := { p with splb := v.setWidth 23 } }
  | 0x61 =>
    if field v 11 0 ≠ 0 ∨ c.size < p.splb.toNat + field v 22 0 then c else { c with spr := { p with splsz := v.setWidth 23 } }
  | 0x62 => if field v 11 0 ≠ 0 then c else { c with spr := { p with ovfp := v } }
  | 0x72 => { c with spr := { p with
      thrAct := v.getLsbD 0, thrShare := BitVec.ofNat 8 (field v 15 8), thrCyc := BitVec.ofNat 32 (field v 47 16)
      thrEv := BitVec.ofNat 16 (field v 63 48) } }
  | k =>
    if 0x48 ≤ k ∧ k ≤ 0x4E ∧ c.has (k - 0x48) then
      { c with trap := { t with epc := t.epc.setIfInBounds (k - 0x48) (v.setWidth 16) } }
    else c
/-- CSR_WRITE (R90): a write to a CSR that has no row of its own. -/
def execCsrWrite (n : BitVec 13) (v : Dword) (s : State) : Out := ok (s.mapCore fun c => c.csrPut n.toNat v)
/-- The position that CTL's latest word stands at, once it has issued (R314: handler words stand at EPC0's word). -/
def Core.ctlPos (c : Core) : Nat := if c.trap.tl then (c.engOf 0).pos else (c.engOf 0).pos - 1
/-- DFMASK takes a value (R77): every df bit takes the written one; an engine behind CTL still reads the earlier bit (R36). -/
def Core.dfmaskPut (c : Core) (v : Dword) : Core :=
  let m : BitVec 32 := v.setWidth 32 &&& ~~~1
  let ch := (List.range 32).filter fun r => m.getLsbD r != c.df (BitVec.ofNat 5 r)
  { c with ctl := { c.ctl with
      df := m
      log := c.liveLog ++ ch.map fun r => {
        reg := BitVec.ofNat 5 r, val := c.g (BitVec.ofNat 5 r), df := c.df (BitVec.ofNat 5 r), pos := c.ctlPos
        tag := c.pendTag (BitVec.ofNat 5 r) } } }
/-- LATE takes a value: the copy of every engine (R131). -/
def Core.latePut (c : Core) (v : Dword) : Core :=
  { c with
    eng := c.eng.map fun x => { x with late := v.setWidth 16 }
    ctl := { c.ctl with lates := Vector.replicate 7 (v.setWidth 16) } }
/-- BUDGET takes a value (R135). -/
def Core.budgetPut (c : Core) (v : Dword) : Core := { c with spr := { c.spr with budget := v.setWidth 32 } }
/-- TWIN takes a value of 8 to 4,096 (R35). -/
def Core.twinPut (c : Core) (v : Dword) : Core :=
  if 8 ≤ field v 12 0 ∧ field v 12 0 ≤ 4096 then { c with spr := { c.spr with twin := v.setWidth 13 } } else c
/-- STATUS takes a value, by the access of each bit and the mode and level of the core (R311, Table 14-1). -/
def Core.statusPut (c : Core) (v : Dword) : Core :=
  let t := c.trap
  let m := if t.tl then v.getLsbD 3 else t.pmask
  { c with trap := { t with
      pmask := m
      maskAt := if m && !t.pmask then c.now else t.maskAt
      maskOut := t.maskOut && m
      bnd := t.bnd && v.getLsbD 4
      pmode := if t.mode then v.getLsbD 1 else t.pmode
      fidarm := if t.mode then v.getLsbD 7 else t.fidarm } }
/-- DFMASK_WRITE (R77). The manual does not say how the write meets the limit of the write log: the old bits enter it without a wait.
DESIGN CHOICE, log entry 70. -/
def execDfmaskWrite (v : Dword) (s : State) : Out := ok (s.mapCore fun c => c.dfmaskPut v)
/-- LATE_WRITE (R131). -/
def execLateWrite (v : Dword) (s : State) : Out := ok (s.mapCore fun c => c.latePut v)
/-- BUDGET_WRITE (R135). -/
def execBudgetWrite (v : Dword) (s : State) : Out := ok (s.mapCore fun c => c.budgetPut v)
/-- TWIN_WRITE (R35): a value outside 8 to 4,096 is ignored. -/
def execTwinWrite (v : Dword) (s : State) : Out := ok (s.mapCore fun c => c.twinPut v)
/-- STATUS_WRITE (R311, Table 14-1). -/
def execStatusWrite (v : Dword) (s : State) : Out := ok (s.mapCore fun c => c.statusPut v)
/-- The fid sets the resume address of an engine: of one that a trap has stopped its EPC, else the address it stands at; one word on, the
word there counts as executed (R336, R337). -/
def Core.fidPc (c : Core) (e : Nat) (a : TextAddr) : Core :=
  if c.trap.tl && c.trap.stopped.getLsbD e && e != 0 then { c with trap := { c.trap with epc := c.trap.epc.setIfInBounds e a } }
  else c.modEng e fun x => { x with pc := a, pos := if a = x.pc + 1 then x.pos + 1 else x.pos, wait := 0 }
/-- A CSR of a halted core takes a value from the fid (R328), as supervisor code writes it; EPC0 moves CTL where no trap has taken it (R336).
-/
def Core.fidCsr (c : Core) (n : Nat) (v : Dword) : Core :=
  match n with
  | 0x40 =>
    let d := { c with trap := { c.trap with mode := true } }.statusPut v
    { d with trap := { d.trap with mode := c.trap.mode } }
  | 0x48 => if c.trap.tl then c.csrPut n v else (c.csrPut n v).fidPc 0 (v.setWidth 16)
  | 0x10 => c.latePut v
  | 0x11 => c.twinPut v
  | 0x12 => c.budgetPut v
  | 0x53 => c.dfmaskPut v
  | _ => c.csrPut n v

/-! ### CSR words (R90, R91) -/

/-- The event by which a CSR write takes effect. -/
def csrEvent (n : BitVec 13) (v : Dword) : Instr :=
  match n.toNat with
  | 0x10 => .lateWrite v
  | 0x11 => .twinWrite v
  | 0x12 => .budgetWrite v
  | 0x40 => .statusWrite v
  | 0x53 => .dfmaskWrite v
  | _ => .csrWrite n v
/-- A CSR write at the end of the cycle, when one is made. -/
def Core.csrLater (c : Core) (n : BitVec 13) (v : Option Dword) : Core :=
  match v with
  | some x => c.atEnd (.event (csrEvent n x))
  | none => c
/-- The engine whose passing a CSRR waits for (R90). -/
def csrWaits (n : Nat) : Option Nat := if n = 0x21 ∨ n = 0x22 then some 2 else if n = 0x23 then some 1 else none
/-- TSCR holds the result of a load that is still under way. -/
def tscrBusy (s : State) (n : BitVec 13) : Bool := n.toNat == 0x51 && s.core.trap.tscrTag.isSome
/-- The shape of the CSR words: what is read into d, and what is written, if anything. -/
def csrWord (i : Instr) (d : GReg) (n : BitVec 13) (src : List GReg) (wr : Dword → Option Dword) (s : State) : Out :=
  gate i s (unmarked s 0 src (
    if tscrBusy s n then waitAt s 0 4
    else logged s d 1 (ok (s.mapCore fun c =>
      let old := s.csrRead c n.toNat
      (aluWrite c d old false 1).csrLater n (wr old)))))
/-- CSRR (R90). -/
def execCsrr (d : GReg) (n : BitVec 13) (s : State) : Out :=
  match csrWaits n.toNat with
  | some e =>
    if s.core.has e && !s.core.hasPassed e (s.core.engOf 0).pos then gate (.csrr d n) s (waitAt s 0 0x0F)
    else csrWord (.csrr d n) d n [] (fun _ => none) s
  | none => csrWord (.csrr d n) d n [] (fun _ => none) s
/-- CSRW (R90). -/
def execCsrw (a : GReg) (n : BitVec 13) (s : State) : Out := csrWord (.csrw a n) 0 n [a] (fun _ => some (s.core.g a)) s
/-- CSRS (R90). -/
def execCsrs (d a : GReg) (n : BitVec 13) (s : State) : Out :=
  csrWord (.csrs d a n) d n [a] (fun old => if a = 0 then none else some (old ||| s.core.g a)) s
/-- CSRC (R90). -/
def execCsrc (d a : GReg) (n : BitVec 13) (s : State) : Out :=
  csrWord (.csrc d a n) d n [a] (fun old => if a = 0 then none else some (old &&& ~~~s.core.g a)) s

end Sys2Proof.Machine
end

