-- ==== Sys2Proof/Machine/System.lean ====
section
/-! DEFINITION. System.lean: traps and the return from them, waits for events, power levels, the retirement of CTL words,
deviation and deadline (R73, R130, R135, R313, R322, R332 to R340). -/
namespace Sys2Proof.Machine

/-! ### TRAP, BRK, SRET (R335 to R337) -/

/-- TRAP (R335): cause 0x18. -/
def execTrap (n : BitVec 18) (s : State) : Out := gate (.trap n) s (trapAt s 0 0x18 (zextD n))
/-- The moving core's context asks for a package halt at the global cycle now (R328, R336). -/
def State.askHalt (s : State) : State :=
  s.modCtx s.core.ctx fun x => { x with
    freeze := if x.freeze.any fun f => f.1 == .halt then x.freeze else x.freeze ++ [(.halt, s.clock)] }
/-- EPC0 takes the address of a word at which CTL halts (R336); in a handler it keeps that of the trap (DEDUCED, log entry 50). -/
def Core.haltPc (c : Core) : Core :=
  if c.trap.tl then c else { c with trap := { c.trap with epc := c.trap.epc.setIfInBounds 0 (c.engOf 0).pc } }
/-- BRK (R336): with FIDARM set it halts the context at the word, else it raises cause 0x19. -/
def execBrk (n : BitVec 18) (s : State) : Out :=
  gate (.brk n) s (if s.core.trap.fidarm then waitAt (s.askHalt.mapCore Core.haltPc) 0 0x0F else trapAt s 0 0x19 (zextD n))

/-- The cause that SRET enters instead of returning: pending, and takeable at TL = 0 (R337). The engines that stopped
since the first entry take their EPCs. The SRET has issued, and draws as any CTL word (R331). -/
def Core.chain (c : Core) : Option Core :=
  c.chooseCause.map fun p =>
    let c1 := p.1
    let h := c1.trap.handler p.2.1
    let new (n : Nat) : Bool := (c1.engOf n).stop.isSome && !c1.trap.stopped.getLsbD n
    let c2 := { c1 with trap := { c1.trap with
      cause := p.2.1, ceng := p.2.2.1, async := p.2.2.2.1, eval := p.2.2.2.2, mode := h.1, snapAt := c.now
      epc := Vector.ofFn fun n => if new n.val then c1.stopAddr n.val else c1.trap.epc.getD n.val 0
      stopped := (List.range 7).foldl (fun b n => if new n then putBit b n true else b) c1.trap.stopped } }
    c2.modEng 0 fun x => { x with pc := h.2, passAt := c.now + 1, passed := 0, wait := 0, freeAt := c.now + 1, draw := 60 }
/-- Engine n resumes at its EPC at the end of the cycle, with its schedule shifted; one word on, the word it stopped at
counts as executed (R133, R337), and an MGO or MGVR in progress ends (R210, R249). -/
def Core.resumeEng (c : Core) (n from_ : Nat) : Core :=
  let shift := c.now + 1 - from_
  let skip := c.trap.epc.getD n 0 != c.stopAddr n
  let at_ := c.modEng n fun x => { x with pc := c.stopAddr n }
  let c1 := if n = 1 && skip then c.modMtx fun u => { u with prog := u.prog.filter fun p => !p.held, gvp := u.gvp.filter fun p => !p.held } else c
  c1.modEng n fun x => { x with
    pc := c.trap.epc.getD n 0, stop := none, wait := 0, passAt := c.now + 1, passed := 0, came := c.now + 1
    pos := if skip then x.pos + 1 else x.pos
    redo := x.redo && !skip, excuse := 0
    sched := if skip then at_.schedOf n + shift else x.sched + shift
    started := x.started || skip }
/-- Whether a word is a steering word (R33). -/
def isSteer (w : Word) : Bool :=
  engField w == 0 && (let o := (w >>> 23).toNat % 64; (decide (0x0C ≤ o) && decide (o ≤ 0x13)) || o == 0x1D)
/-- The return of SRET (R337). The swap of g31 counts as written at EPC0's word, before CTL moves from there (R314). -/
def Core.sret (c : Core) : Core :=
  let others := (List.range 7).filter fun n => n != 0 && c.trap.stopped.getLsbD n
  let c1 := others.foldl (fun d n => d.resumeEng n (match (c.engOf n).stop with
    | some x => x.cycle
    | none => c.now + 1)) c.swapScr
  let skip := c.trap.epc.getD 0 0 != c.trap.stopPc
  let pos := (c.engOf 0).pos
  let c2 := c1.resumeEng 0 c.trap.entry
  let posts : List CtlRet :=
    if skip && isSteer (Store.get 0 c.text c.trap.stopPc.toNat) then [{ pos := pos, due := c.now + 1, tag := none, outc := some .notTaken }]
    else []
  { c2 with
    ctl := { c2.ctl with retq := c2.ctl.retq ++ posts }
    trap := { c2.trap with mode := c.trap.pmode, tl := false, pmask := false, maskOut := false, stopped := 0 } }
/-- SRET (R337): the next pending cause is entered, or the stopped engines resume. -/
def execSret (s : State) : Out :=
  gate .sret s (
    match s.core.chain with
    | some c => ok { s with core := c }
    | none =>
      let a := s.core.trap.epc.getD 0 0
      if a.toNat ≥ 63488 && !s.core.trap.pmode then trapAt s 0 5 (zextD a)
      else ok (s.mapCore fun c => { c.sret with eng := c.sret.eng.setIfInBounds 0 { c.sret.engOf 0 with freeAt := c.now + 1, draw := 60 } }))

/-- TRAP_ENTRY (R313): CTL takes the pending cause at an instruction boundary. -/
def execTrapEntry (s : State) : Out :=
  if s.core.trapDue then
    match s.core.chooseCause with
    | some (c, cause, eng, async, eval) =>
      ok { s with core := (c.toOwn (c.text.length + 1)).enterTrap cause eng async eval c.now }
    | none => ok s
  else ok s

/-! ### Waiting for a word (R302, R338) -/

/-- The checks of the word that an LWSIG or WEV waits on: local scratch, or a STAGE entry outside planed ranges. The
address is never redirected. -/
def waitAccess (s : State) (a : Dword) : Except (Byte × Dword) Access :=
  if a.toNat % 8 ≠ 0 then .error (4, a)
  else
    match s.checkAt s.core .load 8 false a.toNat with
    | .error e => .error (e, a)
    | .ok x =>
      match x.place with
      | .scratch _ => .ok x
      | .stage _ _ => if x.plane.isSome then .error (9, a) else .ok x
      | _ => .error (5, a)
/-- A read of a waiting word leaves for its home, when the word lies in stage memory. -/
def State.sendWait (s : State) (e : Nat) (ev : Bool) (tag : Nat) (a : Dword) : State :=
  match s.checkAt s.core .load 8 false a.toNat, s.ctx with
  | .ok x, some cx =>
    match x.place with
    | .stage home _ =>
      let r := cx.routeTo s.core.site (Config.bfSite home)
      s.sendOff e (.req (.wait ev tag)) a.toNat r (flightDue r s.clock)
    | _ => s
  | _, _ => s
/-- WEV (R338): CTL issues and is held until the word differs from d or an asynchronous cause becomes pending. -/
def execWev (d a : GReg) (i : BitVec 13) (s : State) : Out :=
  gate (.wev d a i) s (unmarked s 0 [a, d] (
    let y := effAddr (s.core.g a) i
    match waitAccess s y with
    | .error (cause, ev) => trapAt s 0 cause ev
    | .ok x => logged s d 1 (accessWaits s 0 x 8 (
        let here := match x.place with
          | .scratch _ => true
          | _ => false
        ok ((s.sendWait 0 true s.core.ctl.tags y).mapCore fun c =>
          let tag := c.ctl.tags
          let c1 := ((c.awaitG d).nextTag.toRetire (c.now + 1) (some tag) none).issue 0 1 60
          let w : WaitWord := {
            addr := y, val := c.g d, dst := d, tag := tag
            next := if here then c.now + 2 else c.now + 512, last := none }
          { c1 with ctl := { c1.ctl with wev := some w } }.modEng 0 fun e => { e with held := true })))))
/-- A waiting word of local scratch is read at the end of the cycle (R302). -/
def Core.readWait (c : Core) (w : WaitWord) : WaitWord :=
  if w.addr.toNat < 2 ^ 24 ∧ w.next ≤ c.now then
    { w with last := some (dw (c.scratch.readNat w.addr.toNat 8)), next := c.now + 1 }
  else w
/-- The wait of an LWSIG ends once a read has found the value reached (R302). -/
def Core.endSig (c : Core) : Core :=
  match c.lnk.wsig with
  | none => c
  | some w0 =>
    let w := c.readWait w0
    let done := match w.last with
      | some v => decide (w.val.toInt ≤ v.toInt)
      | none => false
    if done then { c with lnk := { c.lnk with wsig := none } }.modEng 4 fun e => { e with held := false }
    else { c with lnk := { c.lnk with wsig := some { w with last := none } } }
/-- The wait of a WEV ends (R338): d takes the value of the last read that has returned. -/
def Core.endWev (c : Core) : Core :=
  match c.ctl.wev with
  | none => c
  | some w0 =>
    let w := c.readWait w0
    let differs := match w.last with
      | some v => v != w.val
      | none => false
    if differs || c.trap.pend.any (fun x => x.cycle == c.now) then
      let (v, m) := match w.last with
        | some v => (v, false)
        | none => (c.g w.dst, c.df w.dst)
      let c1 := c.fillG w.dst w.tag v m (c.now + 1)
      { c1 with ctl := { c1.ctl with wev := none } }.modEng 0 fun e => { e with held := false }
    else { c with ctl := { c.ctl with wev := some w } }
/-- An asynchronous cause that became pending in this cycle ends the wait of a WEV (R338). -/
def Core.wevCut (c : Core) : Bool := c.ctl.wev.isSome && c.trap.pend.any fun x => x.cycle == c.now
/-- WAIT_WORD_READ (R302, R338): at the end of a cycle, the reads of that cycle may end the waits of the core. -/
def execWaitWordRead (s : State) : Out := ok (s.mapCore fun c => c.endSig.endWev)
/-- A wait whose word of stage memory is to be read again (R302); a page that is being moved is read once its move has ended (R111). -/
def State.rereads (s : State) (w : Option WaitWord) : Option WaitWord :=
  w.bind fun w =>
    if 2 ^ 24 ≤ w.addr.toNat ∧ w.next ≤ s.core.now ∧ !(s.ctx.any fun x => x.busyAt w.addr.toNat 8) then some w else none
/-- WAIT_PERIODIC_READ (R302): a stage word under wait is read again. -/
def execWaitPeriodicRead (s : State) : Out :=
  let c := s.core
  let s1 := match s.rereads c.lnk.wsig with
    | some w => (s.sendWait 4 false w.tag w.addr).mapCore fun c =>
        { c with lnk := { c.lnk with wsig := some { w with next := c.now + 512 } } }
    | none => s
  ok (match s.rereads c.ctl.wev with
    | some w => (s1.sendWait 0 true w.tag w.addr).mapCore fun c =>
        { c with ctl := { c.ctl with wev := some { w with next := c.now + 512 } } }
    | none => s1)

/-! ### Power levels (R331, R332, R339, R340) -/

/-- EVAL of a level outside 0 to 15 (R339). -/
def pacqEval : Dword := dw (16 + 0x06 * 2 ^ 48 + 0xFF * 2 ^ 56)
/-- PACQ (R339). -/
def execPacq (a : GReg) (i : BitVec 13) (s : State) : Out :=
  let n := s.core.g a + sextD i
  gate (.pacq a i) s (unmarked s 0 [a] (
    if 15 < n.toNat then trapAt s 0 5 pacqEval
    else if n.toNat ≤ s.core.spr.level.toNat then
      ok (s.mapCore fun c => (c.issueCtl (c.now + 1)).atEnd (.level (n.setWidth 4)))
    else if s.core.spr.granted && decide (s.core.now ≤ s.core.spr.grantAt) then waitAt s 0 0x0B
    else if s.core.spr.granted then
      ok (s.mapCore fun c => { c with spr := { c.spr with level := c.spr.req, preq := false, granted := false } }.issueCtl (c.now + 1))
    else if s.core.spr.preq then waitAt s 0 0x0B
    else
      ok ({ s with free := s.free + 1 }.mapCore fun c =>
        { c with spr := { c.spr with
            preq := true, req := n.setWidth 4, reqAt := s.clock + Config.freeDelay s.free } }.noteWait 0 0x0B)))
/-- PREL (R340): the level never rises. -/
def execPrel (l : BitVec 4) (s : State) : Out :=
  gate (.prel l) s (ok (s.mapCore fun c =>
    (c.issueCtl (c.now + 1)).atEnd (.level (if l.toNat < c.spr.level.toNat then l else c.spr.level))))
/-- Budget of a die, in granted levels (R332): where firmware has set none, level 15 for each core. -/
def State.dieBudget (s : State) (site : Nat) : Nat :=
  match Store.get 0 s.power.budget site with
  | 0 => 15 * (Config.siteType site).cores
  | k + 1 => k
/-- Level that a core holds against the die's budget. -/
def Core.levelHeld (c : Core) : Nat :=
  if !c.live || c.retired then 0 else if c.spr.granted then c.spr.req.toNat else c.spr.level.toNat
/-- The level that core k holds as the controller counts it for core c: a lowering of this cycle gives its share up from the next one
(R332). A core with a lower id has already ended its cycle. -/
def Core.levelFor (c k : Core) : Nat := if k.id < c.id then max k.levelHeld k.spr.heldWas else k.levelHeld
/-- PRIO of a core's context. -/
def State.prioOf (s : State) (c : Core) : Nat := ((s.ctxOf c.ctx).map fun x => x.rec_.prio).getD 0
/-- Whether the waiting raise of a core is the first of its die in order of PRIO, then package core id (R332). -/
def State.firstAsk (s : State) (c : Core) : Bool :=
  s.allCores.all fun k => k.id == c.id || k.site != c.site || !(k.live && k.spr.preq && !k.spr.granted) ||
    decide (s.prioOf k < s.prioOf c) || (decide (s.prioOf k = s.prioOf c) && decide (c.id < k.id))
/-- Whether a die owes a saved context the levels that its save keeps: its cores are free, and it comes ahead of every waiting request
(R332). -/
def State.owesLevels (s : State) (site : Nat) : Bool :=
  s.ctxs.any fun x => x.phase == .saved && (x.cores.any fun k => k.toNat / 16 == site) &&
    s.ctxs.all fun y => y.id == x.id || y.released || !(y.cores.any fun k => x.cores.contains k)
/-- Whether the moving core's waiting raise can be granted now (R332). -/
def State.grantDue (s : State) : Bool :=
  let c := s.core
  c.live && c.spr.preq && !c.spr.granted && decide (c.spr.reqAt ≤ s.clock) && s.firstAsk c && !s.owesLevels c.site &&
    decide (((s.allCores.filter fun k => k.site == c.site && k.id != c.id).map c.levelFor).sum + c.spr.req.toNat
      ≤ s.dieBudget c.site)
/-- POWER_GRANT (R332): the raise is granted; PACQ issues in the next cycle (R339). -/
def execPowerGrant (s : State) : Out :=
  if s.grantDue then ok (s.mapCore fun c => { c with spr := { c.spr with granted := true, grantAt := c.now } }) else ok s

/-! ### Retirement, deviation, deadline (R73, R130, R135, R322) -/

/-- The CTL word that retires in this cycle (R73). A FENCE.M retires by R151, and later words behind it. -/
def Core.retireDue (c : Core) : Option CtlRet :=
  match c.ctl.retq with
  | r :: _ =>
    if r.tag.isNone && decide (r.due ≤ c.now) && decide (c.ctl.lastRet < c.now) && !c.ctl.fenceHead then some r else none
  | [] => none
/-- CTL_RETIRE (R73): the oldest CTL word retires; a steering word's outcome enters the queues of the other engines (R33). -/
def execCtlRetire (s : State) : Out :=
  match s.core.retireDue with
  | none => ok s
  | some r => ok (s.mapCore fun c =>
    let c1 := { c with ctl := { c.ctl with retq := c.ctl.retq.drop 1, lastRet := c.now } }
    match r.outc with
    | none => c1
    | some o => (c.engines.filter fun e => e != 0 && !(c.engOf e).exited).foldl (fun d e =>
        d.modEng e fun x => { x with outcomes := x.outcomes ++ [o] }) c1)

/-- EVAL of a deviation (Table 6-3). -/
def Core.devEval (c : Core) (e : Nat) : Dword := dw (c.schedOf e % 2 ^ 48 + (c.engOf e).wait.toNat * 2 ^ 48)
/-- Whether the own word i that engine e stands at has not issued in its window (R130). CTL's handler words and the waits at an
EXIT take no deviation; nor does a BRK that halts; nor does CTL while a WEV holds it, which stands at no instruction boundary (R313, R338). -/
def State.deviates (s : State) (e : Nat) (i : Instr) : Bool :=
  let c := s.core
  let x := c.engOf e
  !c.unscheduled e && !(e == 0 && x.held) && x.late != 65535 && decide (c.schedOf e + slackOf s i + x.excuse + x.late.toNat < c.now) &&
  (match i with
  | .brk _ => !c.trap.fidarm
  | .exit => false
  | _ => true)
/-- DEVIATION_TRAP (R130): the word does not issue; its engine takes cause 0x0A. -/
def execDeviationTrap (s : State) : Out :=
  let e := s.core.acting
  ok (s.mapCore fun c => c.raise e 0x0A (c.devEval e))

/-- Whether the deadline of the running step has passed (R135): a core that has arrived at its next STEP has none, until the
release opens the next step. -/
def Core.deadlineDue (c : Core) : Bool :=
  c.spr.budget != 0 && !c.late && !c.quit && decide (c.stepRel + c.spr.budget.toNat ≤ c.now) &&
  (match c.bar with
  | some b => !b.step || b.counted
  | none => true)
/-- DEADLINE_FAULT (R135): cause 0x0B, once per step. -/
def execDeadlineFault (s : State) : Out :=
  if s.core.deadlineDue then
    ok (s.mapCore fun c => { c with late := true }.post 0x0B 0 (dw (c.spr.budget.toNat + c.spr.stepcnt.toNat % 2 ^ 32 * 2 ^ 32)))
  else ok s

/-- PMASK has been held for 4,096 local cycles (R322). -/
def Core.maskDue (c : Core) : Bool := c.trap.pmask && !c.trap.maskOut && decide (c.trap.maskAt + 4096 ≤ c.now)
/-- PMASK_TIMEOUT (R322): PMASK is ignored from now on. -/
def execPmaskTimeout (s : State) : Out :=
  if s.core.maskDue then ok (s.mapCore fun c => { c with trap := { c.trap with maskOut := true } }) else ok s

end Sys2Proof.Machine
end

