-- ==== Sys2Proof/Machine/Ecc.lean ====
section
/-! DEFINITION. Ecc.lean: notices to the host, the error log, protected words and their poison (R346, R351, R352). -/
namespace Sys2Proof.Machine

/-! ### Notices, and kills that are asked for (R324, R346) -/

/-- Post a notice (Table 15-5). -/
def State.notice (s : State) (n : Notice) : State :=
  { s with host := { s.host with notices := s.host.notices ++ [(s.host.nseq, n)], nseq := s.host.nseq + 1 } }
/-- The context asks for a freeze, once of each kind (R322). -/
def Context.ask (x : Context) (k : FreezeKind) (clock : Nat) : Context :=
  { x with freeze := if x.freeze.any fun f => f.1 == k then x.freeze else x.freeze ++ [(k, clock)] }
/-- The kill of a context is requested: its key is revoked here, and at the switches after a time that the fabric sets; its freeze is
asked for (R324). -/
def State.askKill (s : State) (xid : CtxId) : State :=
  match s.ctxOf xid with
  | none => s
  | some x =>
    { s with
      revoked := if s.revoked.contains x.rec_.key then s.revoked else s.revoked ++ [x.rec_.key]
      free := s.free + 1 }.modCtx xid fun y =>
        { y.ask .kill s.clock with keyAt := if y.keyAt = 0 then s.clock + 1 + Config.freeDelay s.free else y.keyAt }
/-- A free 64-bit detail is taken. -/
def State.freeWord (s : State) : Dword × State := (Config.freeEval s.free, { s with free := s.free + 1 })

/-! ### The error log (R352) -/

/-- STATUS of a site in the mix registers (Table 15-2). -/
def State.siteStatus (s : State) (site : Nat) : Nat := s.mixByte site / 8 % 4
/-- Whether a BF die works: the memory of one that is not good serves nothing (R22). -/
def State.bfGood (s : State) (bf : Nat) : Bool := s.siteStatus (Config.bfSite bf) == 0
/-- Whether a CL die of the package carries a context's collectives for a core's die: it works (R22), the context uses it, and a route leads
there and back (R288). -/
def State.clServes (s : State) (x : Context) (site cl : Nat) : Bool :=
  s.siteStatus cl == 0 && x.need.contains cl && (routeOf x.passes site cl).isSome && (routeOf x.passes cl site).isSome
/-- The CL die by which a collective's traffic with a package goes: that of the package (R296), or the other where that one does not serve;
none where neither does. DESIGN CHOICE, log entry 92. -/
def State.collExit (s : State) (x : Context) (site : Nat) (pkg : BitVec 13) : Option Nat :=
  [clSite pkg.toNat, clSite (pkg.toNat + 1)].find? (s.clServes x site)
/-- The BF dies whose memory serves nothing (R22). -/
def State.deadBf (s : State) : List Nat := (List.range 8).filter fun b => !s.bfGood b
/-- The BF die that is home to a site's saves and errors (R318, R352): the nearest one, the lower index on a tie. The manual names none for
the case that the nearest is not good: the nearest good one stands in. Where none is good nothing is saved or logged, whatever this answers
(State.fits, State.logAt). DESIGN CHOICE, log entry 91. -/
def saveHome (dead : List Nat) (site : Nat) : Nat :=
  let good := (List.range 8).filter fun b => !dead.contains b
  let l := if good.isEmpty then List.range 8 else good
  l.foldl (fun b k => if Config.gridDist site (Config.bfSite k) < Config.gridDist site (Config.bfSite b) then k else b) (l.headD 0)
/-- The log of a BF die. -/
def HostUnit.log (h : HostUnit) (bf : Nat) : ErrLog := h.logs.getD bf {}
/-- Records that wait unread. -/
def ErrLog.waiting (l : ErrLog) : Nat := (l.recs.filter fun r => !r.read).length
/-- A record enters a log; a full log overwrites its oldest record. Each record holds how many were overwritten before it. -/
def ErrLog.put (l : ErrLog) (r : LogRec) : ErrLog :=
  let full := decide (1024 ≤ l.recs.length)
  { recs := (if full then l.recs.drop 1 else l.recs) ++ [{ r with lost := l.lost }]
    lost := min 65535 (l.lost + bit full) }
/-- A record enters the log of the BF die that covers a site, and the threshold notice is posted (R352). Where no BF die works none keeps a
log (R22), and the record is lost: DESIGN CHOICE, log entry 91. -/
def State.logAt (s : State) (site : Nat) (r : LogRec) : State :=
  if s.deadBf.length = 8 then s else
  let bf := saveHome s.deadBf site
  let l := (s.host.log bf).put r
  let s1 := { s with host := { s.host with logs := s.host.logs.setIfInBounds bf l } }
  if l.waiting = 768 then s1.notice (.logFull bf 768) else s1

/-! ### Protected words (R351) -/

/-- The site of a protected word. -/
def eccSite : EccLoc → Nat
  | .scratch k _ => k.toNat / 16
  | .wstack k _ => k.toNat / 16
  | .dshared h _ => h.toNat
  | .gtable h _ => h.toNat
  | .stage b _ => Config.bfSite b.toNat
  | .hbm b _ => Config.bfSite b.toNat
  | .tier2 b _ => Config.bfSite b.toNat
  | .text k _ => k.toNat / 16
  | .regs k _ _ => k.toNat / 16
  | .queue k _ _ => k.toNat / 16
  | .dq k _ => k.toNat / 16
/-- The place of a protected word, as its memory keys it. -/
def eccKey : EccLoc → Nat
  | .scratch _ a => a
  | .wstack _ a => a
  | .dshared h a => sharedKey (BitVec.ofNat 3 (a / 2 ^ 24)) h.toNat (a % 2 ^ 24)
  | .gtable h a => Config.gatherBytes * h.toNat + a
  | .stage b a => Config.stageBytes * b.toNat + a
  | .hbm b a => Config.hbmBytes * b.toNat + a
  | .tier2 b a => Config.tier2Bytes * b.toNat + a
  | .text _ a => a
  | .regs _ _ i => 8 * i
  | .queue _ _ i => i
  | .dq _ i => 8 * i
/-- Keys that a word takes: bytes, or the two words of a text. -/
def eccKeys : EccLoc → Nat
  | .text _ _ => 2
  | _ => 8
/-- Whether a word of a memory lies in a range of keys. -/
def eccWithin (l : EccLoc) (k n : Nat) : Bool := decide ((eccKey l) < k + n) && decide (k < (eccKey l) + eccKeys l)
/-- A protected memory. -/
inductive EccMem where
  | scratch (k : CoreId)
  | wstack (k : CoreId)
  | shared
  | gtable
  | stage
  /-- HBM4E and the second tier, which carry an ECC of their own. -/
  | hbm
  | tier2
  | text (k : CoreId)
  /-- A register file of a core, a queue of it (a load queue, 4 more for a store queue, 6 for FQ, 8 more than the engine for a queue of
  outcomes), its DQ. -/
  | regs (k : CoreId) (e : Nat)
  | queue (k : CoreId) (q : Nat)
  | dq (k : CoreId)
  deriving DecidableEq, Repr
/-- Whether a word lies in a memory. -/
def EccMem.has : EccMem → EccLoc → Bool
  | .scratch k, .scratch i _ => i == k
  | .wstack k, .wstack i _ => i == k
  | .shared, .dshared _ _ => true
  | .gtable, .gtable _ _ => true
  | .stage, .stage _ _ => true
  | .hbm, .hbm _ _ => true
  | .tier2, .tier2 _ _ => true
  | .text k, .text i _ => i == k
  | .regs k e, .regs i f _ => i == k && f.toNat == e
  | .queue k q, .queue i f _ => i == k && f.toNat == q
  | .dq k, .dq i _ => i == k
  | _, _ => false
/-- Bytes that an effect touches: whether it writes them, the memory, the first key and the count. -/
structure Span where
  wr  : Bool
  mem : EccMem
  key : Nat
  len : Nat
  deriving DecidableEq, Repr

/-- Bytes of a place, as core c reaches them. -/
def Place.span (c : Core) (wr : Bool) (p : Place) (n : Nat) : List Span :=
  match p with
  | .scratch k => [{ wr := wr, mem := .scratch c.id, key := k, len := n }]
  | .wstack k => [{ wr := wr, mem := .wstack c.id, key := k, len := n }]
  | .shared k => [{ wr := wr, mem := .shared, key := k, len := n }]
  | .stage _ k => [{ wr := wr, mem := .stage, key := k, len := n }]
  | .hbm _ k => [{ wr := wr, mem := .hbm, key := k, len := n }]
  | .tier2 _ k => [{ wr := wr, mem := .tier2, key := k, len := n }]
  | .pod _ _ => []
/-- The poisoned words that a range of one memory meets; `same` picks the memory. -/
def State.poisoned (s : State) (same : EccLoc → Bool) (k n : Nat) : List EccLoc :=
  s.poison.filter fun l => same l && eccWithin l k n
/-- A range is written: marks that it covers clear (R351). -/
def State.unpoison (s : State) (same : EccLoc → Bool) (k n : Nat) : State :=
  if s.poison.isEmpty then s else { s with poison := s.poison.filter fun l => !(same l && eccWithin l k n) }
/-- Ranges are written: marks that they cover clear. -/
def State.cleared (s : State) (l : List Span) : State :=
  if s.poison.isEmpty then s else l.foldl (fun s p => s.unpoison p.mem.has p.key p.len) s
/-- A word of stage memory. -/
def isStage : EccLoc → Bool
  | .stage _ _ => true
  | _ => false
/-- KIND of the error of a word that is read (Table 15-7): an SRAM's, HBM4E's or LPDDR-6's; `k` is the SRAM's. -/
def errKind (l : EccLoc) (k : Byte) : Byte :=
  match l with
  | .hbm _ _ => 6
  | .tier2 _ _ => 7
  | _ => k
/-- A read that serves no core meets a poisoned word, of a request of another package or of a memory window: the error is logged, and
charged to no core (R298, R351, R352). -/
def State.loneError (s : State) (p : Span) : State :=
  match s.poisoned p.mem.has p.key p.len with
  | [] => s
  | l :: _ => { s with free := s.free + 2 }.logAt (eccSite l) {
      time := s.clock, kind := errKind l 2, site := eccSite l, unit := (Config.freeEval s.free).setWidth 16, ctx := 0, action := 0, lost := 0
      addr := dw (eccKey l), synd := Config.freeEval (s.free + 1) }

end Sys2Proof.Machine
end

