-- ==== Sys2Proof/Machine/Traffic.lean ====
section
/-! DEFINITION. Traffic.lean: what travels over the package: stage-memory requests and replies, claims, notifies and pushes,
and the residue that carries them (R108, R116, R289 to R293, R302). -/
namespace Sys2Proof.Machine

/-! ### Whose turn it is -/

/-- Whether local time runs for the core that traffic serves (R126). -/
def State.runs (s : State) (k : CoreId) : Bool :=
  match s.coreAt k with
  | some c => !c.frozen && c.delay == 0
  | none => true
/-- Whether one flight comes before another in a residue queue: by its cycle, then the package core id, then the engine (R293, R350). -/
def Flight.before (a b : Flight) : Bool :=
  decide (a.due < b.due) || (a.due == b.due && (decide (a.core < b.core) || (a.core == b.core && decide (a.eng < b.eng))))
/-- Traffic that local time does not hold: beats and pieces of copies that have started (R168), and what the fabric is asked and
answers. -/
def Cargo.untimed : Cargo → Bool
  | .beat => true
  | .piece _ _ _ => true
  | .hawser _ _ => true
  | .podAns _ _ => true
  | .collAns _ _ => true
  | _ => false
/-- Data of a copy. -/
def Cargo.ofCopy : Cargo → Bool
  | .beat => true
  | .piece _ _ _ => true
  | _ => false
/-- Whether a flight writes where it ends (R140). -/
def Cargo.writes : Cargo → Bool
  | .req (.store _ _) => true
  | .req (.amo _ _ _ _ _ _) => true
  | .claim _ => true
  | .piece _ _ _ => true
  | .podAns _ _ => true
  | .collAns _ _ => true
  | _ => false
/-- Whether one flight acts before another: by its cycle, then the package core id (R109); of one core the accesses of one engine in the order
they issued (R141, R167), else the writes before the reads, by engine (R140). -/
def Flight.actsBefore (a b : Flight) : Bool :=
  let at_ (f : Flight) : List Nat := [f.due, f.core.toNat]
  let k (f : Flight) : List Nat := if a.eng = b.eng then [f.seq, f.pos] else [bit (!f.cargo.writes), f.eng]
  decide (at_ a < at_ b) || (at_ a == at_ b && decide (k a < k b))
/-- Whether an access of the same engine, issued before, acts in the same cycle: it goes first (R109, R141). -/
def Flight.behind (f g : Flight) : Bool := g.core == f.core && g.eng == f.eng && g.actsBefore f
/-- The first flight of a list, by an order, that a test admits, and the others. -/
def firstFlight (lt : Flight → Flight → Bool) (p : Flight → Bool) : List Flight → Option (Flight × List Flight)
  | [] => none
  | f :: t =>
    match firstFlight lt p t with
    | none => if p f then some (f, t) else none
    | some (g, r) => if p f && !lt g f then some (f, t) else some (g, f :: r)
/-- Whether a flight has come to its end and acts now. -/
def State.lands (s : State) (f : Flight) : Bool := f.hops.isEmpty && decide (f.due ≤ s.clock) && (f.cargo.untimed || s.runs f.core)
/-- The flight that acts next. -/
def State.landing (s : State) : Option (Flight × List Flight) :=
  firstFlight Flight.actsBefore (fun f => s.lands f && !(s.flights.any fun g => s.lands g && f.behind g)) s.flights
/-- The event by which a flight acts; a piece of a copy, a beat and what crosses to and from a CL die act without one of the table. -/
def Cargo.event : Cargo → Option Instr
  | .req _ => some .stageAccessPerform
  | .reply _ _ _ _ => some .stageReply
  | .seen _ _ => some .stageReply
  | .claim _ => some .claimArrival
  | .claimAns _ _ => some .claimAnswer
  | .push _ _ _ => some .pushLanding
  | .notify _ => some .signalNotify
  | _ => none
/-- The next flight, when its event is of a kind. -/
def State.landingOf (s : State) (p : Cargo → Bool) : Option (Flight × State) :=
  match s.landing with
  | some (f, r) => if p f.cargo then some (f, { s with flights := r }) else none
  | none => none

/-! ### The residue (R286, R293) -/

/-- The link direction of a flight's next hop, as a key. -/
def hopKey (h : Hop) : Nat := 32 * h.1 + h.2
/-- Whether a core owns a slot on a link (R287). -/
def Context.ownsSlot (x : Context) (site link core slot : Nat) : Bool :=
  x.claims.any fun q => q.site == site && q.link == link && q.core == core && decide (q.first ≤ slot) && decide (slot < q.first + q.count)
/-- Whether an earlier push of the core has taken a slot of the range in the same occurrence (R294). -/
def Core.slotTaken (c : Core) (link slot nb start : Nat) : Bool :=
  c.lnk.used.any fun u => u.1 == link && decide (u.2.2.2 + slot / 6 = start + u.2.1 / 6) && decide (u.2.1 < slot + nb) &&
    decide (slot < u.2.1 + u.2.2.1)
/-- The key under which a core's own slots on a link are counted. -/
def slotKey (h : Hop) (k : CoreId) : Nat := 2048 * (1 + k.toNat) + hopKey h
/-- How many slots of a core's own carry copy beats over a link in this cycle: those no push has taken (R293). The core's cycle has
ended. -/
def State.slotBeats (s : State) (h : Hop) (k : CoreId) : Nat :=
  match s.coreAt k with
  | none => 0
  | some c => match s.ctxOf c.ctx with
    | none => 0
    | some x => if h.1 ≠ c.site then 0 else
        ((List.range 6).filter fun b =>
          let n := 6 * framePos h.1 s.clock + b
          decide (n < 368) && x.ownsSlot c.site h.2 (k.toNat % 16) n && !c.slotTaken h.2 n 1 (c.now - 1)).length
/-- Whether a flight can leave in a slot of its core's own: a copy's beat, for the die across the link (R293). -/
def State.slotFor (s : State) (f : Flight) : Bool :=
  match f.hops with
  | [h] => f.cargo.ofCopy && f.eng == 3 && decide (Store.get 0 s.beats (slotKey h f.core) < s.slotBeats h f.core)
  | _ => false
/-- Whether a flight can leave in a beat of this cycle: one is left. -/
def State.beatFor (s : State) (f : Flight) : Bool :=
  match f.hops with
  | [] => false
  | h :: _ => !f.owned && decide (f.due ≤ s.clock) && (f.cargo.untimed || s.runs f.core) &&
      (s.slotFor f || decide (Store.get 0 s.beats (hopKey h) < residueBeats (framePos h.1 s.clock)))
/-- The flight that the next residue beat carries: the head of its queue. -/
def State.beatDue (s : State) : Option (Flight × List Flight) := firstFlight Flight.before s.beatFor s.flights
/-- A flight crosses a link: the last crossing brings it to its end 26 cycles after its arrival there (Table 5-4). -/
def Flight.cross (f : Flight) (clock : Nat) : Flight :=
  match f.hops with
  | [] => f
  | h :: t => { f with hops := t, due := clock + hopCycles h.2 + (if t.isEmpty then 26 else 0) }
/-- RESIDUE_BEAT (R293): at the end of a cycle a beat carries the head entry of its queue; a copy's beat goes in a slot of its core's
own where there is one. A beat that only carries data ends with its last crossing. -/
def execResidueBeat (s : State) : Out :=
  match s.beatDue with
  | none => ok s
  | some (f, r) =>
    match f.hops with
    | [] => ok s
    | h :: t =>
      let k := if s.slotFor f then slotKey h f.core else hopKey h
      ok { s with
        flights := if f.cargo == .beat && t.isEmpty then r else r ++ [f.cross s.clock]
        beats := Store.set 0 s.beats k (Store.get 0 s.beats k + 1) }

/-! ### Performing at the home (R108, R302) -/

/-- The cores that wait on a word of stage memory: true for WEV. -/
def State.waiters (s : State) (key : Nat) : List (CoreId × Dword) :=
  s.allCores.flatMap fun c =>
    ((match c.lnk.wsig with
      | some w => [w.addr]
      | none => []) ++ (match c.ctl.wev with
      | some w => [w.addr]
      | none => [])).filterMap fun (a : Dword) =>
      match s.locate c a.toNat 8 with
      | .ok (.stage _ k, _) => if k / 8 = key / 8 then some (c.id, a) else none
      | _ => none
/-- The home of an atomic's word tells every waiting core (R302). -/
def State.tell (s : State) (home key : Nat) : State :=
  { s with flights := s.flights ++ (s.waiters key).map fun p =>
      let r := match (s.coreAt p.1).bind fun c => s.ctxOf c.ctx with
        | some x => x.routeTo (Config.bfSite home) (p.1.toNat / 16)
        | none => []
      { cargo := .notify p.2, core := p.1, eng := 7, pos := 0, addr := p.2, hops := r, owned := false
        due := flightDue r s.clock, bad := false } }
/-- Bytes of an access. -/
def MemOp.bytes : MemOp → Nat
  | .load _ _ n _ => n
  | .own _ _ => 4
  | .store n _ => n
  | .amo _ _ _ w _ _ => amoBytes w
  | .wait _ _ => 8
/-- An answer leaves the home for the core that a flight serves. -/
def State.answer (s : State) (f : Flight) (home : Nat) (cargo : Cargo) : State :=
  let r := match (s.coreAt f.core).bind fun c => s.ctxOf c.ctx with
    | some x => x.routeTo (Config.bfSite home) (f.core.toNat / 16)
    | none => []
  { s with flights := s.flights ++ [{ f with cargo := cargo, hops := r, due := flightDue r s.clock }] }
/-- Change the waits of a core that carry a tag. -/
def Core.setSeen (c : Core) (tag : Nat) (v : Dword) : Core :=
  let put (w : Option WaitWord) : Option WaitWord := w.map fun w => if w.tag = tag then { w with last := some v } else w
  { c with lnk := { c.lnk with wsig := put c.lnk.wsig }, ctl := { c.ctl with wev := put c.ctl.wev } }
/-- A request performs at its place: memory changes, a reply leaves, and an atomic tells the waiters. -/
def State.performReq (s : State) (f : Flight) (op : MemOp) : State :=
  match s.coreAt f.core with
  | none => s
  | some c =>
    match s.locate c f.addr.toNat op.bytes with
    | .ok (.stage home key, _) =>
      let (s1, v) := s.performOp f.core op (.stage home key) f.addr.toNat
      match op with
      | .load d tag _ _ => s1.answer f home (.reply d tag v false)
      | .own d tag => s1.answer f home (.reply d tag v false)
      | .amo d tag _ _ _ _ => (s1.answer f home (.reply d tag v true)).tell home key
      | .store _ _ => s1
      | .wait ev tag => if ev then s1.answer f home (.seen tag v) else s1.modCore f.core fun c => c.setSeen tag v
    | _ => s
/-- STAGE_ACCESS_PERFORM (R108): a request that has reached its home performs there. -/
def execStageAccessPerform (s : State) : Out :=
  match s.landingOf fun x => match x with
    | .req _ => true
    | _ => false with
  | some (f, s1) =>
    match f.cargo with
    | .req op => ok (s1.performReq f op)
    | _ => ok s
  | none => ok s
/-- STAGE_REPLY (R108): the result of a load is ready; that of an atomic is ready a cycle later. -/
def execStageReply (s : State) : Out :=
  match s.landingOf fun x => match x with
    | .reply _ _ _ _ => true
    | .seen _ _ => true
    | _ => false with
  | some (f, s1) =>
    match f.cargo with
    | .reply d tag v amo => ok (s1.modCore f.core fun c => c.fillG d tag v false (c.now + bit amo))
    | .seen tag v => ok (s1.modCore f.core fun c => c.setSeen tag v)
    | _ => ok s
  | none => ok s
/-- SIGNAL_NOTIFY (R302): a waiting core reads the word again in the next cycle. -/
def execSignalNotify (s : State) : Out :=
  match s.landingOf fun x => match x with
    | .notify _ => true
    | _ => false with
  | some (f, s1) =>
    let wake (now : Nat) (w : Option WaitWord) : Option WaitWord :=
      w.map fun w => if w.addr = f.addr then { w with next := min w.next (now + 1) } else w
    ok (s1.modCore f.core fun c => { c with
      lnk := { c.lnk with wsig := wake c.now c.lnk.wsig }
      ctl := { c.ctl with wev := wake c.now c.ctl.wev } })
  | none => ok s

/-! ### Copies, and requests to other packages (R161, R296) -/

/-- Whether a core runs its part of the present cycle: what comes to its scratch takes its turn among its own effects (R140). -/
def State.runsCycle (s : State) (c : Core) : Bool := !c.frozen && !c.halted && c.delay == 0 && s.host.boot != .moored
/-- Whether a piece of a copy of a core ends in the SRAMs of its die while the core's cycles run: its writes take their turn among those
of the core (R140, R167). -/
def State.onDieNow (s : State) (c : Core) (g : Bool) (ws : List (Nat × List Byte)) : Bool :=
  s.runsCycle c && ws.all fun w => g || (s.copyPlace c g w.1 w.2.length).any Place.onDie
/-- The last beat of a piece has arrived: the piece is written (R161), in stage memory or while local time stands at once, else by the
core in this cycle. -/
def State.landPiece (s : State) (f : Flight) (ch : Nat) (g : Bool) (ws : List (Nat × List Byte)) : State :=
  let k := f.core
  let write (t : State) (p : Nat × List Byte) : State :=
    match t.coreAt k with
    | some c => t.copyWrite c g p.1 p.2
    | none => t
  if (s.coreAt k).any fun c => s.onDieNow c g ws then
    s.modCore k fun c => { c with fly := c.fly ++ ws.map fun w =>
      { due := c.now, eng := 3, pos := f.pos, seq := f.seq, eff := .copy ch g w.1 w.2 } }
  else
    (ws.foldl write s).modCore k fun c => c.modCh ch fun h => { h with snap := h.snap.map fun x => { x with nwrit := x.nwrit + ws.length } }
/-- The home BF die at which a flight takes a port of stage memory as it acts, for timed traffic or for a piece of a copy (Table 15-6). -/
def State.homeAt (s : State) (piece : Bool) (f : Flight) : Option Nat :=
  let at_ (g : Bool) (a n : Nat) : Option Nat := match (s.coreAt f.core).bind fun c => s.copyPlace c g a n with
    | some (.stage h _) => some h
    | _ => none
  match f.cargo with
  | .req op => if piece then none else at_ false f.addr.toNat op.bytes
  | .claim _ => if piece then none else at_ false f.addr.toNat 4
  | .rowAsk n => if piece then none else at_ false f.addr.toNat n
  | .piece _ g ws => if piece then ws.head?.bind fun w => at_ g w.1 w.2.length else none
  | _ => none
/-- Timed traffic at a home, and a plane swap in its memory, go before a piece of a copy there (R350): a piece that meets one is put off by
a cycle, twice at most. -/
def State.overtaken (s : State) : Option State :=
  let now := s.flights.filter s.lands
  (s.flights.find? fun f => s.lands f && decide (f.blocked < 2) && (s.homeAt true f).any fun h =>
      s.swapped.contains (false, h) || now.any fun g => s.homeAt false g == some h).map fun f =>
    { s with flights := s.flights.map fun g => if g = f then { g with due := s.clock + 1, blocked := g.blocked + 1 } else g }
/-- A route between two sites, for traffic of a core. -/
def State.routeAt (s : State) (k : CoreId) (src dst : Nat) : List Hop :=
  match (s.coreAt k).bind fun c => s.ctxOf c.ctx with
  | some x => x.routeTo src dst
  | none => []
/-- A gather's request for a row has reached the table's home: the row is read, and its beats set out, the last of them with the row
(R288, R304). -/
def State.landRowAsk (s : State) (f : Flight) (len : Nat) : State :=
  match s.coreAt f.core with
  | none => s
  | some c =>
    let home := match s.copyPlace c false f.addr.toNat 1 with
      | some (.stage h _) => Config.bfSite h
      | _ => c.site
    let hops := s.routeAt c.id home c.site
    let g (x : Cargo) : Flight := { f with cargo := x, hops := hops, due := flightDue hops s.clock }
    { s with flights := s.flights ++ List.replicate (if hops.isEmpty then 0 else (len + 63) / 64 - 1) (g .beat) ++
        [g (.row (s.copyRead c false f.addr.toNat len))] }
/-- Change the gather at a position. -/
def Core.modGather (c : Core) (pos : Nat) (f : GJob → GJob) : Core :=
  let g (j : GJob) : GJob := if j.pos = pos then f j else j
  { c with gjob := c.gjob.map g, gtail := c.gtail.map g }
/-- A row has reached its core, for the gather at a position. -/
def State.landRow (s : State) (f : Flight) (bs : List Byte) : State :=
  s.modCore f.core fun c => c.modGather f.pos fun j => { j with row := some bs }
/-- A request has reached the CL die, and leaves through its port. -/
def State.leave (s : State) (k : CoreId) (pkg : BitVec 13) (cl : Nat) : State :=
  { s with fabric := s.fabric ++ [(cl, clPort pkg.toNat, k, pkg)] }
/-- An answer of the fabric comes in at its CL die and sets out for its core (R296). -/
def State.podBack (s : State) (k : CoreId) (pkg : BitVec 13) (r : PodAns) : State :=
  let hops := s.routeAt k (clSite pkg.toNat) (k.toNat / 16)
  { s with flights := s.flights ++ [{
      cargo := .podAns pkg r, core := k, eng := 4, pos := 0, addr := 0, hops := hops, owned := false, due := s.clock + 1, bad := false }] }

/-! ### Claims (R116) -/

/-- A claim of core k at an element: the state after, and whether it is granted. -/
def State.claimAt (s : State) (xid : CtxId) (k : CoreId) (a : Nat) : State × Bool :=
  match s.ctxOf xid with
  | none => (s, false)
  | some x =>
    match x.planeAt (k.toNat / 16) a with
    | none => (s, false)
    | some (n, d) =>
      let st := if d.shared then k.toNat / 16 else 0
      let e := (a - d.vbase.toNat) / d.elem
      let new : PlaneCell := {
        ctx := xid, reg := n, site := st, elem := e, next := 0, wr := k, coll := false, cl := true }
      match s.cell xid n st e with
      | none => (s.putCell new, true)
      | some o => if o.wr = k then (s.putCell { o with cl := true }, true) else (s, false)
/-- The answer of a claim leaves the element's memory. -/
def State.answerClaim (s : State) (f : Flight) (c : Core) (cargo : Cargo) : State :=
  match s.locate c f.addr.toNat 4 with
  | .ok (.stage home _, _) => s.answer f home cargo
  | _ => { s with flights := s.flights ++ [{ f with cargo := cargo, due := s.clock + 2 }] }
/-- CLAIM_ARRIVAL (R116): a claim is granted or refused. -/
def execClaimArrival (s : State) : Out :=
  match s.landingOf fun x => match x with
    | .claim _ => true
    | _ => false with
  | some (f, s1) =>
    match f.cargo, s.coreAt f.core with
    | .claim tag, some c =>
      let p := s1.claimAt c.ctx f.core f.addr.toNat
      ok (p.1.answerClaim f c (.claimAns p.2 tag))
    | _, _ => ok s1
  | none => ok s
/-- CLAIM_ANSWER (R116): the answer returns to the store that waits for it. -/
def execClaimAnswer (s : State) : Out :=
  match s.landingOf fun x => match x with
    | .claimAns _ _ => true
    | _ => false with
  | some (f, s1) =>
    match f.cargo with
    | .claimAns good tag => ok (s1.modCore f.core fun c =>
        if c.ctl.claim == some (tag, none) then { c with ctl := { c.ctl with claim := some (tag, some good) } } else c)
    | _ => ok s
  | none => ok s

end Sys2Proof.Machine
end

