-- ==== Sys2Proof/Machine/Copy.lean ====
section
/-! DEFINITION. Copy.lean: the copy engine: its words, fixed and variable copies, schedules and page moves (R156 to R176). -/
namespace Sys2Proof.Machine

/-- A CPY word reads a register (R36). -/
def cpyRd (s : State) (r : GReg) : Dword := s.core.rd 3 r
/-- A CPY word issues with a change of the core. -/
def cpyIssue (f : Core → Core) (s : State) : Out := ok (s.mapCore fun c => (f c).issue 3 1 0)
/-- CGEO (R169). -/
def execCgeo (d a b : GReg) (l ch : BitVec 3) (s : State) : Out :=
  gate (.cgeo d a b l ch) s (unmarked s 3 [d, a, b] (
    let v : GeoLevel := { count := (cpyRd s d).setWidth 32, ss := cpyRd s a, ds := cpyRd s b }
    cpyIssue (fun c => c.modCh ch.toNat fun h => { h with geo := h.geo.setIfInBounds l.toNat v }) s))
/-- CLAY (R170). -/
def execClay (a b : GReg) (ch : BitVec 3) (s : State) : Out :=
  gate (.clay a b ch) s (unmarked s 3 [a, b]
    (cpyIssue (fun c => c.modCh ch.toNat fun h => { h with l0 := cpyRd s a, l1 := cpyRd s b }) s))

/-! ### Starting a copy (R157, R159, R161, R162, R171, R172) -/

/-- The snapshot of a channel for a copy (R157). -/
def Channel.snapOf (h : Channel) (d a : Dword) (e : Nat) (sg dg fill : Bool) (pos seq : Nat) : Snap := {
  dbase := d, sbase := a, e := e, sg := sg, dg := dg, fill := fill, geo := h.geo, l0 := h.l0, l1 := h.l1, fixed := false
  readAt := 0, pos := pos, seq := seq, nread := 0, nwrit := 0, nseen := 0, stop := false }
/-- The storage of a side's first byte; none for gather table SRAM. Where the pages of a side lie at several homes, that of its first byte
gives the BF die whose CPY executes the copy and the site that its beats come from or go to (R161): the manual does not say. DESIGN CHOICE
(log entry 107). -/
def State.sidePlace (s : State) (c : Core) (x : Snap) (dst : Bool) : Option Place :=
  if (if dst then x.dg else x.sg) then none
  else s.copyPlace c false (wrap64 (x.extent dst).1).toNat (x.extent dst).2
/-- Whether a side lies in the SRAMs of the die (R161). -/
def State.sideOnDie (s : State) (c : Core) (x : Snap) (dst : Bool) : Bool :=
  match s.sidePlace c x dst with
  | none => true
  | some p => p.onDie
/-- Read and write offset of a side's memory (Table 7-4); gather table SRAM has 6 and 6. -/
def State.sideOffsets (s : State) (c : Core) (x : Snap) (dst : Bool) : Nat × Nat :=
  match s.sidePlace c x dst with
  | none => (6, 6)
  | some p => p.copyOffsets
/-- Read offset of a copy; a fill counts 2 (R172). -/
def State.readOffset (s : State) (c : Core) (x : Snap) : Nat := if x.fill then 2 else (s.sideOffsets c x false).1
/-- Whether an extent meets a page that is being moved (R111). -/
def State.meetsBusy (s : State) (c : Core) (x : Snap) : Bool :=
  match s.ctxOf c.ctx with
  | none => false
  | some cx => (if x.fill then [true] else [false, true]).any fun d =>
      !(if d then x.dg else x.sg) && cx.busyAt (wrap64 (x.extent d).1).toNat (x.extent d).2
/-- The home of a side in HBM or TIER2. -/
def State.sideHome (s : State) (c : Core) (x : Snap) (dst : Bool) : Option Nat :=
  match s.sidePlace c x dst with
  | some (.hbm h _) => some h
  | some (.tier2 h _) => some h
  | _ => none
/-- The CPY that executes a variable copy: that of the source's or else the destination's home BF die, where one lies in HBM or TIER2;
else the issuing core's (R161). -/
def State.copyExec (s : State) (c : Core) (x : Snap) : Nat :=
  match (if x.fill then none else s.sideHome c x false) with
  | some h => h
  | none => (s.sideHome c x true).getD (16 + c.id.toNat)
/-- The place of a copy in the issue order of its core's copies: the schedule entries of a cycle come before its words (R167). -/
def copySeq (now ch : Nat) (word : Bool) : Nat := 16 * now + (if word then 8 else ch)
/-- A checked copy starts on channel ch at the cycle now; `varies` makes it variable in any case (R174). The request of a variable one
reaches its CPY after a time that the manual does not fix (R161). -/
def State.startCopy (s : State) (ch : Nat) (x : Snap) (stat : Dword) (varies : Bool) : State :=
  let c := s.core
  let fixed := !varies && s.sideOnDie c x true && (x.fill || s.sideOnDie c x false)
  let far := Config.freeDelay s.free
  let y := { x with
    fixed := fixed, readAt := c.now + (if fixed then s.readOffset c x else far)
    exec := if fixed then 16 + c.id.toNat else s.copyExec c x, turn := s.clock + far }
  { s with free := if fixed then s.free else s.free + 1 }.mapCore fun c => c.modCh ch fun h =>
    { h with state := .busy, status := stat, issued := true, begun := h.begun ++ [y], snap := some y }
/-- The shape of CGO and CFILL. -/
def copyWord (i : Instr) (d a b : GReg) (e ch : BitVec 3) (sg dg fill : Bool) (s : State) : Out :=
  let h := s.core.ch ch.toNat
  let x := h.snapOf (cpyRd s d) (cpyRd s a) e.toNat sg dg fill (s.core.engOf 3).pos (copySeq s.core.now 0 true)
  gate i s (
    if h.state = .busy then waitAt s 3 0x0C
    else unmarked s 3 [d, a, b] (
      match s.copyCheck s.core ch.toNat 0 x h.sched.isSome (cpyRd s b) with
      | some (cause, ev) => trapAt s 3 cause ev
      | none =>
        if s.meetsBusy s.core x then waitAt s 3 6
        else powered s 3 i (cpyIssue id (s.startCopy ch.toNat x (cpyRd s b) false))))
/-- CGO (R171). -/
def execCgo (d a b : GReg) (sg dg : BitVec 1) (e ch : BitVec 3) (s : State) : Out :=
  copyWord (.cgo d a b sg dg e ch) d a b e ch (sg == 1) (dg == 1) false s
/-- CFILL (R172). -/
def execCfill (d a b : GReg) (dg : BitVec 1) (e ch : BitVec 3) (s : State) : Out :=
  copyWord (.cfill d a b dg e ch) d a b e ch false (dg == 1) true s

/-! ### Moving elements (R161, R162) -/

/-- The bytes that element j of a copy writes. -/
def State.elementBytes (s : State) (c : Core) (x : Snap) (j : Nat) : List Byte :=
  if x.fill then x.pattern else s.copyRead c x.sg (x.addr false j) (2 ^ x.e)
/-- Whether a fixed copy has an element to read now. -/
def Channel.readDue (h : Channel) (now : Nat) : Bool :=
  h.state == .busy && (match h.snap with
    | some x => x.fixed && !x.stop && decide (x.nread < x.total) && decide (x.readAt ≤ now)
    | none => false)
/-- A use of a bank's port: of die-shared scratch or of local scratch, write or read port, first byte, length. -/
abbrev Port := Bool × Bool × Nat × Nat
/-- The ports that an effect of a rank above a copy's takes (Table 15-6): accesses of CTL, beats of LDQ and STQ, the compare reads of
LACAS. An atomic reads and writes. -/
def Core.portsOf (c : Core) (o : LocalOp) : List Port :=
  match o.eff with
  | .ctl op sh k _ => match op with
    | .load _ _ n _ => [(sh, false, k, n)]
    | .store n _ => [(sh, true, k, n)]
    | .amo _ _ _ w _ _ => [(sh, false, k, amoBytes w), (sh, true, k, amoBytes w)]
    | _ => [(sh, false, k, 8)]
  | .beat _ k => [(false, false, k, 64)]
  | .write sh k bs => if o.eng = 0 then [(sh, true, k, bs.length)] else []
  | .podData k n =>
    if c.lnk.podq.any fun p => p.eng == 4 && p.pos == o.pos && (match p.kind with
      | .atomic _ _ _ _ _ => true
      | _ => false) then [(false, false, k, n)] else []
  | _ => []
/-- The local reads of a waiting LWSIG or WEV in cycle n (R302). -/
def waitPorts (n : Nat) (w : Option WaitWord) : List Port :=
  match w with
  | some w => if w.addr.toNat < 2 ^ 24 ∧ w.next ≤ n then [(false, false, w.addr.toNat, 8)] else []
  | none => []
/-- The write of the next answer of an LGET or a remote atomic of a pod queue from a package (R299, R301). -/
def podPorts (q : List PodRec) (pkg : BitVec 13) : List Port :=
  match q.find? fun p => p.pkg == pkg with
  | some p => match p.kind with
    | .get dst _ => [(false, true, dst + p.off, 256)]
    | .atomic _ w dst _ _ => [(false, true, dst, amoBytes w)]
    | _ => []
  | none => []
/-- The local cycle that a core runs in the package's next cycle, none where its local time stands; `moved` says that it has run its part of
the present cycle (R126). -/
def Core.nextCycle (k : Core) (moved : Bool) : Option Nat :=
  if !k.live || k.frozen || k.halted then none
  else if moved then (if k.delay = 0 then some k.now else none)
  else if k.delay = 0 then some (k.now + 1) else if k.delay = 1 then some k.now else none
/-- The cores of the moving core's die beside it that run in the package's next cycle, each with its local cycle then. -/
def State.dieMates (s : State) : List (Core × Nat) :=
  (s.others.filter fun k => k.site == s.core.site && k.id != s.core.id).filterMap fun k =>
    (k.nextCycle (decide (k.id < s.core.id))).map fun m => (k, m)
/-- What requesters of the ranks above take in cycle n at the banks of a core's die (Table 15-6): its own in local scratch, those of
every core of the die in die-shared scratch. -/
def State.portsTaken (s : State) (c : Core) (n : Nat) : List Port :=
  let due (k : Core) (n : Nat) : List Port := (k.fly.filter fun o => o.due == n).flatMap k.portsOf
  let pods := (s.flights.filter fun f => f.core == c.id && f.hops.isEmpty && decide (f.due ≤ s.clock + 1)).flatMap fun f =>
    match f.cargo with
    | .podAns pkg (.ok _) => podPorts c.lnk.podq pkg
    | _ => []
  due c n ++ waitPorts n c.lnk.wsig ++ waitPorts n c.ctl.wev ++ pods ++
    (s.dieMates.flatMap fun p => due p.1 p.2).filter fun p => p.1
/-- Whether an access of a copy meets one of them at its bank. -/
def outranked (l : List Port) (p : Port) : Bool :=
  l.any fun q => q.1 == p.1 && q.2.1 == p.2.1 && Config.sameBank (q.2.2.1, q.2.2.2) (p.2.2.1, p.2.2.2)
/-- The port that a copy's access to n bytes at an address takes, where its memory has ranks above the copies'. -/
def State.copyPort (s : State) (c : Core) (wr g : Bool) (a n : Nat) : Option Port :=
  match s.copyPlace c g a n with
  | some (.scratch k) => some (false, wr, k, n)
  | some (.shared k) => some (true, wr, k, n)
  | _ => none
/-- A channel whose element is held back in cycle n goes on a cycle later, that element and every later one (R162). -/
def Core.holdCopy (c : Core) (ch n : Nat) : Core :=
  let late (o : LocalOp) : LocalOp := match o.eff with
    | .copy k _ _ _ => if k = ch ∧ n ≤ o.due then { o with due := o.due + 1 } else o
    | _ => o
  { c.modCh ch fun h => { h with snap := h.snap.map fun x => { x with readAt := max x.readAt n + 1 } } with fly := c.fly.map late }
/-- Whether an element that a channel writes in cycle n is held back at its bank. -/
def State.writeHeld (s : State) (c : Core) (l : List Port) (ch n : Nat) : Bool :=
  c.fly.any fun o => o.due == n && (match o.eff with
    | .copy k g a bs => k == ch && (s.copyPort c true g a bs.length).any (outranked l)
    | _ => false)
/-- Whether the element that a channel would read in cycle n is held back at its bank. -/
def State.readHeld (s : State) (c : Core) (l : List Port) (ch n : Nat) : Bool :=
  match (c.ch ch).snap with
  | some x => x.fixed && !x.fill && !x.stop && decide (x.nread < x.total) && decide (x.readAt ≤ n) &&
      (s.copyPort c false x.sg (x.addr false x.nread) (2 ^ x.e)).any (outranked l)
  | none => false
/-- Elements of fixed copies of the moving core that a requester of a higher rank holds back in cycle n (R162, R350). A channel that is held
back takes none of the four places of the cycle: the manual does not say. DESIGN CHOICE (log entry 104). -/
def State.holdCopies (s : State) (n : Nat) : Core :=
  if s.core.chan.toList.all fun h => h.state != .busy then s.core else
    let l := s.portsTaken s.core n
    (List.range 8).foldl (fun c ch =>
      if s.writeHeld c l ch n then c.holdCopy ch n
      else if s.readHeld c l ch n then c.modCh ch fun h => { h with snap := h.snap.map fun x => { x with readAt := n + 1 } }
      else c) s.core
/-- What LDQ and STQ beats of the moving core, and accesses of CTL on the cores of its die before it, take in cycle n (Table 15-6). -/
def State.ctlTaken (s : State) (n : Nat) : List Port :=
  let c := s.core
  ((c.fly.filter fun o => o.due == n && (match o.eff with
    | .beat _ _ => true
    | .write _ _ _ => o.eng == 0
    | _ => false)).flatMap c.portsOf) ++
  ((s.dieMates.filter fun p => decide (p.1.id < c.id)).flatMap fun p => (p.1.fly.filter fun o => o.due == p.2 && (match o.eff with
    | .ctl _ sh _ _ => sh
    | _ => false)).flatMap p.1.portsOf)
/-- An access of CTL that its bank holds back performs a cycle later, and so does what CTL has issued after it to the same memory: those
perform in the order they issued (R108, R109). -/
def Core.holdAccess (c : Core) (o : LocalOp) (sh : Bool) : Core :=
  let same (x : LocalEff) : Bool := match x with
    | .ctl _ b _ _ => b == sh
    | .beat _ _ => !sh
    | .write _ _ _ => !sh
    | _ => false
  { c with fly := c.fly.map fun x =>
      if x = o then { x with due := x.due + 1, held := x.held + 1 }
      else if x.eng = 0 ∧ o.pos < x.pos ∧ same x.eff then { x with due := x.due + 1 } else x }
/-- The access of CTL due in cycle n that a requester of a higher rank holds back at its bank, three cycles at most (R108, R350). -/
def State.holdCtl (s : State) (n : Nat) : State :=
  let held (o : LocalOp) : Option (LocalOp × Bool) := match o.eff with
    | .ctl _ sh _ _ => if o.due == n && decide (o.held < 3) && (s.core.portsOf o).any (outranked (s.ctlTaken n)) then some (o, sh) else none
    | _ => none
  match s.core.fly.findSome? held with
  | some (o, sh) => s.mapCore fun c => c.holdAccess o sh
  | none => s
/-- COPY_ELEMENT (R162): the next element of a fixed copy is read, and its write is due at its offset. -/
def execCopyElement (ch : BitVec 3) (s : State) : Out :=
  let c := s.core
  let h := c.ch ch.toNat
  if !h.readDue c.now then ok s else
    match h.snap with
    | none => ok s
    | some x =>
      let o : LocalOp := {
        due := c.now + (s.sideOffsets c x true).2, eng := 3, pos := x.pos, seq := x.seq
        eff := .copy ch.toNat x.dg (x.addr true x.nread) (s.elementBytes c x x.nread) }
      ok (s.mapCore fun c => { c.modCh ch.toNat fun h =>
          { h with snap := some { x with nread := x.nread + 1, readAt := c.now + 1 } } with
        fly := c.fly ++ [o], cpyReads := c.cpyReads + 1 })
/-- Elements of a piece: at most 4 KiB (R161). -/
def Snap.pieceLen (x : Snap) : Nat := min (x.total - x.nread) (max 1 (4096 / 2 ^ x.e))
/-- The elements j to j + n - 1 of a copy with their bytes, all read before any is written. -/
def State.pieceBytes (s : State) (c : Core) (x : Snap) (j : Nat) : Nat → List (Nat × List Byte)
  | 0 => []
  | n + 1 => (x.addr true j, s.elementBytes c x j) :: s.pieceBytes c x (j + 1) n
/-- The running variable copy of a channel that has no piece under way and more to move. -/
def Channel.asks (h : Channel) : Option Snap :=
  match h.snap with
  | some x => if h.state == .busy && !x.fixed && !x.stop && decide (x.nread < x.total) && x.nread == x.nwrit then some x else none
  | none => none
/-- Whether the CPY of a copy of core c moves pieces: while its die is halted only that of a BF die for the cores of others does (R329, R330).
-/
def Snap.moves (x : Snap) (c : Core) : Bool := !c.halted || (decide (x.exec < 8) && Config.bfSite x.exec != c.site)
/-- Whether the channel of a copy on core c is the next that its CPY serves: those of all cores take turns, in the order their requests
arrived (R161). -/
def State.inTurn (s : State) (c : Core) (ch : Nat) (x : Snap) : Bool :=
  s.allCores.all fun k => !k.live || k.frozen || (List.range 8).all fun n =>
    match (k.ch n).asks with
    | some y => y.exec != x.exec || !y.moves k || decide (s.clock < y.turn) || decide (x.turn < y.turn) ||
        (y.turn == x.turn && (decide (c.id < k.id) || (k.id == c.id && decide (ch ≤ n))))
    | none => true
/-- The channel whose variable copy starts a piece now. While local time stands in a halt its request alone gives the cycle. -/
def State.pieceDue (s : State) : Option Nat :=
  (List.range 8).find? fun ch => match (s.core.ch ch).asks with
    | some x => x.moves s.core && (s.core.halted || decide (x.readAt ≤ s.core.now)) && decide (x.turn ≤ s.clock) && s.inTurn s.core ch x
    | none => false
/-- The route of a copy's data: from the source to the CPY that moves it, and on to the destination (R161, R288). -/
def State.copyHops (s : State) (c : Core) (x : Snap) : List Hop :=
  let site (dst : Bool) : Nat := match s.sidePlace c x dst with
    | some (.stage h _) => Config.bfSite h
    | some (.hbm h _) => Config.bfSite h
    | some (.tier2 h _) => Config.bfSite h
    | _ => c.site
  let mid := if x.exec < 8 then Config.bfSite x.exec else c.site
  (if x.fill then [] else s.routeAt c.id (site false) mid) ++ s.routeAt c.id mid (site true)
/-- A piece of a copy sets out: beats of 64 bytes, the last of which writes it; on one die it takes no link. -/
def State.sendPiece (s : State) (c : Core) (x : Snap) (ch : Nat) (ws : List (Nat × List Byte)) : State :=
  let hops := s.copyHops c x
  let f (g : Cargo) : Flight := {
    cargo := g, core := c.id, eng := 3, pos := x.pos, addr := 0, hops := hops, owned := false
    due := s.clock + 1 + Config.freeDelay s.free, bad := false, seq := x.seq }
  let n := if hops.isEmpty then 0 else (ws.length * 2 ^ x.e + 63) / 64 - 1
  { s with free := s.free + 1, flights := s.flights ++ List.replicate n (f .beat) ++ [f (.piece ch x.dg ws)] }
/-- A CPY that has moved a piece moves the next one, of any core, a while later; the channel it served goes to the end of its ring. -/
def Core.served (c : Core) (exec rest : Nat) : Core :=
  { c with chan := c.chan.map fun h => { h with snap := h.snap.map fun y =>
      if y.exec = exec ∧ !y.fixed then { y with readAt := max y.readAt (c.now + 1 + rest) } else y } }
/-- COPY_PIECE (R161): a piece of a variable copy, of up to 4 KiB, is read and sets out for its destination. -/
def execCopyPiece (ch : BitVec 3) (s : State) : Out :=
  let c := s.core
  match (c.ch ch.toNat).asks with
  | none => ok s
  | some x =>
    let s1 := s.sendPiece c x ch.toNat (s.pieceBytes c x x.nread x.pieceLen)
    let rest := Config.freeDelay s1.free
    let s2 := s1.mapCore fun c => c.modCh ch.toNat fun h =>
      { h with snap := some { x with nread := x.nread + x.pieceLen, turn := s.clock + 1 } }
    ok { s2 with
      free := s2.free + 1, core := s2.core.served x.exec rest, others := s2.others.map fun k => k.served x.exec rest }

/-! ### The end of a cycle: watermarks, completion, stops, status (R164 to R166, R175) -/

/-- Writes of a channel that are in flight. -/
def Core.copyFly (c : Core) (ch : Nat) : Nat :=
  (c.fly.filter fun o => match o.eff with
    | .copy k _ _ _ => k == ch
    | _ => false).length
/-- 64 KiB units of a weight stack that an extent meets. -/
def wsUnits (k len : Nat) : List Nat := (List.range ((k + len + 65535) / 65536 - k / 65536)).map fun i => k / 65536 + i
/-- The HBM address that a copy moved wholly and in order into a unit of the weight stack, plus one; else zero (R323). -/
def State.wsSource (s : State) (c : Core) (x : Snap) (unit : Nat) : Nat :=
  match s.sidePlace c x false with
  | some (.hbm _ _) =>
    let js := (List.range x.total).filter fun j => (x.addr true j - wstackBase) / 65536 == unit
    let off (j : Nat) : Int := match s.copyPlace c false (x.addr false j) 1 with
      | some (.hbm _ k) => (k : Int) - (x.addr true j - wstackBase : Nat)
      | _ => -1
    match js with
    | [] => 0
    | j :: _ =>
      if 0 ≤ off j ∧ js.all (fun k => off k == off j) ∧ (js.map fun k => x.addr true k).eraseDups.length * 2 ^ x.e = 65536
      then (off j).toNat + 65536 * unit + 1 else 0
  | _ => 0
/-- The record of a unit that was last written in another way (R323); no HBM address. -/
def wsOther : Nat := 2 ^ 60
/-- Whether one of the first n elements of a copy writes into a unit of the weight stack. -/
def Snap.hitsUnit (x : Snap) (n u : Nat) : Bool :=
  (List.range n).any fun j =>
    decide (x.addr true j < wstackBase + 65536 * (u + 1)) && decide (wstackBase + 65536 * u < x.addr true j + 2 ^ x.e)
/-- What a copy that has performed, or got only so far, leaves in the records of the weight-stack units that it has written (R323). -/
def State.wsMark (s : State) (c : Core) (x : Snap) (whole : Bool) : Core :=
  match s.sidePlace c x true with
  | some (.wstack k) =>
    let src (u : Nat) : Nat := if whole then s.wsSource c x u else 0
    let put (r : Store Nat) (u : Nat) : Store Nat := Store.set 0 r u (if src u = 0 then wsOther else src u)
    { c with wsrec := ((wsUnits k (x.extent true).2).filter (x.hitsUnit (if whole then x.total else x.nwrit))).foldl put c.wsrec }
  | _ => c
/-- The records of a core whose running copies end here: each has written in part what it has written (R323, R327). -/
def State.wsCut (s : State) (c : Core) : Core :=
  c.chan.toList.foldl (fun d h => match h.snap with
    | some x => if h.state == .busy then s.wsMark d x false else d
    | none => d) c
/-- The records after a copy of the moving core. -/
def State.wsRecord (s : State) (x : Snap) (whole : Bool) : State := s.mapCore fun c => s.wsMark c x whole
/-- WM, STATE and CAUSE as the status doubleword shows them. -/
def Channel.shownNow (h : Channel) : Dword := { h with pendq := [] }.statusWord
/-- Channels whose copies have performed become IDLE (R171). -/
def State.endCopies (s : State) : State :=
  (List.range 8).foldl (fun s ch =>
    let h := s.core.ch ch
    match h.snap with
    | some x =>
      if h.state = .busy ∧ !x.stop ∧ x.nwrit = x.total then
        (s.wsRecord x true).mapCore fun c => c.modCh ch fun h =>
          { h with state := .idle, wm := (x.extent true).2, snap := none, entryAt := c.now + 4 }
      else s
    | none => s) s
/-- The first channel that has been cancelled and has no write in flight. -/
def Core.stopDone (c : Core) : Option Nat :=
  (List.range 8).find? fun ch => (c.ch ch).state == .busy && c.copyFly ch == 0 && (match (c.ch ch).snap with
    | some x => x.stop && (x.fixed || x.nread == x.nwrit)
    | none => false)
/-- COPY_STOP_COMPLETE (R175): the cancelled channel becomes STOPPED, with WM where it stood and nothing pending. -/
def execCopyStopComplete (s : State) : Out :=
  match s.core.stopDone with
  | none => ok s
  | some ch =>
    match (s.core.ch ch).snap with
    | none => ok s
    | some x => ok ((s.wsRecord x false).mapCore fun c => c.modCh ch fun h =>
        { h with state := .stopped, wm := h.wmNow, snap := none, pendq := [], entryAt := c.now + 4 })
/-- Waits of the next cycle see the watermarks of this one (R145). -/
def Core.seeMarks (c : Core) : Core :=
  { c with chan := c.chan.map fun h => { h with snap := h.snap.map fun x => { x with nseen := x.nwrit } } }
/-- The first channel whose status doubleword is to be written for this cycle (R166). -/
def Core.statusDue (c : Core) : Option Nat :=
  (List.range 8).find? fun ch => (c.ch ch).issued || (c.ch ch).shown != (c.ch ch).shownNow
/-- COPY_STATUS_WRITE (R166): the doubleword is written in the next cycle, with the state at the end of this one. -/
def execCopyStatusWrite (s : State) : Out :=
  match s.core.statusDue with
  | none => ok s
  | some ch =>
    let h := s.core.ch ch
    let w : List LocalOp := if h.status = 0 then [] else [{
      due := s.core.now + 1, eng := 3, pos := (s.core.engOf 3).pos, eff := .status h.status.toNat h.statusWord }]
    ok (s.mapCore fun c => { c.modCh ch fun h => { h with issued := false, shown := h.shownNow } with fly := c.fly ++ w })

/-! ### Schedules (R173, R174) -/

/-- The checks of a schedule table (R173): none, or cause and EVAL. The manual does not say which cause a table has that meets a planed range:
here 0x09 with the planed byte, as a destination has (R159). DESIGN CHOICE (log entry 105). -/
def State.tableCheck (s : State) (c : Core) (ch : Nat) (a : Dword) (n : Nat) : Option (Byte × Dword) :=
  if n = 0 ∨ 65536 < n ∨ a.toNat % 32 ≠ 0 then some (5, copyEval ch 5 0)
  else if isTranslated a.toNat then
    match (s.ctxOf c.ctx).bind fun x => (x.entryAt a.toNat).map fun e => (x, e) with
    | none => some (6, a)
    | some (x, e) =>
      if a.toNat + 32 * n > e.vbase.toNat + 2 ^ e.lsz then some (5, dw (e.vbase.toNat + 2 ^ e.lsz))
      else if e.cls ≠ 0 then some (5, copyEval ch 5 0)
      else if e.perm % 2 = 0 then some (5, a)
      else if x.planeMeets c.site a.toNat (32 * n) then some (9, x.planedByte c.site a.toNat (32 * n))
      else none
  else
    match s.locate c a.toNat (32 * n) with
    | .ok (.scratch _, _) => none
    | .ok _ => some (5, copyEval ch 5 0)
    | .error k => some (k, failByte a.toNat (s.reach c a.toNat))
/-- CSCHED (R173). -/
def execCsched (a b : GReg) (ch : BitVec 3) (s : State) : Out :=
  let n := field (cpyRd s b) 16 0
  gate (.csched a b ch) s (
    if (s.core.ch ch.toNat).state = .busy then waitAt s 3 0x0C
    else unmarked s 3 [a, b] (
      let bind (x : Option SchedBind) : Out := cpyIssue (fun c => c.modCh ch.toNat fun h => { h with sched := x, pendq := [], fetched := false, entry := [] }) s
      if cpyRd s a = 0 then bind none
      else match s.tableCheck s.core ch.toNat (cpyRd s a) n with
        | some (cause, ev) => trapAt s 3 cause ev
        | none => bind (some { addr := cpyRd s a, count := n, next := 0 })))
/-- CADV (R174). -/
def execCadv (ch : BitVec 5) (n : BitVec 13) (s : State) : Out :=
  let h := s.core.ch ch.toNat
  gate (.cadv ch n) s (
    match h.sched with
    | none => trapAt s 3 5 (copyEval ch.toNat 3 0)
    | some _ =>
      if 255 < h.pend + n.toNat then waitAt s 3 0x0C
      else cpyIssue (fun c => c.modCh ch.toNat fun h => { h with
          pendq := h.pendq ++ List.replicate n.toNat (c.engOf 3).pos
          entryAt := if h.pend = 0 then max h.entryAt (c.now + 3) else h.entryAt }) s)
/-- The channel whose next schedule entry issues now (R174). -/
def Core.entryDue (c : Core) : Option Nat :=
  (List.range 8).find? fun ch => (c.ch ch).sched.isSome && decide (0 < (c.ch ch).pend) && (c.ch ch).state != .busy &&
    decide ((c.ch ch).entryAt ≤ c.now)
/-- The copy that a schedule entry gives (Table 7-9), or none when the entry is invalid. -/
def entrySnap (h : Channel) (src dst ctrl : Dword) (pos seq : Nat) (gx : Bool) : Option Snap :=
  let e := field ctrl 2 0
  let cnt := field ctrl 47 16
  let x := h.snapOf dst src e (ctrl.getLsbD 4 && !ctrl.getLsbD 5) (ctrl.getLsbD 3) (ctrl.getLsbD 5) pos seq
  if e = 7 ∨ field ctrl 15 6 ≠ 0 ∨ field ctrl 63 48 ≠ 0 ∨ (!gx && (ctrl.getLsbD 3 || ctrl.getLsbD 4)) then none
  else if cnt = 0 then some x
  else some { x with geo := x.geo.setIfInBounds 0 { x.geo.getD 0 {} with count := BitVec.ofNat 32 cnt } }
/-- SCHEDULE_ENTRY_START (R174): the channel takes its next entry and runs it; a faulting entry moves nothing. An entry of a
stage-memory table is fetched first; a fetch from a page that is being moved, and a copy that meets one, wait until it has (R111): the words
of a fetched entry are kept while its copy waits. The manual does not give the cycle of the entry after a faulting one, nor that in which the
32 bytes of an entry in local scratch are read: here fault + 4, and the cycle in which the entry issues. DESIGN CHOICE (log entry 102). -/
def execScheduleEntryStart (s : State) : Out :=
  let c := s.core
  match c.entryDue with
  | none => ok s
  | some ch =>
    let h := c.ch ch
    match h.sched with
    | none => ok s
    | some b =>
      let at_ := b.addr.toNat + 32 * b.next
      let words := if h.entry.isEmpty then (List.range 4).map fun k => dw (ofBytes (s.copyRead c false (at_ + 8 * k) 8)) else h.entry
      let word (k : Nat) : Dword := words.getD k 0
      let far := isTranslated b.addr.toNat
      let pos := h.pendq.headD (c.engOf 3).lastPos
      let s1 := s.mapCore fun c => c.modCh ch fun h =>
        { h with pendq := h.pendq.drop 1, fetched := false, entry := [], sched := some { b with next := (b.next + 1) % b.count } }
      let fail (cause : Byte) (ev : Dword) : Out :=
        ok (s1.mapCore fun c => (c.modCh ch fun h => { h with state := .fault, cause := cause, entryAt := c.now + 4 }).post cause 3 ev)
      if far && !h.fetched && (s.ctx.any fun x => x.busyAt at_ 32) then ok (s.mapCore fun c => c.modCh ch fun h => { h with entryAt := c.now + 1 })
      else if far && !h.fetched then
        ok ({ s with free := s.free + 1 }.mapCore fun c => c.modCh ch fun h =>
          { h with fetched := true, entryAt := c.now + 1 + Config.freeDelay s.free })
      else match entrySnap h (word 0) (word 1) (word 2) pos (copySeq c.now ch false) (c.die == .gx) with
      | none => fail 5 (copyEval ch 5 b.next)
      | some x =>
        match s.copyCheck c ch b.next x false (word 3) with
        | some (cause, ev) => fail cause ev
        | none =>
          if s.meetsBusy c x then
            ok (s.mapCore fun c => c.modCh ch fun h => { h with entryAt := c.now + 1, entry := if far then words else [] })
          else ok (s1.startCopy ch x (word 3) far)
/-- Whether a page is one of the next n of a move. -/
def PageJob.covers (j : PageJob) (n : Nat) (p : PageHome) : Bool :=
  decide (j.addr.toNat ≤ p.page) && decide (p.page < j.addr.toNat + n * pageBytes)
/-- Bytes that a page holds where it lies, and where it is to lie: its own, or those of a longer page of the reserve (R104). -/
def PageHome.len (p : PageHome) (e : TransEntry) : Nat := max p.room e.pageLen
def PageHome.toLen (p : PageHome) (e : TransEntry) : Nat := max p.toRoom e.pageLen
/-- Pages keep their homes after all: what their move would have taken of the reserve returns to it. -/
def Context.keepPages (x : Context) (hit : PageHome → Bool) : Context :=
  let back := x.pages.filterMap fun p => match hit p, p.to_, x.entryAt p.page with
    | true, some (h, o, false), some e => some (e.cls, h, o, p.toLen e)
    | _, _, _ => none
  { x with spare := x.spare ++ back, pages := x.pages.map fun p => if hit p then { p with busy := false, to_ := none } else p }
/-- CSTOP (R175). -/
def execCstop (m : BitVec 8) (s : State) : Out :=
  gate (.cstop m) s (
    let hit (p : PageHome) : Bool := (List.range 8).any fun ch => m.getLsbD ch && (match (s.core.ch ch).page with
      | some j => j.covers j.left p
      | none => false)
    let s1 := s.modCtx s.core.ctx fun x => x.keepPages hit
    cpyIssue (fun c => (List.range 8).foldl (fun c ch =>
      if m.getLsbD ch && (c.ch ch).state == .busy then
        c.modCh ch fun h =>
          if h.page.isSome then { h with state := .stopped, page := none, pendq := [], entryAt := c.now + 4 }
          else { h with snap := h.snap.map fun x => { x with stop := true } }
      else c) c) s1)

/-! ### Page moves (R111, R176) -/

/-- Capacity of a class of memory at a BF die. -/
def classBytes (cls : Nat) : Nat := if cls = 0 then Config.stageBytes else if cls = 1 then Config.hbmBytes else Config.tier2Bytes
/-- Bytes of a core's save (R322): its scratch, and the matrix or vector state. -/
def saveBytes (site : Nat) : Nat :=
  match Config.siteType site with
  | .mx => Config.DieType.mx.scratch + 576 * 1024
  | .vx => Config.DieType.vx.scratch + 192 * 1024
  | t => t.scratch
/-- Bytes of a context's save area at a BF die. -/
def Context.saveLen (x : Context) (home : Nat) : Nat :=
  ((x.cores.filter fun k => saveHome x.dead (k.toNat / 16) == home).map fun k => saveBytes (k.toNat / 16)).sum
/-- The save areas of a context in the HBM4E of a BF die; a mirrored save has a second one in stack 1 (R318, R323). -/
def Context.saveAreas (x : Context) (home : Nat) : List (Nat × Nat) :=
  let o := x.rec_.save.toNat % 2 ^ 36
  (o, x.saveLen home) :: if x.rec_.mirror then [(2 ^ 36 + o, x.saveLen home)] else []
/-- Insert a range by its start. -/
def insertRange (r : Nat × Nat) : List (Nat × Nat) → List (Nat × Nat)
  | [] => [r]
  | x :: t => if r.1 < x.1 then r :: x :: t else x :: insertRange r t
/-- Bytes that ranges cover, none counted twice; below `lo` everything is counted already. -/
def sweep (lo : Nat) : List (Nat × Nat) → Nat
  | [] => 0
  | (a, n) :: t => (a + n - max lo a) + sweep (max lo (a + n)) t
/-- Bytes covered by a list of ranges. -/
def covered (l : List (Nat × Nat)) : Nat := sweep 0 (l.foldl (fun s r => insertRange r s) [])
/-- Bytes of the second plane and side storage of a region (R112). -/
def PlaneDesc.extra (d : PlaneDesc) : Nat := 65536 * d.units + (if d.wide then 16384 else 32768) * d.units
/-- Bytes of stage memory at a home that a context holds outside the addressable ranges. -/
def Context.extraAt (x : Context) (home : Nat) : Nat :=
  ((x.planes.filter fun d => !d.shared && (x.entryAt d.vbase.toNat).any fun e => e.home == home).map PlaneDesc.extra).sum
/-- The ranges that a context's loading takes in a class of memory at a home: entries and save areas (R104). -/
def Context.ranges (x : Context) (cls home : Nat) : List (Nat × Nat) :=
  (x.trans.filterMap fun e => if e.cls = cls ∧ e.home = home then some (e.target.toNat, 2 ^ e.lsz) else none) ++
  (if cls = 1 then (x.saveAreas home).filter fun r => r.2 != 0 else [])
/-- The ranges that a context holds there: those, its moved pages and the places they are to move to, and its page reserve. -/
def Context.holds (x : Context) (cls home : Nat) : List (Nat × Nat) :=
  x.ranges cls home
  ++ (x.pages.flatMap fun p => match x.entryAt p.page with
    | some e => if e.cls ≠ cls then [] else
        (if p.home = home then [(p.off, p.len e)] else []) ++ (match p.to_ with
          | some (h, o, _) => if h = home then [(o, p.toLen e)] else []
          | none => [])
    | none => [])
  ++ (x.spare.filterMap fun q => if q.1 = cls ∧ q.2.1 = home then some (q.2.2.1, q.2.2.2) else none)
/-- The lowest place of a page among held ranges: the end of one, or 0. DESIGN CHOICE (log entry 31). -/
def freePlace (cls len : Nat) (hs : List (Nat × Nat)) : Option Nat :=
  let ups := (0 :: hs.map fun h => (h.1 + h.2 + pageBytes - 1) / pageBytes * pageBytes).filter fun o =>
    decide (o + len ≤ classBytes cls) && hs.all fun h => decide (o + len ≤ h.1) || decide (h.1 + h.2 ≤ o)
  ups.min?
/-- A page of the free pool of a home: what no context holds, beside second planes and side storage, on a BF die that serves memory
(R22, R104). -/
def State.freePage (s : State) (x : Context) (cls home len : Nat) : Option Nat :=
  let all := x :: s.ctxs.filter fun y => y.id != x.id
  let hs := all.flatMap fun y => y.holds cls home
  let more := if cls = 0 then (all.map fun y => y.extraAt home).sum else 0
  if !s.bfGood home ∨ classBytes cls < covered hs + more + len then none else freePlace cls len hs
/-- Space for a page at a new home, with its bytes: a whole page of the context's reserve there, or with FORCE of the free pool (R104,
R176). -/
def State.takePage (s : State) (x : Context) (e : TransEntry) (home : Nat) (force : Bool) : Option (Context × Nat × Nat) :=
  if force then (s.freePage x e.cls home e.pageLen).map fun o => (x, o, e.pageLen)
  else (x.spare.find? fun q => q.1 == e.cls && q.2.1 == home && decide (e.pageLen ≤ q.2.2.2)).map fun q =>
    ({ x with spare := x.spare.erase q }, q.2.2.1, q.2.2.2)
/-- The pages of a move become busy, each with its new place; none where a page finds no room. A page at the new home stays. -/
def State.setBusy (s : State) (x : Context) (e : TransEntry) (a n home : Nat) (force : Bool) : Option Context :=
  (List.range n).foldl (fun x k => x.bind fun x =>
    let p := a + k * pageBytes
    let h := x.homeOf e p
    if h.1 = home then some x
    else (s.takePage x e home force).map fun (y, o, n) =>
      let old := x.pages.find? fun q => q.page == p
      let new : PageHome := {
        page := p, home := h.1, off := h.2, busy := true, pool := (old.map PageHome.pool).getD false, to_ := some (home, o, force)
        room := (old.map PageHome.room).getD 0, toRoom := n }
      { y with pages := new :: y.pages.filter fun q => q.page != p }) (some x)
/-- The checks of CPAGE but that for room (R176): cause and EVAL, or the entry of the pages. The page range is checked as a copy's source
is. -/
def State.pageCheck (s : State) (ch : Nat) (x : Context) (d a : Dword) (n : Nat) : Except (Byte × Dword) TransEntry :=
  let bad (k : Nat) : Except (Byte × Dword) TransEntry := .error (5, copyEval ch k 0)
  if n = 0 ∨ 4096 < n then bad 1
  else if a.toNat % pageBytes ≠ 0 then .error (4, a)
  else
    match x.entryAt a.toNat with
    | none => if isTranslated a.toNat then .error (6, a) else .error (5, a)
    | some e =>
      let len := (n - 1) * pageBytes + e.pageLen
      if a.toNat + len > e.vbase.toNat + 2 ^ e.lsz then .error (5, dw (e.vbase.toNat + 2 ^ e.lsz))
      else if e.perm % 2 = 0 then .error (5, a)
      else if e.cls ≠ 0 ∧ e.cls ≠ 1 ∨ x.planeMeets s.core.site a.toNat len then bad 6
      else if 7 < d.toNat then bad 8
      else .ok e
/-- Whether a page of a range of n pages is being moved: a CPAGE of it waits as any access does (R111). -/
def Context.pagesBusy (x : Context) (e : TransEntry) (a : Dword) (n : Nat) : Bool := x.busyAt a.toNat ((n - 1) * pageBytes + e.pageLen)
/-- CPAGE (R176). The manual does not say what WM shows of a page move: it is 0 from CPAGE's issue on. DESIGN CHOICE (log entry 106). -/
def execCpage (d a b : GReg) (f : BitVec 1) (ch : BitVec 3) (s : State) : Out :=
  let n := field (cpyRd s b) 12 0
  gate (.cpage d a b f ch) s (
    if (s.core.ch ch.toNat).state = .busy then waitAt s 3 0x0C
    else unmarked s 3 [d, a, b] (
      match s.ctx with
      | none => trapAt s 3 6 (cpyRd s a)
      | some x =>
        match s.pageCheck ch.toNat x (cpyRd s d) (cpyRd s a) n with
        | .error (cause, ev) => trapAt s 3 cause ev
        | .ok e =>
          if x.pagesBusy e (cpyRd s a) n then waitAt s 3 6
          else match s.setBusy x e (cpyRd s a).toNat n (cpyRd s d).toNat (f == 1) with
            | none => trapAt s 3 5 (copyEval ch.toNat 7 0)
            | some y => powered s 3 (.cpage d a b f ch) (
                let job : PageJob := {
                  pos := (s.core.engOf 3).pos, addr := cpyRd s a, left := n, next := s.core.now + Config.freeDelay s.free }
                cpyIssue (fun c => c.modCh ch.toNat fun h => { h with state := .busy, issued := true, page := some job, wm := 0 })
                  ({ s with free := s.free + 1 }.modCtx x.id fun _ => y))))
/-- Copy a page of n bytes within a memory between homes. -/
def State.movePage (s : State) (cls src dst n : Nat) : State :=
  if cls = 0 then { s with stage := Store.copy s.stage dst s.stage src n } else { s with hbm := Store.copy s.hbm dst s.hbm src n }
/-- A page takes its new place, and its old space returns to the reserve or to the free pool (R104, R176). -/
def Context.landPage (x : Context) (e : TransEntry) (p : PageHome) : Context :=
  match p.to_ with
  | none => x
  | some (h, o, force) =>
    { x with
      pages := { page := p.page, home := h, off := o, busy := false, pool := force, room := p.toRoom } :: x.pages.filter fun q => q.page != p.page
      spare := if p.pool then x.spare else x.spare ++ [(e.cls, p.home, p.off, p.len e)] }
/-- The page that a move copies next: its entry, itself, and the keys of its old and its new place. -/
def Context.nextPage (x : Context) (j : PageJob) : Option (TransEntry × PageHome × Nat × Nat) :=
  (x.entryAt j.addr.toNat).bind fun e => (x.pages.find? fun p => p.busy && j.covers 1 p).bind fun p => p.to_.map fun t =>
    (e, p, classBytes e.cls * p.home + p.off, classBytes e.cls * t.1 + t.2.1)
/-- The page that a channel of the moving core copies next. -/
def State.nextPage (s : State) (ch : Nat) : Option (TransEntry × PageHome × Nat × Nat) :=
  match (s.core.ch ch).page, s.ctx with
  | some j, some x => x.nextPage j
  | _, _ => none
/-- The words of the page that a channel copies next which cannot be read (R351, R352). -/
def State.pageBad (s : State) (ch : Nat) : List EccLoc :=
  match s.nextPage ch with
  | some (e, _, src, _) => s.poisoned (if e.cls = 0 then EccMem.stage else .hbm).has src e.pageLen
  | none => []
/-- The record of an error that ends a page move (R352): of a word of stage memory, the poisoned one where there is one, or of HBM4E. The
manual fixes neither unit nor syndrome. -/
def State.pageRec (s : State) (ch : Nat) : LogRec :=
  let far := (s.nextPage ch).any fun q => q.1.cls != 0
  let home := ((s.nextPage ch).map fun q => q.2.1.home).getD 0
  { time := s.clock, kind := if far then 6 else 2, site := Config.bfSite home, unit := (Config.freeEval s.free).setWidth 16
    ctx := s.core.ctx, action := 0, lost := 0
    addr := match s.pageBad ch with
      | l :: _ => dw (eccKey l)
      | [] => Config.freeEval (s.free + 1)
    synd := Config.freeEval (s.free + 2) }
/-- PAGE_MOVE (R176): the next page of a move is copied to its new home, and its busy bit clears; an uncorrectable error
ends the move, and is logged (R352). -/
def execPageMove (ch : BitVec 3) (err : Bool) (s : State) : Out :=
  let c := s.core
  match (c.ch ch.toNat).page, s.ctx with
  | some j, some x =>
    if err then
      ok (({ s with free := s.free + 4 }.logAt (s.pageRec ch.toNat).site (s.pageRec ch.toNat)).modCtx x.id
          (fun y => y.keepPages (j.covers j.left)) |>.mapCore fun c =>
        (c.modCh ch.toNat fun h => { h with state := .fault, cause := 5, page := none, entryAt := c.now + 4 }).post 5 3
          (Config.freeEval (s.free + 3)))
    else
      let (s1, y) := match x.nextPage j with
        | some (e, p, src, dst) => (s.movePage e.cls src dst e.pageLen, x.landPage e p)
        | none => (s, x)
      let last := j.left ≤ 1
      ok ({ s1 with free := s1.free + 1 }.modCtx x.id (fun _ => y) |>.mapCore fun c => c.modCh ch.toNat fun h =>
        if last then { h with state := .idle, page := none, entryAt := c.now + 4 }
        else { h with page := some { j with
          addr := j.addr + dw pageBytes, left := j.left - 1, next := c.now + 1 + Config.freeDelay s.free } })
  | _, _ => ok s

end Sys2Proof.Machine
end

