-- ==== Sys2Proof/Machine/Link.lean ====
section
/-! DEFINITION. Link.lean: the link engine: pushes, slots, pod verbs and waits for signals; answers and requests of the
fabric (R287 to R303). -/
namespace Sys2Proof.Machine

/-- An LNK word reads a register (R36). -/
def lnkRd (s : State) (r : GReg) : Dword := s.core.rd 4 r
/-- The LNK parameter form of EVAL (R294). -/
def lnkEval (kind : Nat) : Dword := dw (kind * 16 + 0x03 * 2 ^ 48 + 0xFF * 2 ^ 56)

/-! ### LPUSH (R289, R294) -/

/-- The destination core of a push descriptor (Table 13-4). -/
def pushDst (v : Dword) : CoreId := BitVec.ofNat 10 (field v 14 9 * 16 + field v 18 15)
/-- Beats of a push descriptor. -/
def pushBeats (v : Dword) : Nat := field v 28 23 + 1
/-- The route-table entry of a push (R288). -/
def State.pushRoute (s : State) (v : Dword) : Option RouteEntry :=
  s.ctx.bind fun x => x.routes.find? fun r => r.src == s.core.id && r.dst == pushDst v && r.handle.toNat == field v 22 19
/-- The first local cycle at or after `now` at which a slot occurs (R286). -/
def slotCycle (now slot : Nat) : Nat := now + (slot / 6 + 64 - now % 64) % 64
/-- The checks of LPUSH from the second on (R294): cause and EVAL, or the route and the cycle of the first departure. -/
def State.pushCheck (s : State) (h : HReg) (v : Dword) : Except (Byte × Dword) (RouteEntry × Nat) :=
  let c := s.core
  let slot := field v 8 0
  let nb := pushBeats v
  match s.pushRoute v with
  | none => .error (5, lnkEval 1)
  | some r =>
    if (c.hnd h).slot < nb * 64 then .error (5, lnkEval 2)
    else if field v 63 29 ≠ 0 ∨ 367 < slot + nb - 1 ∨ (r.hops = [] ∧ slot ≠ 0) then .error (5, lnkEval 3)
    else match r.hops with
      | [] => .ok (r, c.now)
      | hop :: _ =>
        let owned := match s.ctx with
          | some x => (List.range nb).all fun k => x.ownsSlot c.site hop.2 (c.id.toNat % 16) (slot + k)
          | none => false
        let at_ := slotCycle c.now slot
        if !owned then .error (0x13, dw (slot + hop.2 * 512))
        else if c.now + 8 < at_ ∨ c.slotTaken hop.2 slot nb at_ then .error (0x12, dw (slot + c.now % 2 ^ 48 * 2 ^ 16))
        else .ok (r, at_)
/-- Departure cycle of beat k of a push (R294). -/
def beatCycle (start slot k : Nat) (same : Bool) : Nat := if same then start else start + (slot + k) / 6 - slot / 6
/-- The beats of a push that are read after the issue cycle become due; those read in it are returned (R294). -/
def Core.readBeats (c : Core) (base start slot nb : Nat) : Core × List Byte :=
  let late := (List.range nb).filter fun k => c.now < beatCycle start slot k false - 1
  let now := (List.range nb).filter fun k => beatCycle start slot k false - 1 ≤ c.now
  (late.foldl (fun c k => c.later 4 (beatCycle start slot k false - 1 - c.now) (.beats (base + 64 * k) 64)) c,
    now.flatMap fun k => c.scratch.readBytes (base + 64 * k) 64)
/-- A push sets out over its route, or within the die (R289, R294). -/
def State.startPush (s : State) (r : RouteEntry) (start slot nb : Nat) (h : HReg) (rel : Bool) : State :=
  let c := s.core
  let x := c.hnd h
  let base := x.slotAt x.cidx
  let last := if r.hops = [] then c.now else max (beatCycle start slot (nb - 1) false - 1) c.now
  let c1 := if rel then (if last = c.now then c.atEnd (.release 4 h 1) else c.later 4 (last - c.now) (.atEnd (.release 4 h 1))) else c
  if r.hops = [] then
    { s with core := c1 }.sendOff 4 (.push r.dst r.handle (c.scratch.readBytes base (64 * nb))) 0 [] (s.clock + 10 + (nb - 1) / 6)
  else
    let p := c1.readBeats base start slot nb
    let rec_ : PushRec := {
      pos := (c.engOf 4).pos, dst := r.dst, dh := r.handle, nb := nb, got := p.2, gone := 0, slot := slot, start := start
      hops := routeCycles r.hops }
    { s with core := { p.1 with lnk := { p.1.lnk with
      sends := p.1.lnk.sends ++ [rec_]
      used := ((r.hops.head?.map Prod.snd).getD 0, slot, nb, start) :: p.1.lnk.used.filter fun u => decide (c.now ≤ u.2.2.2 + 64) } } }
/-- LPUSH (R294). -/
def execLpush (h : HReg) (w : BitVec 6) (a : GReg) (r : BitVec 1) (s : State) : Out :=
  let v := lnkRd s a
  let i := Instr.lpush h w a r
  gate i s (withHandle s 4 h w.toNat false (unmarked s 4 [a] (
    match s.pushCheck h v with
    | .error (cause, ev) => trapAt s 4 cause ev
    | .ok (e, at_) =>
      let x := s.core.hnd h
      clearOf s 4 (x.slotAt x.cidx) (64 * pushBeats v) (powered s 4 i (
        ok ((s.startPush e at_ (field v 8 0) (pushBeats v) h (r == 1)).mapCore fun c =>
          c.issue 4 1 (if e.hops = [] then 150 else 0)))))))
/-- The first push with a beat that leaves now. -/
def Core.departDue (c : Core) : Option PushRec :=
  c.lnk.sends.find? fun p => decide (beatCycle p.start p.slot p.gone false ≤ c.now)
/-- PUSH_BEAT_DEPART (R289): a beat leaves its producer's link; with the last one the push is on its way. A beat whose slot
occurs in the issue cycle itself left in that cycle. -/
def execPushBeatDepart (s : State) : Out :=
  match s.core.departDue with
  | none => ok s
  | some p =>
    let rest := s.core.lnk.sends.filter fun q => q.pos != p.pos
    if p.gone + 1 < p.nb then
      ok (s.mapCore fun c => { c with lnk := { c.lnk with sends := { p with gone := p.gone + 1 } :: rest } })
    else
      let f : Flight := {
        cargo := .push p.dst p.dh p.got, core := s.core.id, eng := 4, pos := p.pos, addr := 0, hops := [], owned := true
        due := s.clock + 20 + p.hops - (s.core.now - beatCycle p.start p.slot p.gone false), bad := false }
      ok { s with
        core := { s.core with lnk := { s.core.lnk with sends := rest } }
        flights := s.flights ++ [f] }
/-- A push comes to its consumer: its landing is an effect of this cycle; on a halted die it waits for the cycle's end (R330). -/
def Core.takePush (c : Core) (k : CoreId) (h : HReg) (bs : List Byte) : Core :=
  if c.halted then c.atEnd (.arrive k h bs none) else { c with fly := c.fly ++ [{ due := c.now, eng := 4, pos := 0, eff := .arrive k h bs }] }
/-- PUSH_LANDING (R290): the push lands in the consumer's ring. Where a link block of it could not be
corrected, the consumer takes an uncorrectable error as it lands (R292); the manual gives no detail of that error. -/
def execPushLanding (s : State) : Out :=
  match s.landingOf fun x => match x with
    | .push _ _ _ => true
    | _ => false with
  | some (f, s1) =>
    match f.cargo with
    | .push dst h bs =>
      let e : ErrInfo := {
        kind := 4, site := BitVec.ofNat 6 (dst.toNat / 16), unit := 0, addr := Config.freeEval s.free, synd := Config.freeEval (s.free + 1) }
      ok ({ s1 with free := s1.free + 2 * bit f.bad }.modCore dst fun c =>
        { c.takePush f.core h bs with err := if f.bad then some e else c.err })
    | _ => ok s
  | none => ok s

/-! ### Slots (R287, R295) -/

/-- The claim that a slot-table entry names (Table 13-3). -/
def slotEntry (site : Nat) (v : Dword) : SlotClaim := {
  site := site, link := field v 7 0, core := field v 15 8, first := field v 31 16, count := field v 47 32 }
/-- Whether an entry is one the site can hold (R295). -/
def slotEntryOk (site : Nat) (v : Dword) : Bool :=
  let q := slotEntry site v
  (linkTo site q.link).isSome && (q.core == 0xFF || decide (q.core < (Config.siteType site).cores)) && q.count != 0 &&
    decide (q.first + q.count ≤ 368) && field v 63 48 == 0
/-- Whether two claims share a slot (R287). -/
def SlotClaim.meets (p q : SlotClaim) : Bool :=
  p.site == q.site && p.link == q.link && decide (p.first < q.first + q.count) && decide (q.first < p.first + p.count)
/-- Whether a core belongs to a context. -/
def Core.within (c : Core) (x : CtxId) : Bool := c.live && c.ctx == x
/-- The claims of every resident context; those of a pre-empted one are released once its save is written (R287, R322). -/
def State.claims (s : State) : List SlotClaim := (s.ctxs.filter fun x => !x.released).flatMap Context.claims
/-- Whether a context holds every slot of a claim with that link and core (R295). -/
def Context.holdsSlots (x : Context) (q : SlotClaim) : Bool :=
  (List.range q.count).all fun k => x.ownsSlot q.site q.link q.core (q.first + k)
/-- What is left of a claim without the slots of another. -/
def SlotClaim.without (p q : SlotClaim) : List SlotClaim :=
  if p.meets q && p.core == q.core then
    (if p.first < q.first then [{ p with count := q.first - p.first }] else []) ++
    (if q.first + q.count < p.first + p.count then
      [{ p with first := q.first + q.count, count := p.first + p.count - (q.first + q.count) }] else [])
  else [p]
/-- An effect of the end of a global cycle. -/
def CycleEff.run (s : State) : CycleEff → State
  | .claim x q => s.modCtx x fun y => { y with claims := y.claims ++ [q] }
  | .unclaim x q => s.modCtx x fun y => { y with claims := y.claims.flatMap fun p => p.without q }
  | .bind x g ids => s.modCtx x fun y =>
      { y with pods := (y.pods.filter fun p => p.1 != g) ++ (if ids.isEmpty then [] else [(g, ids)]) }
/-- The effects of the end of the cycle, as they stand so far. -/
def State.wrapped (s : State) : State := s.atWrap.foldl CycleEff.run { s with atWrap := [] }
/-- The shape of LSLOT and LSLOT.REL: their test sees the words of lower cores of the cycle, and their effect comes at its end
(R295). -/
def slotWord (i : Instr) (a : GReg) (bad : State → Context → SlotClaim → Bool) (f : CtxId → SlotClaim → CycleEff) (s : State) : Out :=
  let v := lnkRd s a
  let q := slotEntry s.core.site v
  gate i s (unmarked s 4 [a] (
    if !slotEntryOk s.core.site v then trapAt s 4 5 (lnkEval 5)
    else match s.wrapped.ctx with
      | none => trapAt s 4 5 (lnkEval 6)
      | some x =>
        if bad s.wrapped x q then trapAt s 4 5 (lnkEval 6)
        else ok ({ s with atWrap := s.atWrap ++ [f x.id q] }.mapCore fun c => c.issue 4 1 0)))
/-- LSLOT (R295). -/
def execLslot (a : GReg) (s : State) : Out :=
  slotWord (.lslot a) a (fun t _ q => t.claims.any q.meets) .claim s
/-- LSLOT.REL (R295). -/
def execLslotRel (a : GReg) (s : State) : Out :=
  slotWord (.lslotRel a) a (fun _ x q => !x.holdsSlots q) .unclaim s

/-! ### Verbs (R297 to R301) -/

/-- The checks of a remote range (R299): cause and EVAL, or the target package. -/
def State.remoteCheck (s : State) (a : Dword) (n rights : Nat) : Except (Byte × Dword) (BitVec 13) :=
  match s.ctx.bind fun x => x.entryAt a.toNat with
  | none => .error (6, a)
  | some e =>
    if a.toNat + n > e.vbase.toNat + 2 ^ e.lsz then .error (6, a)
    else if e.cls ≠ 3 ∨ e.perm &&& rights ≠ rights then .error (5, a)
    else .ok (BitVec.ofNat 13 (e.target.toNat / 2 ^ 48))
/-- Bytes of an operation. -/
def PodKind.bytes : PodKind → Nat
  | .put n _ => n
  | .get _ n => n
  | .load _ _ => 8
  | .signal _ => 8
  | .atomic _ w _ _ _ => amoBytes w
/-- A verb enters the pod queue, unless 64 of the core's verbs have not performed (R297). -/
def verbIssue (s : State) (i : Instr) (cost : Nat) (pkg : BitVec 13) (remote : Dword) (k : PodKind) (f : Core → Core) : Out :=
  if 64 ≤ (s.core.lnk.podq.filter fun p => p.eng == 4).length then waitAt s 4 7
  else powered s 4 i (ok ((s.askFabric 4 pkg remote k.bytes).mapCore fun c => (f (c.enqueue 4 (c.engOf 4).pos pkg remote k)).issue 4 cost 0))
/-- The local reads of an LPUT: beat j at I + 2 + j (R299). -/
def Core.putBeats (c : Core) (a len : Nat) : Core :=
  (List.range ((len + 63) / 64)).foldl (fun c j => c.later 4 (2 + j) (.podData (a + 64 * j) (min 64 (len - 64 * j)))) c
/-- The shape of LPUT and LGET: d and a as the word has them, which of the two is remote. -/
def moveWord (i : Instr) (d a b : GReg) (put : Bool) (s : State) : Out :=
  let v := lnkRd s
  let len := field (v b) 16 0
  let remote := if put then v d else v a
  let loc := if put then v a else v d
  gate i s (unmarked s 4 [d, a, b] (
    if len = 0 ∨ 65536 < len ∨ len % 8 ≠ 0 then trapAt s 4 5 (lnkEval 4)
    else if (v d).toNat % 8 ≠ 0 then trapAt s 4 4 (v d)
    else if (v a).toNat % 8 ≠ 0 then trapAt s 4 4 (v a)
    else if s.core.size < loc.toNat + len then trapAt s 4 5 (failByte loc.toNat s.core.size)
    else match s.remoteCheck remote len (if put then 2 else 1) with
      | .error (cause, ev) => trapAt s 4 cause ev
      | .ok pkg => clearOf s 4 loc.toNat len (
          if put then verbIssue s i ((len + 63) / 64) pkg remote (.put len []) fun c => c.putBeats loc.toNat len
          else verbIssue s i 1 pkg remote (.get loc.toNat len) id)))
/-- LPUT (R299). -/
def execLput (d a b : GReg) (s : State) : Out := moveWord (.lput d a b) d a b true s
/-- LGET (R299). -/
def execLget (d a b : GReg) (s : State) : Out := moveWord (.lget d a b) d a b false s
/-- LSIG (R300). -/
def execLsig (a b : GReg) (s : State) : Out :=
  let v := lnkRd s
  gate (.lsig a b) s (unmarked s 4 [a, b] (
    if (v a).toNat % 8 ≠ 0 then trapAt s 4 4 (v a)
    else match s.remoteCheck (v a) 8 3 with
      | .error (cause, ev) => trapAt s 4 cause ev
      | .ok pkg => verbIssue s (.lsig a b) 1 pkg (v a) (.signal (v b)) id))
/-- The shape of the remote atomics (R301). -/
def lamoWord (i : Instr) (op : BitVec 3) (d a b : GReg) (w : BitVec 1) (s : State) : Out :=
  let v := lnkRd s
  let n := amoBytes (w == 1)
  gate i s (unmarked s 4 [d, a, b] (
    if (v d).toNat % n ≠ 0 then trapAt s 4 4 (v d)
    else if (v a).toNat % n ≠ 0 then trapAt s 4 4 (v a)
    else if s.core.size < (v d).toNat + n then trapAt s 4 5 (v d)
    else match s.remoteCheck (v a) n 3 with
      | .error (cause, ev) => trapAt s 4 cause ev
      | .ok pkg => clearOf s 4 (v d).toNat n (
          verbIssue s i 1 pkg (v a) (.atomic op (w == 1) (v d).toNat (v b) 0) fun c =>
            if op = 2 then c.later 4 2 (.podData (v d).toNat n) else c)))
/-- LAADD (R301). -/
def execLaadd (d a b : GReg) (w : BitVec 1) (s : State) : Out := lamoWord (.laadd d a b w) 0 d a b w s
/-- LASWP (R301). -/
def execLaswp (d a b : GReg) (w : BitVec 1) (s : State) : Out := lamoWord (.laswp d a b w) 1 d a b w s
/-- LACAS (R301). -/
def execLacas (d a b : GReg) (w : BitVec 1) (s : State) : Out := lamoWord (.lacas d a b w) 2 d a b w s
/-- LAMIN (R301). -/
def execLamin (d a b : GReg) (w : BitVec 1) (s : State) : Out := lamoWord (.lamin d a b w) 3 d a b w s
/-- LAMAX (R301). -/
def execLamax (d a b : GReg) (w : BitVec 1) (s : State) : Out := lamoWord (.lamax d a b w) 4 d a b w s
/-- LAAND (R301). -/
def execLaand (d a b : GReg) (w : BitVec 1) (s : State) : Out := lamoWord (.laand d a b w) 5 d a b w s
/-- LAOR (R301). -/
def execLaor (d a b : GReg) (w : BitVec 1) (s : State) : Out := lamoWord (.laor d a b w) 6 d a b w s
/-- LAXOR (R301). -/
def execLaxor (d a b : GReg) (w : BitVec 1) (s : State) : Out := lamoWord (.laxor d a b w) 7 d a b w s

/-! ### Waits (R302, R303) -/

/-- LWSIG (R302): LNK issues, and is held until the word reaches d. -/
def execLwsig (d a : GReg) (i : BitVec 13) (s : State) : Out :=
  let y := effAddr (lnkRd s a) i
  gate (.lwsig d a i) s (unmarked s 4 [a, d] (
    match waitAccess s y with
    | .error (cause, ev) => trapAt s 4 cause ev
    | .ok x => accessWaits s 4 x 8 (powered s 4 (.lwsig d a i) (
        let here := match x.place with
          | .scratch _ => true
          | _ => false
        let w : WaitWord := {
          addr := y, val := lnkRd s d, dst := 0, tag := s.core.ctl.tags
          next := if here then s.core.now + 2 else s.core.now + 512, last := none }
        ok ((s.sendWait 4 false s.core.ctl.tags y).mapCore fun c =>
          { c.nextTag with lnk := { c.lnk with wsig := some w } }.issue 4 1 0 |>.modEng 4 fun e => { e with held := true })))))
/-- LQUIET (R303): LNK issues, and is held until the operations in the pod queue have been answered. -/
def execLquiet (s : State) : Out :=
  gate .lquiet s (powered s 4 .lquiet (ok (s.mapCore fun c =>
    { c with lnk := { c.lnk with quiet := some c.lnk.next } }.issue 4 1 0 |>.modEng 4 fun e => { e with held := true })))
/-- The wait of an LQUIET ends (R303). -/
def Core.endQuiet (c : Core) : Core :=
  match c.lnk.quiet with
  | some n =>
    if c.lnk.podq.any fun p => decide (p.num < n) then c
    else { c with lnk := { c.lnk with quiet := none } }.modEng 4 fun e => { e with held := false }
  | none => c

/-! ### The fabric answers (R106, R297, R298) -/

/-- Bytes of the request that is answered next: up to 256, not crossing a 256-byte boundary (Table 13-7). -/
def PodRec.part (p : PodRec) : Nat := min (256 - (p.remote.toNat + p.off) % 256) (p.kind.bytes - p.off)
/-- An answer is written to scratch: while the core's cycles run in the turn of LNK among its effects of the cycle (R140), else at once. -/
def PodRec.put (p : PodRec) (c : Core) (live : Bool) (a : Nat) (bs : List Byte) : Core :=
  if live then { c with fly := c.fly ++ [{ due := c.now, eng := 4, pos := p.pos, eff := .write false a bs }] }
  else { c with scratch := c.scratch.writeBytes a bs }
/-- What the answer of the next request of an operation does at its core; `live` says that the core's cycles run. -/
def PodRec.take (p : PodRec) (c : Core) (live : Bool) (r : PodAns) : Core :=
  let fail (cause : Byte) : Core :=
    let c1 := if p.failed then c else c.post cause p.eng (p.remote + dw p.off)
    match p.kind with
    | .load d tag => c1.fillG d tag 0 true c.now
    | _ => c1
  match r with
  | .fenced => fail 0x15
  | .remoteError => fail 0x16
  | .ok bs =>
    match p.kind with
    | .load d tag => c.fillG d tag (dw (ofBytes (bs.take 8))) false c.now
    | .get dst _ => p.put c live (dst + p.off) (bs.take p.part)
    | .atomic _ w dst _ _ => p.put c live dst (bs.take (amoBytes w))
    | _ => c
/-- POD_ANSWER (R298): the oldest request of a core to a package is answered. An operation has performed when every request
of it has been answered. -/
def execPodAnswer (k : CoreId) (pkg : BitVec 13) (r : PodAns) (s : State) : Out :=
  ok (s.forOwner k (fun c => c.lnk.podq.any fun p => p.pkg == pkg) fun s => s.modCore k fun c =>
    match c.lnk.podq.find? fun p => p.pkg == pkg with
    | none => c
    | some p =>
      let c1 := p.take c (s.runsCycle c) r
      let bad := p.failed || (match r with
        | .ok _ => false
        | _ => true)
      let q := { p with off := p.off + p.part, failed := bad }
      let left := if q.off < p.kind.bytes then c1.lnk.podq.map (fun x => if x.num = p.num then q else x)
        else c1.lnk.podq.filter (fun x => x.num != p.num)
      { c1 with lnk := { c1.lnk with podq := left } })

/-- The context that holds a partition key (R298). -/
def State.keyHolder (s : State) (key : BitVec 16) : Option Context :=
  if s.revoked.contains key then none else s.ctxs.find? fun x => x.rec_.key == key
/-- Bytes of a request from another package, and the rights it needs. -/
def podSize : PodOp → Nat
  | .write bs => bs.length
  | .read n => n
  | .atomic _ w _ _ => amoBytes w
  | .signal _ => 8
def podRights : PodOp → Nat
  | .write _ => 2
  | .read _ => 1
  | .atomic _ _ _ _ => 3
  | .signal _ => 3
/-- Whether a request reads what is in memory. -/
def podReads : PodOp → Bool
  | .write _ => false
  | _ => true
/-- A request waits until the page it meets has moved, those that come after it behind it (R111, R297). -/
def State.holdRequest (s : State) (r : PodReq) : State :=
  let req (p : Nat × Instr) : Bool := decide (p.1 ≤ s.clock + 1) && (match p.2 with
    | .podRequestArrival _ => true
    | _ => false)
  let others := s.agenda.filter fun p => !req p
  let now := others.filter fun p => decide (p.1 ≤ s.clock + 1)
  { s with agenda := now ++ (s.clock + 1, .podRequestArrival r) :: ((s.agenda.filter req).map fun p => (s.clock + 1, p.2)) ++
      others.filter fun p => !decide (p.1 ≤ s.clock + 1) }
/-- A request from another package performs at its home. -/
def State.podPerform (s : State) (home key : Nat) (op : PodOp) : State × PodAns :=
  match op with
  | .write bs => ({ s with stage := s.stage.writeBytes key bs }, .ok [])
  | .read n => (s, .ok (s.stage.readBytes key n))
  | .atomic o w x cmp =>
    let old := s.stage.readNat key (amoBytes w)
    ({ s with stage := s.stage.writeNat key (amoBytes w) (amoNew o (amoBytes w) old x.toNat cmp.toNat) }.tell home key,
      .ok (toBytes (amoBytes w) old))
  | .signal x => ({ s with stage := s.stage.writeNat key 8 (s.stage.readNat key 8 + x.toNat) }.tell home key, .ok [])
/-- POD_REQUEST_ARRIVAL (R298): the request is translated through the table of the context that holds its key, performs at
the home and is answered; one that would read a poisoned word is answered with a remote error. PRESUMED: the answer to an entry of
another class (log entry 29). -/
def execPodRequestArrival (r : PodReq) (s : State) : Out :=
  let say (p : State × PodAns) : Out := ok { p.1 with answers := p.1.answers ++ [p.2] }
  match s.keyHolder r.key with
  | none => say (s, .fenced)
  | some x =>
    match x.entryAt r.addr.toNat with
    | none => say (s, .remoteError)
    | some e =>
      let n := podSize r.op
      let bad := decide (r.addr.toNat + n > e.vbase.toNat + 2 ^ e.lsz) || e.cls != 0 || decide (e.perm &&& podRights r.op ≠ podRights r.op) ||
        x.planeMeets 64 r.addr.toNat n
      let h := x.homeOf e r.addr.toNat
      let key := Config.stageBytes * h.1 + h.2
      if bad then say (s, .remoteError)
      else if x.busyAt r.addr.toNat n then ok (s.holdRequest r)
      else if podReads r.op && !(s.poisoned isStage key n).isEmpty then say (s.loneError { wr := false, mem := .stage, key := key, len := n }, .remoteError)
      else
        let p := s.podPerform h.1 key r.op
        say (if podReads r.op then p.1 else p.1.unpoison isStage key n, p.2)
/-- KEY_REVOCATION (R298). -/
def execKeyRevocation (key : BitVec 16) (s : State) : Out :=
  ok { s with revoked := if s.revoked.contains key then s.revoked else s.revoked ++ [key] }
/-- POD_BARRIER_HOLD (R328). -/
def execPodBarrierHold (on : Bool) (s : State) : Out := ok { s with podHold := on }

end Sys2Proof.Machine
end

