-- ==== Sys2Proof/Machine/Gather.lean ====
section
/-! DEFINITION. Gather.lean: gather tables, gathers and sums by bag (R304 to R306). -/
namespace Sys2Proof.Machine

/-- A GTH word reads a register (R36). -/
def gthRd (s : State) (r : GReg) : Dword := s.core.rd 5 r
/-- The GTH parameter form of EVAL (R306). -/
def gthEval (kind k : Nat) : Dword := dw (kind * 16 + k % 2 ^ 24 * 256 + 0x04 * 2 ^ 48 + 0xFF * 2 ^ 56)
/-- Element size of a table format (R305). -/
def tabElem (f : BitVec 3) : Nat := match f.toNat with
  | 0 => 4
  | 1 => 2
  | 2 => 4
  | 3 => 1
  | _ => 2
/-- The address checks of a table in stage memory (R305). -/
def State.stageTable (s : State) (a : Dword) (len : Nat) : Option (Byte × Dword) :=
  match s.ctx with
  | none => some (6, a)
  | some x =>
    match x.entryAt a.toNat with
    | none => if isTranslated a.toNat then some (6, a) else some (5, a)
    | some e =>
      if a.toNat + len > e.vbase.toNat + 2 ^ e.lsz then some (5, failByte a.toNat (e.vbase.toNat + 2 ^ e.lsz))
      else if e.cls ≠ 0 ∨ e.perm % 2 = 0 then some (5, a)
      else if x.planeMeets s.core.site a.toNat len then some (9, x.planedByte s.core.site a.toNat len) else none
/-- GTAB (R305). -/
def execGtab (d a b : GReg) (g : BitVec 1) (f : BitVec 3) (t : BitVec 2) (s : State) : Out :=
  let nrow := field (gthRd s d) 31 0
  let base := gthRd s a
  let rb := field (gthRd s b) 16 0
  gate (.gtab d a b g f t) s (unmarked s 5 [d, a, b] (
    let bad : Option (Byte × Dword) :=
      if nrow = 0 ∨ rb = 0 ∨ 65536 < rb ∨ rb % 4 ≠ 0 ∨ rb % tabElem f ≠ 0 then some (5, gthEval 1 0)
      else if base.toNat % 4 ≠ 0 then some (4, base)
      else if g = 1 then (if Config.gatherBytes < base.toNat + nrow * rb then some (5, failByte base.toNat Config.gatherBytes) else none)
      else s.stageTable base (nrow * rb)
    match bad with
    | some (cause, ev) => trapAt s 5 cause ev
    | none => powered s 5 (.gtab d a b g f t) (
        let v : GTable := { valid := true, base := base, g := g == 1, fmt := f, rb := rb, nrow := nrow }
        ok (s.mapCore fun c => { c with gtab := c.gtab.setIfInBounds t.toNat v }.issue 5 1 0))))

/-! ### Starting a gather (R306) -/

/-- Bytes of an output row of a GSUM. -/
def GTable.outRow (t : GTable) : Nat := t.rb / tabElem t.fmt * (if t.fmt.toNat < 2 then 4 else 8)
/-- The fault of a gather at its issue, by kind. -/
def gatherKind (c : Core) (sum : Bool) (h oh : HReg) (w n : Nat) (t : GTable) (v : Dword) : Option Nat :=
  if field v 15 7 ≠ 0 ∨ field v 63 32 ≠ 0 ∨ n = 0 ∨ !t.valid then some 1
  else if !sum ∧ w * (c.hnd h).slot < 4 * n then some 3
  else if (c.hnd oh).slot < n * (if sum then t.outRow else t.rb) then some 4 else none
/-- Beats of an image of n bytes (R306). -/
def beatsOf (n : Nat) : Nat := max 1 ((n + 63) / 64)
/-- The shape of GTHR and GSUM. -/
def gatherWord (i : Instr) (sum : Bool) (h : HReg) (w : BitVec 6) (a : GReg) (s : State) : Out :=
  let v := gthRd s a
  let oh : HReg := BitVec.ofNat 4 (field v 3 0)
  let n := field v 31 16
  let c := s.core
  let t := c.gtab.getD (field v 5 4) {}
  gate i s (withHandle s 5 h w.toNat false (unmarked s 5 [a] (withHandle s 5 oh 1 true (
    match gatherKind c sum h oh w.toNat n t v with
    | some k => trapAt s 5 5 (gthEval k 0)
    | none =>
      let x := c.hnd h
      let y := c.hnd oh
      let srcs := (List.range w.toNat).map fun k => x.slotAt (x.cidx + k)
      let out := y.slotAt y.pidx
      if (out :: srcs).any (fun b => c.underCopy b (if b = out then y.slot else x.slot)) then waitAt s 5 5
      else if !t.g && (match s.ctx with
        | some cx => cx.busyAt t.base.toNat (t.nrow * t.rb)
        | none => false) then waitAt s 5 6
      else powered s 5 i (
        let j : GJob := {
          pos := (c.engOf 5).pos, sum := sum, h := h, w := w.toNat, rel := v.getLsbD 6, oh := oh, out := out, tab := t, n := n
          srcs := srcs, slot := x.slot, start := c.now, mode := (c.engOf 5).mode, k := 0, last := c.now, rows := [], left := 0
          bags := [], got := [], beat := 0, at_ := c.now + Config.freeDelay s.free, asked := false, row := none }
        ok ({ s with free := if t.g then s.free else s.free + 1 }.mapCore fun c =>
          { c with gjob := some j }.issue 5 1 0))))))
/-- GTHR (R306). -/
def execGthr (h : HReg) (w : BitVec 6) (a : GReg) (s : State) : Out := gatherWord (.gthr h w a) false h w a s
/-- GSUM (R306). -/
def execGsum (h : HReg) (w : BitVec 6) (a : GReg) (s : State) : Out := gatherWord (.gsum h w a) true h w a s

/-! ### The stream, the beats and the output (R306) -/

/-- Whether a stream has words still to be read. -/
def GJob.more (j : GJob) : Bool := if j.sum then decide (0 < j.left) || decide (j.bags.length < j.n) else decide (j.k < j.n)
/-- One more row in the last bag. -/
def bump : List Nat → List Nat
  | [] => []
  | [x] => [x + 1]
  | x :: t => x :: bump t
/-- The value of the next stream word: of the bytes that a freeze has kept, where one has caught the gather (R322). -/
def GJob.word (j : GJob) (c : Core) : Nat :=
  let i := 4 * j.k / j.slot
  let o := 4 * j.k % j.slot
  match j.kept[i]? with
  | some bs => ofBytes ((bs.drop o).take 4)
  | none => c.scratch.readNat (j.srcs.getD i 0 + o) 4
/-- The next stream word is read: the job after, or the fault's kind and the word's index. -/
def GJob.readWord (j : GJob) (c : Core) : Except (Nat × Nat) GJob :=
  if j.w * j.slot < 4 * j.k + 4 then .error (3, 0)
  else
    let v := signedNat 32 (j.word c)
    let j1 := { j with k := j.k + 1, last := c.now }
    if j.sum && j.left == 0 then
      (if v < 0 then .error (5, j.k) else .ok { j1 with left := v.toNat, bags := j.bags ++ [0] })
    else if (j.tab.nrow : Int) ≤ v then .error (2, j.k)
    else if j.sum then
      (if v < 0 then .ok { j1 with left := j.left - 1 }
      else .ok { j1 with left := j.left - 1, rows := j.rows ++ [(some v.toNat, j.k)], bags := bump j.bags })
    else .ok { j1 with rows := j.rows ++ [(if v < 0 then none else some v.toNat, j.k)] }
/-- The stream words of this cycle are read, 32 at most. -/
def GJob.readStream (c : Core) : Nat → GJob → Except (Nat × Nat) GJob
  | 0, j => .ok j
  | n + 1, j =>
    if j.more && decide (j.start + 2 + j.k / 32 ≤ c.now) then
      match j.readWord c with
      | .error e => .error e
      | .ok j1 => GJob.readStream c n j1
    else .ok j
/-- Bytes of the image so far. -/
def GJob.imageLen (j : GJob) : Nat := j.rows.length * j.tab.rb
/-- The row of the image at a place, in its table. -/
def GJob.rowAddr (j : GJob) (r : Nat) : Nat := j.tab.base.toNat + r * j.tab.rb
/-- Whether a copy into the gather tables that issued before the gather holds back a row of beat `beat` (R165). -/
def Core.beatHeld (c : Core) (j : GJob) : Bool :=
  let lo := 64 * j.beat / j.tab.rb
  ((j.rows.drop lo).take ((64 * j.beat + 63) / j.tab.rb + 1 - lo)).any fun r => match r.1 with
    | some i => (c.olderCopies j.start 5).underCopyIn true (j.rowAddr i) j.tab.rb
    | none => false
/-- Whether the cycle has come in which beat `beat` of a G table is read, as far as the image goes (R306). -/
def GJob.beatCycle (j : GJob) (now : Nat) : Bool :=
  let hi := min (64 * (j.beat + 1)) j.imageLen
  decide (j.start + 4 + j.beat ≤ now) && (match j.rows[(hi - 1) / j.tab.rb]? with
    | some r => decide (j.start + 2 + r.2 / 32 < now)
    | none => true)
/-- The bytes of the last beat, read already in the cycle after the last of its rows was known. -/
def GJob.lastBeat (j : GJob) : Option (List Byte) :=
  match j.part with
  | some (n, bs) => if !j.more && n == j.imageLen && j.beat + 1 == beatsOf j.imageLen then some bs else none
  | none => none
/-- Whether beat `beat` of a G table is read in this cycle: its rows are known, its cycle has come. -/
def GJob.beatReady (j : GJob) (now : Nat) : Bool :=
  (decide (64 * (j.beat + 1) ≤ j.imageLen) || (!j.more && decide (j.beat < beatsOf j.imageLen))) && j.beatCycle now && j.lastBeat.isNone
/-- Whether the last beat of a GSUM, as the rows so far give it, is read in this cycle: what is left of the stream may hold no row. -/
def GJob.partReady (j : GJob) (now : Nat) : Bool :=
  j.sum && j.more && decide (j.imageLen < 64 * (j.beat + 1)) && decide (64 * j.beat < j.imageLen ∨ j.imageLen + j.beat = 0) &&
    j.beatCycle now && (j.part.map Prod.fst) != some j.imageLen
/-- A byte of the image, from gather table SRAM. -/
def State.imageByte (s : State) (c : Core) (j : GJob) (p : Nat) : Byte :=
  match j.rows[p / j.tab.rb]? with
  | some (some r, _) => s.gsram.byte (Config.gatherBytes * c.site + j.tab.base.toNat + r * j.tab.rb + p % j.tab.rb)
  | _ => 0
/-- The bytes of a beat. -/
def State.beatBytes (s : State) (c : Core) (j : GJob) : List Byte :=
  (List.range (min 64 (j.imageLen - 64 * j.beat))).map fun k => s.imageByte c j (64 * j.beat + k)
/-- The beats of this cycle are read; those of a GTHR are written six cycles later. -/
def State.readBeatsOf (s : State) : Nat → GJob → State × GJob
  | 0, j => (s, j)
  | n + 1, j =>
    match j.lastBeat with
    | some bs => (s, { j with got := j.got ++ bs, beat := j.beat + 1 })
    | none =>
      if s.core.beatHeld j then (s, j)
      else if j.beatReady s.core.now then
        let bs := s.beatBytes s.core j
        let s1 := if j.sum then s else s.mapCore fun c => c.laterAt 5 j.pos 6 (.write false (j.out + 64 * j.beat) bs)
        s1.readBeatsOf n { j with got := if j.sum then j.got ++ bs else j.got, beat := j.beat + 1 }
      else if j.partReady s.core.now then (s, { j with part := some (j.imageLen, s.beatBytes s.core j) })
      else (s, j)
/-- Element e of a row of bytes, as its table format reads it: a pattern for FP32 and BF16, a number for the others. -/
def tabPat (f : BitVec 3) (bs : List Byte) (e : Nat) : Elem :=
  if f = 0 then BitVec.ofNat 32 (ofBytes ((bs.drop (4 * e)).take 4)) else bf16ToF32 (BitVec.ofNat 16 (ofBytes ((bs.drop (2 * e)).take 2)))
def tabInt (f : BitVec 3) (bs : List Byte) (e : Nat) : Int :=
  let z := tabElem f
  signedNat (8 * z) (ofBytes ((bs.drop (z * e)).take z))
/-- The sum of one element over the rows of a bag (R306, Table 8-4). -/
def GJob.sumElem (j : GJob) (rows : List (List Byte)) (e : Nat) : List Byte :=
  if j.tab.fmt.toNat < 2 then
    toBytes 4 (rows.foldl (fun (acc : Elem) r => flush (j.mode.getLsbD 3) (fadd 0 acc (flush (j.mode.getLsbD 2) (tabPat j.tab.fmt r e)))) 0).toNat
  else toBytes 8 (wrap64 ((rows.map fun r => tabInt j.tab.fmt r e).sum)).toNat
/-- The rows of n bytes in an image. -/
def rowsOf (rb : Nat) (bs : List Byte) : Nat → List (List Byte)
  | 0 => []
  | n + 1 => bs.take rb :: rowsOf rb (bs.drop rb) n
/-- The output rows of a GSUM, bag by bag. -/
def GJob.sums (j : GJob) : List (List Byte) → List Nat → List Byte
  | _, [] => []
  | rows, b :: t =>
    ((List.range (j.tab.rb / tabElem j.tab.fmt)).flatMap fun e => j.sumElem (rows.take b) e) ++ j.sums (rows.drop b) t
/-- The output of a job whose image has been read whole. -/
def GJob.output (j : GJob) : List Byte := if j.sum then j.sums (rowsOf j.tab.rb j.got j.rows.length) j.bags else j.got
/-- A gather ends: its output, as far as it is not written yet, is written eight or six cycles from now, when the slot is committed and
the stream's slots are released. -/
def Core.endGather (c : Core) (j : GJob) : Core :=
  let n := if j.sum then 8 else 6
  let bs := if j.sum || !j.tab.g then j.output else []
  let c1 := if bs.isEmpty then c else c.laterAt 5 j.pos n (.write false j.out bs)
  let c2 := c1.laterAt 5 j.pos n (.atEnd (.commit 5 j.oh 1))
  if j.rel then c2.laterAt 5 j.pos n (.atEnd (.release 5 j.h j.w)) else c2
/-- The fault of a gather after its issue: nothing is committed, and the word stands to be issued whole again. -/
def Core.failGather (c : Core) (k : Nat × Nat) : Core :=
  ({ c with gjob := none }.rewind 5).raise 5 5 (gthEval k.1 k.2)
/-- The next row of a STAGE table, once its index is known and it can be asked for: none for a negative index. -/
def GJob.nextRow (j : GJob) (now : Nat) : Option (Option Nat) :=
  if j.tab.g || j.asked || j.row.isSome || decide (now < j.at_) then none
  else match j.rows[j.beat]? with
    | some r => if j.start + 2 + r.2 / 32 < now then some r.1 else none
    | none => none
/-- The next row of a STAGE table is asked for at its home, unless a copy that issued before the gather holds it back (R165, R304). For such a
table `beat` counts the rows. -/
def State.askRow (s : State) (j : GJob) : State × GJob :=
  match j.nextRow s.core.now with
  | none => (s, j)
  | some none => (s, { j with row := some (List.replicate j.tab.rb 0) })
  | some (some r) =>
    let a := j.rowAddr r
    if (s.core.olderCopies j.start 5).underCopy a j.tab.rb then (s, j)
    else
      let home := match s.copyPlace s.core false a 1 with
        | some (.stage h _) => Config.bfSite h
        | _ => s.core.site
      let hops := s.routeAt s.core.id s.core.site home
      ({ s with flights := s.flights ++ [{
          cargo := .rowAsk j.tab.rb, core := s.core.id, eng := 5, pos := j.pos, addr := dw a, hops := hops, owned := false
          due := flightDue hops s.clock, bad := false }] }, { j with asked := true })
/-- What a gather reads of its table in a cycle: beats, or a row that it asks for. -/
def State.readTable (s : State) (j : GJob) : State × GJob :=
  if j.tab.g then s.readBeatsOf (beatsOf j.imageLen) j else s.askRow j
/-- Whether a gather has read its stream and its table. -/
def GJob.read (j : GJob) : Bool :=
  !j.more && (if j.tab.g then decide (beatsOf j.imageLen ≤ j.beat) else decide (j.rows.length ≤ j.beat))
/-- A gather stands after its turn: it ends, or goes on. -/
def Core.putGather (c : Core) (j : GJob) : Core := if j.read then c.endGather j else { c with gtail := c.gtail ++ [j] }
/-- The turn of a gather whose stream has been read. -/
def State.tailTurn (s : State) (j : GJob) : State :=
  let p := s.readTable j
  p.1.mapCore fun c => c.putGather p.2
/-- What GTH's gathers do in a cycle: rows and beats of those before, then stream words, beats and rows of the newest. Its unit is free
once its stream has been read, B + 4 cycles after its issue at the earliest: a fault of a stream word is precise at the word, so
no later word issues before the last of them (R306; DEDUCED, log entry 76). -/
def State.gatherTurn (s : State) : State :=
  let s0 := s.core.gtail.foldl State.tailTurn (s.mapCore fun c => { c with gtail := [] })
  match s0.core.gjob with
  | none => s0
  | some j0 =>
    match GJob.readStream s0.core 32 j0 with
    | .error k => s0.mapCore fun c => c.failGather k
    | .ok j =>
      let p := s0.readTable j
      if j.more then p.1.mapCore fun c => { c with gjob := some p.2 }
      else p.1.mapCore fun c => ({ c with gjob := none }.modEng 5 fun x =>
        { x with freeAt := max (c.now + 1) (j.start + beatsOf j.imageLen + 4), draw := 400 }).putGather p.2
/-- A gather whose next row has arrived. -/
def Core.rowDue (c : Core) : Option GJob := (c.gtail ++ c.gjob.toList).find? fun j => j.row.isSome
/-- GATHER_ROW_ARRIVE (R304): the next row of a STAGE table arrives, in index order. -/
def execGatherRowArrive (s : State) : Out :=
  match s.core.rowDue with
  | none => ok s
  | some j => ok ({ s with free := s.free + 1 }.mapCore fun c => c.modGather j.pos fun j => { j with
      got := j.got ++ j.row.getD [], row := none, asked := false, beat := j.beat + 1, at_ := c.now + Config.freeDelay s.free })

end Sys2Proof.Machine
end

