-- ==== Sys2Proof/Machine/Collective.lean ====
section
/-! DEFINITION. Collective.lean: pod groups and collectives (R307 to R310). -/
namespace Sys2Proof.Machine

/-- A CLV word reads a register (R36). -/
def clvRd (s : State) (r : GReg) : Dword := s.core.rd 6 r
/-- The member table of a group, none while it is not bound. -/
def State.podGroup (s : State) (g : BitVec 3) : Option (List (BitVec 13)) :=
  s.ctx.bind fun x => (x.pods.find? fun p => p.1 == g).map Prod.snd
/-- Whether a collective of the moving core's context on a group has not performed: the groups are shared by its cores (R307). -/
def State.groupBusy (s : State) (g : BitVec 3) : Bool :=
  s.allCores.any fun c => c.within s.core.ctx && c.colls.any fun k => k.group == g
/-- CGRP (R308): the ids are read from the second cycle on, 32 a cycle, and checked when the last are. -/
def execCgrp (a b : GReg) (g : BitVec 3) (s : State) : Out :=
  let m := field (clvRd s b) 13 0
  let at_ := clvRd s a
  let c := s.core
  gate (.cgrp a b g) s (
    if s.groupBusy g then waitAt s 6 0x0C
    else unmarked s 6 [a, b] (
      if at_.toNat % 2 ≠ 0 then trapAt s 6 4 at_
      else if c.size < at_.toNat + 2 * m then trapAt s 6 5 (failByte at_.toNat c.size)
      else clearOf s 6 at_.toNat (2 * m) (
        if 8192 < m then trapAt s 6 5 (clvEval 4)
        else powered s 6 (.cgrp a b g) (ok (s.mapCore fun c =>
          ((List.range (m / 32 + 1)).foldl (fun (c : Core) j => c.later 6 (2 + j) (.members g at_.toNat j m)) c).issue 6 1 0)))))

/-! ### Starting a collective (R309, R310) -/

/-- Bytes of an element: F32, BF16, I32. -/
def collElem (t : BitVec 2) : Nat := if t = 1 then 2 else 4
/-- Elements read and written by a collective of M members (Table 13-10). -/
def CollForm.srcLen (f : CollForm) (m n : Nat) : Nat := if f = .rsc then m * n else n
def CollForm.dstLen (f : CollForm) (m n : Nat) : Nat := if f = .allg then m * n else n
/-- The check of a range of a collective: local scratch, or one STAGE entry outside planed ranges (R309). -/
def State.collRange (s : State) (a : Dword) (len rights : Nat) : Option (Byte × Dword) :=
  if a.toNat < 2 ^ 24 then (if s.core.size < a.toNat + len then some (5, failByte a.toNat s.core.size) else none)
  else if isTranslated a.toNat then
    match s.ctx.bind fun x => (x.entryAt a.toNat).map fun e => (x, e) with
    | none => some (6, a)
    | some (x, e) =>
      if a.toNat + len > e.vbase.toNat + 2 ^ e.lsz then some (5, failByte a.toNat (e.vbase.toNat + 2 ^ e.lsz))
      else if e.cls ≠ 0 ∨ e.perm &&& rights ≠ rights then some (5, a)
      else if x.planeMeets s.core.site a.toNat len then some (9, x.planedByte s.core.site a.toNat len) else none
  else some (5, a)
/-- Whether a member has a source: of a CBC only the root has one (Table 13-10). -/
def CollForm.sourced (f : CollForm) (ms : List (BitVec 13)) (root : Nat) (own : BitVec 13) : Bool := f != .bc || ms[root]? == some own
/-- The requests of a collective set out, n bytes for each other member; those of a CBC are its root's (R296, Table 13-7). DESIGN CHOICE: the
manual does not give the exchange beneath a collective, nor say what becomes of one whose CL die does not serve: none goes there, and
where no CL die serves no request sets out (log entry 92). -/
def State.askMembers (s : State) (f : CollForm) (ms : List (BitVec 13)) (root n : Nat) : State :=
  if !f.sourced ms root s.pkgid then s
  else (ms.filter fun p => p != s.pkgid).foldl (fun s p =>
    match s.ctx.bind fun x => s.collExit x s.core.site p with
    | some cl => s.askVia cl 6 p 0 n
    | none => s) s
/-- The shape of the collectives: source and destination base, and the root rank of a CBC. -/
def collWord (i : Instr) (f : CollForm) (d a b : GReg) (o t : BitVec 2) (g : BitVec 3) (s : State) : Out :=
  let v := clvRd s
  let n := field (v b) 24 0
  let src := if f = .bc then v d else v a
  let e := collElem t
  gate i s (
    if 4 ≤ s.core.colls.length then waitAt s 6 7
    else unmarked s 6 [d, a, b] (
      match s.podGroup g with
      | none => trapAt s 6 5 (clvEval 1)
      | some ms =>
        if n = 0 ∨ 2 ^ 24 < n then trapAt s 6 5 (clvEval 2)
        else if f = .bc ∧ ms.length ≤ field (v a) 12 0 then trapAt s 6 5 (clvEval 3)
        else if src.toNat % e ≠ 0 then trapAt s 6 4 src
        else if (v d).toNat % e ≠ 0 then trapAt s 6 4 (v d)
        else
          let sl := e * f.srcLen ms.length n
          let dl := e * f.dstLen ms.length n
          let read := if f.sourced ms (field (v a) 12 0) s.pkgid then s.collRange src sl 1 else none
          match read.orElse fun _ => s.collRange (v d) dl 2 with
          | some (cause, ev) => trapAt s 6 cause ev
          | none => clearOf s 6 src.toNat sl (clearOf s 6 (v d).toNat dl (
              if s.ctx.any fun x => x.busyAt src.toNat sl || x.busyAt (v d).toNat dl then waitAt s 6 6
              else powered s 6 i (
                let k : Coll := {
                  pos := (s.core.engOf 6).pos, form := f, group := g, rop := o, type := t, dst := v d
                  src := v a, n := n, seq := 1024 * s.clock + s.core.id.toNat, members := ms }
                ok ((s.askMembers f ms (field (v a) 12 0) (e * n)).mapCore fun c => { c with colls := c.colls ++ [k] }.issue 6 1 0))))))
/-- CRED (R309). -/
def execCred (d a b : GReg) (o t : BitVec 2) (g : BitVec 3) (s : State) : Out := collWord (.cred d a b o t g) .red d a b o t g s
/-- CRSC (R309). -/
def execCrsc (d a b : GReg) (o t : BitVec 2) (g : BitVec 3) (s : State) : Out := collWord (.crsc d a b o t g) .rsc d a b o t g s
/-- CALLG (R309). -/
def execCallg (d a b : GReg) (t : BitVec 2) (g : BitVec 3) (s : State) : Out := collWord (.callg d a b t g) .allg d a b 0 t g s
/-- CBC (R309). -/
def execCbc (d a b : GReg) (t : BitVec 2) (g : BitVec 3) (s : State) : Out := collWord (.cbc d a b t g) .bc d a b 0 t g s

/-! ### Performing (R309, R310) -/

/-- One level of the pairwise tree (R270). -/
def treeLevel (add : Elem → Elem → Elem) : List Elem → List Elem
  | a :: b :: t => add a b :: treeLevel add t
  | l => l
/-- The pairwise tree over a list whose length is a power of two (R270). -/
def treeSum (add : Elem → Elem → Elem) : Nat → List Elem → Elem
  | 0, l => l.getD 0 0
  | n + 1, l => treeSum add n (treeLevel add l)
/-- The list padded with +0 to the least power of two that holds it. -/
def padded (l : List Elem) : List Elem := l ++ List.replicate (ceilPow2 l.length 32 - l.length) 0
/-- The sum of R270. -/
def sumTree (add : Elem → Elem → Elem) (l : List Elem) : Elem := treeSum add 32 (padded l)
/-- MAX and MIN of R270 for FP32. -/
def foldMax : List Elem → Elem
  | [] => 0
  | x :: t => t.foldl fmax (canon x)
def foldMin : List Elem → Elem
  | [] => 0
  | x :: t => t.foldl fmin (canon x)
/-- reduce(e) over the members' values in rank order (R309). -/
def reduceElem (rop ty : BitVec 2) (xs : List Elem) : Elem :=
  let wide := if ty = 1 then xs.map fun x => bf16ToF32 (x.setWidth 16) else xs
  let narrow (x : Elem) : Elem := if ty = 1 then (f32ToBf16 0 x).setWidth 32 else x
  if ty = 2 then
    match rop.toNat with
    | 0 => xs.foldl (· + ·) 0
    | 1 => (xs.drop 1).foldl (fun m x => if m.toInt ≤ x.toInt then x else m) (xs.getD 0 0)
    | _ => (xs.drop 1).foldl (fun m x => if m.toInt ≤ x.toInt then m else x) (xs.getD 0 0)
  else match rop.toNat with
    | 0 => narrow (canon (sumTree (fadd 0) wide))
    | 1 => narrow (foldMax wide)
    | _ => narrow (foldMin wide)
/-- The elements of a range, as patterns. -/
def State.collRead (s : State) (c : Core) (ty : BitVec 2) (a n : Nat) : List Elem :=
  let e := collElem ty
  (List.range n).map fun k => BitVec.ofNat 32 (ofBytes (s.copyRead c false (a + e * k) e))
/-- Write elements of a range. -/
def State.collWrite (s : State) (c : Core) (ty : BitVec 2) (a : Nat) (xs : List Elem) : State :=
  s.copyWrite c false a (xs.flatMap fun x => toBytes (collElem ty) x.toNat)
/-- The result of a collective from every member's source (Table 13-10). -/
def Coll.result (k : Coll) (r : Nat) (ms : List (List Elem)) : List Elem :=
  let col (e : Nat) : List Elem := ms.map fun m => m.getD e 0
  match k.form with
  | .red => (List.range k.n).map fun e => reduceElem k.rop k.type (col e)
  | .rsc => (List.range k.n).map fun e => reduceElem k.rop k.type (col (r * k.n + e))
  | .allg => ms.flatMap fun m => (List.range k.n).map fun e => m.getD e 0
  | .bc => (List.range k.n).map fun e => (ms.getD (field k.src 12 0) []).getD e 0
/-- Source address of a collective. -/
def Coll.srcAddr (k : Coll) : Nat := if k.form = .bc then k.dst.toNat else k.src.toNat
/-- Whether source and destination overlap in a way that leaves the destination unspecified (R310). -/
def Coll.clash (k : Coll) (m : Nat) : Bool :=
  let e := collElem k.type
  let a := k.srcAddr
  let d := k.dst.toNat
  k.form != .bc && !(k.form == .red && a == d) && decide (a < d + e * k.form.dstLen m k.n) && decide (d < a + e * k.form.srcLen m k.n)
/-- An unspecified destination: bytes that are free values (R310). -/
def State.collFree (s : State) (c : Core) (k : Coll) (m : Nat) : State :=
  let n := collElem k.type * k.form.dstLen m k.n
  { s with free := s.free + n }.copyWrite c false k.dst.toNat ((List.range n).map fun j => Config.freeByte (s.free + j))
/-- The oldest collective of a core on a group ends. -/
def State.collDone (s : State) (id : CoreId) (g : BitVec 3) (r : CollRes) : State :=
  match s.coreAt id with
  | none => s
  | some c =>
    match c.colls.find? fun k => k.group == g with
    | none => s
    | some k =>
      let ms := k.members
      let rank := (ms.idxOf? s.pkgid).getD 0
      let s1 := s.modCore id fun c => { c with colls := c.colls.filter fun q => q.pos != k.pos }
      if (s.ctxOf c.ctx).any fun x => x.phase == .killed then s1 else
      let fail (cause : Byte) : State :=
        let s2 := s1.collFree c k ms.length
        { s2 with free := s2.free + 1 }.modCore id fun c => c.post cause 6 (Config.freeAddr s2.free)
      match r with
      | .fenced => fail 0x15
      | .remoteError => fail 0x16
      | .ok xs =>
        let own := s.collRead c k.type k.srcAddr (k.form.srcLen ms.length k.n)
        let all := (List.range ms.length).map fun q => if q = rank then own else xs.getD q []
        if k.clash ms.length then s1.collFree c k ms.length
        else s1.collWrite c k.type k.dst.toNat (k.result rank all)
/-- Whether the oldest collective of a core on a group comes first of all that its context's cores have open on it: those run in issue
order (R310). -/
def State.collFirst (s : State) (g : BitVec 3) (c : Core) : Bool :=
  match c.colls.find? fun k => k.group == g with
  | none => false
  | some k => (s.allCores ++ s.saved).all fun d => !d.within c.ctx || d.colls.all fun q => q.group != g || decide (k.seq ≤ q.seq)
/-- The answer of a collective of core k on its way through the package: from a CL die, or due at the core (R296). -/
def State.collBack (s : State) (k : CoreId) (g : BitVec 3) (r : CollRes) (hops : List Hop) (due : Nat) : State :=
  { s with flights := s.flights ++ [{
      cargo := .collAns g r, core := k, eng := 6, pos := 0, addr := 0, hops := hops, owned := false, due := due, bad := false }] }
/-- The first other member of a core's oldest collective on a group. -/
def State.collPeer (s : State) (k : CoreId) (g : BitVec 3) : Option (BitVec 13) :=
  ((s.coreAt k).bind fun c => c.colls.find? fun q => q.group == g).bind fun q => q.members.find? fun p => p != s.pkgid
/-- The CL die by which the answer comes in: that by which the requests to the first other member left. -/
def State.collEntry (s : State) (k : CoreId) (g : BitVec 3) : Option Nat :=
  (s.collPeer k g).bind fun p => ((s.coreAt k).bind fun c => s.ctxOf c.ctx).bind fun x => s.collExit x (k.toNat / 16) p
/-- The route of such an answer; none is needed where there is no other member. DESIGN CHOICE (log entry 92). -/
def State.collHops (s : State) (k : CoreId) (g : BitVec 3) : List Hop :=
  match s.collEntry k g with
  | some cl => s.routeAt k cl (k.toNat / 16)
  | none => []
/-- How a collective ends: with other members and no CL die that serves, in a remote error. DESIGN CHOICE (log entry 92). -/
def State.collEnds (s : State) (k : CoreId) (g : BitVec 3) (r : CollRes) : CollRes :=
  if (s.collPeer k g).isSome ∧ s.collEntry k g = none then .remoteError else r
/-- The end of a core's oldest collective on a group: while the core's cycles run it takes its turn among the effects of CLV in the cycle
(R140), else it acts at once. -/
def State.collNow (s : State) (id : CoreId) (g : BitVec 3) (r : CollRes) : State :=
  match s.coreAt id with
  | none => s
  | some c =>
    if s.runsCycle c then s.modCore id fun c => { c with fly := c.fly ++ [{
      due := c.now, eng := 6, pos := ((c.colls.find? fun k => k.group == g).map Coll.pos).getD 0, eff := .collEnd g r }] }
    else s.collDone id g r
/-- Whether the end of a collective on a group is due at a core. -/
def Core.collEnding (c : Core) (g : BitVec 3) : Bool := c.fly.any fun o => match o.eff with
  | .collEnd h _ => h == g
  | _ => false
/-- COLLECTIVE_DONE (R310): the oldest collective of a core on a group ends: its destination is written, or a cause is raised
and the destination is unspecified. One that is not the first of its context on the group waits for those before it. -/
def execCollectiveDone (id : CoreId) (g : BitVec 3) (r : CollRes) (s : State) : Out :=
  let mine (c : Core) : Bool := c.id == id && c.colls.any fun k => k.group == g
  ok (if s.allCores.any fun c => mine c && s.collFirst g c && !c.collEnding g then s.collNow id g r
    else if s.saved.any fun c => mine c && s.collFirst g c then s.forOwner id (s.collFirst g) fun s => s.collDone id g r
    else if (s.allCores ++ s.saved).any mine then s.collBack id g r [] (s.clock + 1)
    else s)

/-! ### What a page move waits for (R176) -/

/-- Bytes that a collective reads and writes. -/
def Coll.srcBytes (k : Coll) : Nat := collElem k.type * k.form.srcLen k.members.length k.n
def Coll.dstBytes (k : Coll) : Nat := collElem k.type * k.form.dstLen k.members.length k.n
/-- Whether n bytes from b on meet len bytes from a on. -/
def rangesMeet (a len b n : Nat) : Bool := decide (b < a + len) && decide (a < b + n)
/-- Whether an operation of a core that has issued may still access len bytes from a on: a gather of a STAGE table, a collective, a copy, a
schedule entry that is being fetched. -/
def Core.uses (c : Core) (a len : Nat) : Bool :=
  (c.gtail ++ c.gjob.toList).any (fun j => !j.tab.g && rangesMeet a len j.tab.base.toNat (j.tab.nrow * j.tab.rb)) ||
  c.colls.any (fun k => rangesMeet a len k.srcAddr k.srcBytes || rangesMeet a len k.dst.toNat k.dstBytes) ||
  c.chan.toList.any fun h =>
    (h.fetched && h.entry.isEmpty && h.sched.any fun b => rangesMeet a len (b.addr.toNat + 32 * b.next) 32) ||
    (h.state == .busy && (match h.snap with
      | some x => (if x.fill then [true] else [false, true]).any fun d =>
          let e := x.extent d
          !(if d then x.dg else x.sg) && decide (e.1 < ((a + len : Nat) : Int)) && decide ((a : Int) < e.1 + e.2)
      | none => false))
/-- Whether accesses issued before still go to a page: requests on their way, and operations that have not performed (R176). -/
def State.pageUsed (s : State) (xid : CtxId) (a len : Nat) : Bool :=
  (s.flights.any fun f => (match f.cargo with
      | .req _ => true
      | .rowAsk _ => true
      | _ => false) && decide (a ≤ f.addr.toNat) && decide (f.addr.toNat < a + len) && (s.coreAt f.core).any fun c => c.ctx == xid) ||
  s.allCores.any fun c => c.ctx == xid && c.uses a len
/-- The channel whose next page can be moved now. -/
def State.pageDue (s : State) : Option Nat :=
  let c := s.core
  (List.range 8).find? fun ch => match (c.ch ch).page with
    | some j => decide (j.next ≤ c.now) && !s.pageUsed c.ctx j.addr.toNat pageBytes
    | none => false

end Sys2Proof.Machine
end

