-- ==== Sys2Proof/Machine/VecCore.lean ====
section
/-! DEFINITION. VecCore.lean: what the words of VEC share: the shape, registers, hazards, issue, completion and retirement
(R189 to R191, R255 to R257). -/
namespace Sys2Proof.Machine

/-- Elements of the shape (R255). -/
def VecUnit.n (u : VecUnit) : Nat := u.rows * u.cols
/-- G of a count of elements (R256). -/
def groupsOf (n : Nat) : Nat := (n + 63) / 64
/-- Element e of a vector register. -/
def VecUnit.el (u : VecUnit) (r : VReg) (e : Nat) : Elem := Store.get 0 u.v (1024 * r.toNat + e)
/-- The first n elements of a register. -/
def VecUnit.els (u : VecUnit) (r : VReg) (n : Nat) : List Elem := Store.getList 0 u.v (1024 * r.toNat) n
/-- Set elements 0 to n - 1 of a register. -/
def VecUnit.put (u : VecUnit) (d : VReg) (n : Nat) (f : Nat → Elem) : VecUnit := { u with v := Store.fill 0 u.v (1024 * d.toNat) n fun k => f (k - 1024 * d.toNat) }
/-- Set the first elements of a register from a list. -/
def VecUnit.putList (u : VecUnit) (d : VReg) (xs : List Elem) : VecUnit := u.put d xs.length fun e => xs.getD e 0
/-- A register, or DQ, is still to be written by an earlier word (R256). -/
def VecUnit.hazard (u : VecUnit) (now : Nat) (rs : List VReg) (dq : Bool) : Bool :=
  rs.any (fun r => decide (now < u.vfree.getD r.toNat 0)) || (dq && decide (now < u.dqFree))
/-- VEC's copy of FPC. -/
def Core.vecMode (c : Core) : Engine := c.engOf 2
/-- What a VEC word does besides its registers: its issue cost, its completion, the registers it writes, and its retirement. -/
structure VecPlan where
  cost  : Nat
  done  : Nat
  dsts  : List VReg := []
  dq    : Bool := false
  ret   : VecRet := { due := 0, pos := 0 }
  deriving DecidableEq, Repr
/-- A VEC word issues: its effect is computed at once, and its registers are free after its completion (R256). -/
def Core.vecIssue (c : Core) (i : Instr) (p : VecPlan) (f : VecUnit → VecUnit) : Core :=
  let u := f c.vec
  let due := c.now + p.done
  { c with vec := { u with
      vfree := p.dsts.foldl (fun v (r : VReg) => v.setIfInBounds r.toNat (due + 1)) u.vfree
      dqFree := if p.dq then due + 1 else u.dqFree
      retq := u.retq ++ [{ p.ret with due := due, pos := (c.engOf 2).pos }] } }.issue 2 p.cost (wordDraw 2 i)
/-- The shape of a VEC word: its own check, its hazards, its effect. -/
def vecWord (i : Instr) (uses : List VReg) (dq : Bool) (plan : Core → VecPlan) (f : Core → VecUnit → VecUnit) (s : State) : Out :=
  gate i s (
    if s.core.vec.hazard s.core.now uses dq then waitAt s 2 0x0C
    else powered s 2 i (ok (s.mapCore fun c => c.vecIssue i (plan c) (f c))))
/-- An elementwise word: elements 0 to n - 1 of d become values of e (R255, R256). -/
def vecMap (i : Instr) (d : VReg) (srcs : List VReg) (extra : Nat) (g : Core → VecUnit → Nat → Elem) (s : State) : Out :=
  vecWord i (d :: srcs) false
    (fun c => { cost := groupsOf c.vec.n, done := groupsOf c.vec.n + extra, dsts := [d] })
    (fun c u => u.put d u.n (g c u)) s

/-! ### Completion and retirement (R190, R257) -/

/-- Bytes of completed VSTQs enter their store queues at the end of the cycle. -/
def Core.vecEnter (c : Core) : Core :=
  let due := c.vec.retq.filter fun r => decide (r.due ≤ c.now)
  let enter (u : VecUnit) (r : VecRet) : VecUnit :=
    match r.push with
    | some (q, bs) =>
      let k := bit q
      { u with
        sq := u.sq.setIfInBounds k (u.sq.getD k [] ++ bs)
        sres := u.sres.setIfInBounds k (u.sres.getD k 0 - bs.length) }
    | none => u
  let u := due.foldl enter c.vec
  { c with vec := { u with retq := u.retq.map fun r => if r.due ≤ c.now then { r with push := none } else r } }
/-- The VEC word that retires in this cycle. -/
def Core.vecDue (c : Core) : Option VecRet :=
  match c.vec.retq with
  | r :: _ => if r.due ≤ c.now then some r else none
  | [] => none
/-- The oldest VEC word retires: running maximum and flags change (R189, R193). -/
def Core.vecLeave (c : Core) (r : VecRet) : Core :=
  let u := c.vec
  { c with
    trap := { c.trap with bnd := c.trap.bnd || r.bnd }
    vec := { u with
      retq := u.retq.drop 1
      amax := if r.reset then 0 else if u.amax.toNat < r.mx.toNat then r.mx else u.amax
      nan := !r.reset && (u.nan || r.nan)
      sat := !r.reset && (u.sat || r.sat) } }
/-- VEC_RETIRE (R190): the oldest completed VEC word retires; running maximum and flags change. -/
def execVecRetire (s : State) : Out :=
  match s.core.vecDue with
  | none => ok s
  | some r => ok (s.mapCore fun c => c.vecLeave r)
/-- A core as it is once every VEC word that has issued has retired, which a freeze lets them do (R258). What the quiesce computes so is held
with its local cycle (R322): the core itself goes on from its words as they stand. -/
def Core.vecDone (c : Core) : Core :=
  let last := c.vec.retq.foldl (fun m r => max m r.due) c.now
  { c.vec.retq.foldl Core.vecLeave ({ c with now := last }).vecEnter with now := c.now }

end Sys2Proof.Machine
end

