-- ==== Sys2Proof/Machine/Format.lean ====
section
/-! DEFINITION. Format.lean: the format queue and the conversions of VEC (R177 to R202). -/
namespace Sys2Proof.Machine

/-- FPUSH (R195, R186): a format word enters FQ at the end of the cycle. -/
def execFpush (a : GReg) (s : State) : Out :=
  gate (.fpush a) s (unmarked s 0 [a] (
    if 16 ≤ s.core.mtx.fq.length then trapAt s 0 0x0D (s.core.g a)
    else ok (s.mapCore fun c => (c.issueCtl (c.now + 1)).atEnd (.fqPush (c.g a)))))

/-! ### Conversions (R198 to R202) -/

/-- The retirement of a word with an .amax form: its source values enter the running maximum. -/
def amaxRet (x : Bool) (xs : List Elem) (sat : Bool) : VecRet :=
  let m := if x then amaxOf xs (0, false) else (0, false)
  { due := 0, pos := 0, mx := m.1, nan := m.2, sat := sat }
/-- The source value of a VCVT: flushed where it is FP32 or BF16. -/
def cvtSrc (x : Engine) (o : Nat) (v : Elem) : Elem :=
  match o with
  | 1 => flush x.ftzi (v &&& 0xFFFF0000)
  | 3 => v
  | _ => flush x.ftzi v
/-- VCVT of one element, and whether it saturated (R198). -/
def cvtElem (x : Engine) (o : Nat) (v : Elem) : Elem × Bool :=
  let y := cvtSrc x o v
  match o with
  | 0 => (flush x.ftzo ((f32ToBf16 x.rm y) ++ 0#16), false)
  | 1 => (flush x.ftzo (canon y), false)
  | 2 => let r := f32ToInt x.rm 32 y; (wrap32 r.1, r.2)
  | _ => (flush x.ftzo (intToF32 x.rm y.toInt), false)
/-- VCVT (R198). -/
def execVcvt (d a : VReg) (x : BitVec 1) (o : BitVec 3) (s : State) : Out :=
  vecWord (.vcvt d a x o) [d, a] false
    (fun c =>
      let xs := c.vec.els a c.vec.n
      let g := groupsOf c.vec.n
      { cost := g, done := g + 7, dsts := [d]
        ret := amaxRet (x == 1) (xs.map (cvtSrc c.vecMode o.toNat)) (xs.any fun v => (cvtElem c.vecMode o.toNat v).2) })
    (fun c u => u.putList d ((u.els a u.n).map fun v => (cvtElem c.vecMode o.toNat v).1)) s
/-- Row i of the shape, flushed. -/
def VecUnit.row (u : VecUnit) (ftzi : Bool) (a : VReg) (i : Nat) : List Elem :=
  (List.range u.cols).map fun j => flush ftzi (u.el a (i * u.cols + j))
/-- The block of a row, padded to 32 values (R199). -/
def VecUnit.rowBlock (u : VecUnit) (ftzi : Bool) (a : VReg) (w i : Nat) : Block :=
  quantBlock (u.row ftzi a i ++ List.replicate (32 - u.cols) 0) w
/-- VQBX (R199). -/
def execVqbx (d a : VReg) (x : BitVec 1) (f : BitVec 3) (s : State) : Out :=
  let w := fmtW f.toNat
  vecWord (.vqbx d a x f) [d, a] false
    (fun c =>
      let z := c.vecMode.ftzi
      let g := groupsOf c.vec.n
      { cost := g, done := g + 7, dsts := [d]
        ret := amaxRet (x == 1) ((c.vec.els a c.vec.n).map (flush z))
          ((List.range c.vec.rows).any fun i => (c.vec.rowBlock z a w i).sat) })
    (fun c u => u.putList d ((List.range u.rows).flatMap fun i =>
      elemsOf ((u.rowBlock c.vecMode.ftzi a w i).bytes w) (w + 1))) s
/-- VDQBX (R200). -/
def execVdqbx (d a : VReg) (f : BitVec 3) (s : State) : Out :=
  let w := fmtW f.toNat
  vecMap (.vdqbx d a f) d [a] 7 (fun c u =>
    let bits := (List.range u.rows).map fun i => ofBytes (elemBytes ((List.range w).map fun k => u.el a (i * (w + 1) + 1 + k)))
    fun e =>
      let i := e / u.cols
      flush c.vecMode.ftzo (dequant (field ((u.el a (i * (w + 1))).setWidth 64) 7 0) (mantissa (bits.getD i 0) w (e % u.cols)) w)) s
/-- Element size of a VPACK or VUNPK kind (R201). -/
def packSize (k : BitVec 2) : Nat := if k = 0 then 1 else 2
/-- VPACK of one element: its bits, and whether it was clamped (R201). -/
def packElem (u : BitVec 1) (k : BitVec 2) (x : Elem) : Nat × Bool :=
  if k = 2 then (x.toNat / 65536, false)
  else
    let b := 8 * packSize k
    let y := if u = 1 then clampInt 0 ((2 ^ b : Nat) - 1) x.toInt
      else clampInt (-((2 ^ (b - 1) : Nat) : Int)) ((2 ^ (b - 1) : Nat) - 1) x.toInt
    (lowBits b y, y != x.toInt)
/-- VPACK (R201). -/
def execVpack (d a : VReg) (u : BitVec 1) (k : BitVec 2) (s : State) : Out :=
  vecWord (.vpack d a u k) [d, a] false
    (fun c =>
      let g := groupsOf c.vec.n
      { cost := g, done := g + 7, dsts := [d]
        ret := { due := 0, pos := 0, sat := (c.vec.els a c.vec.n).any fun x => (packElem u k x).2 } })
    (fun _ v =>
      let img := (v.els a v.n).flatMap fun x => toBytes (packSize k) (packElem u k x).1
      v.putList d (elemsOf img ((img.length + 3) / 4))) s
/-- VUNPK (R201). -/
def execVunpk (d a : VReg) (u : BitVec 1) (k : BitVec 2) (s : State) : Out :=
  let z := packSize k
  vecMap (.vunpk d a u k) d [a] 7 (fun _ v e =>
    let y := (v.el a (z * e / 4)).toNat / 256 ^ (z * e % 4) % 256 ^ z
    if k = 2 then BitVec.ofNat 32 (y * 65536) else if u = 1 then BitVec.ofNat 32 y else wrap32 (signedNat (8 * z) y)) s
/-- VAMXR (R202). -/
def execVamxr (s : State) : Out :=
  vecWord .vamxr [] false (fun _ => { cost := 1, done := 1, ret := { due := 0, pos := 0, reset := true } }) (fun _ u => u) s

end Sys2Proof.Machine
end

