-- ==== Sys2Proof/Machine/Vector.lean ====
section
/-! DEFINITION. Vector.lean: the vector and special-function words (R254 to R284). -/
namespace Sys2Proof.Machine

/-! ### Shape and queues (R260 to R262) -/

/-- VSHAPE (R260). -/
def execVshape (c r : BitVec 5) (s : State) : Out :=
  vecWord (.vshape c r) [] false (fun _ => { cost := 1, done := 0 })
    (fun _ u => { u with rows := r.toNat + 1, cols := c.toNat + 1 }) s
/-- Bytes of an element in a queue. -/
def queueSize (b : BitVec 1) : Nat := if b = 1 then 2 else 4
/-- VLDQ (R261). -/
def execVldq (d : VReg) (b : BitVec 1) (q : BitVec 2) (s : State) : Out :=
  let z := queueSize b
  let u := s.core.vec
  let bs := u.lq.getD q.toNat []
  gate (.vldq d b q) s (
    if bs.length < z * u.n then waitAt s 2 8
    else vecWord (.vldq d b q) [d] false (fun c => { cost := groupsOf c.vec.n, done := groupsOf c.vec.n + 7, dsts := [d] })
      (fun _ u =>
        let img := ofBytes (bs.take (z * u.n))
        let w := u.put d u.n fun e =>
          let y := img / 256 ^ (z * e) % 256 ^ z
          BitVec.ofNat 32 (if b = 1 then y * 65536 else y)
        { w with lq := w.lq.setIfInBounds q.toNat (bs.drop (z * u.n)) }) s)
/-- Room in a store queue (R262). -/
def VecUnit.room (u : VecUnit) (k : Nat) : Nat := 8192 - ((u.sq.getD k []).length + u.sres.getD k 0 + u.taken.getD k 0)
/-- The bound checks of a VSTQ, element by element (R193). -/
def stqChecks (c : Core) (a : VReg) (n : BitVec 3) (e : BitVec 1) : List BndRes :=
  (c.vec.els a c.vec.n).map fun v => if e = 1 then boundCheck (c.vecMode.bnd.getD n.toNat {}) v else .keep v
/-- VSTQ (R262). -/
def execVstq (a : VReg) (n : BitVec 3) (e b q : BitVec 1) (s : State) : Out :=
  let z := queueSize b
  let i := Instr.vstq a n e b q
  let rs := stqChecks s.core a n e
  gate i s (
    if s.core.vec.room q.toNat < z * s.core.vec.n then waitAt s 2 8
    else if s.core.vec.hazard s.core.now [a] false then waitAt s 2 0x0C
    else match firstTrap rs with
      | some (k, v) => trapAt s 2 0x10 (boundEval v k n.toNat)
      | none =>
        let bs := rs.flatMap fun r => toBytes z (if b = 1 then r.val.toNat / 65536 else r.val.toNat)
        vecWord i [a] false
          (fun c => {
            cost := groupsOf c.vec.n, done := groupsOf c.vec.n + 7
            ret := { due := 0, pos := 0, bnd := anyFlag rs, push := some (q == 1, bs) } })
          (fun _ u => { u with sres := u.sres.setIfInBounds q.toNat (u.sres.getD q.toNat 0 + bs.length) }) s)

/-! ### Elementwise words (R263 to R269) -/

/-- A binary FP word (Table 12-3). -/
def vecFp (x : Engine) (op : Nat) (p q : Elem) : Elem :=
  let a := flush x.ftzi p
  let b := flush x.ftzi q
  match op with
  | 0 => flush x.ftzo (fadd x.rm a b)
  | 1 => flush x.ftzo (fsub x.rm a b)
  | 2 => flush x.ftzo (fmul x.rm a b)
  | 3 => fmin a b
  | _ => fmax a b
/-- The shape of the binary FP words. -/
def vecBin (i : Instr) (op : Nat) (d a b : VReg) (s : State) : Out :=
  vecMap i d [a, b] 7 (fun c u e => vecFp c.vecMode op (u.el a e) (u.el b e)) s
/-- VADD (R263). -/
def execVadd (d a b : VReg) (s : State) : Out := vecBin (.vadd d a b) 0 d a b s
/-- VSUB (R263). -/
def execVsub (d a b : VReg) (s : State) : Out := vecBin (.vsub d a b) 1 d a b s
/-- VMUL (R263). -/
def execVmul (d a b : VReg) (s : State) : Out := vecBin (.vmul d a b) 2 d a b s
/-- VMIN (R263). -/
def execVmin (d a b : VReg) (s : State) : Out := vecBin (.vmin d a b) 3 d a b s
/-- VMAX (R263). -/
def execVmax (d a b : VReg) (s : State) : Out := vecBin (.vmax d a b) 4 d a b s
/-- A binary integer word (Table 12-4). -/
def vecInt (op : Nat) (x y : Elem) : Elem :=
  match op with
  | 0 => x + y
  | 1 => x - y
  | 2 => x * y
  | 3 => x &&& y
  | 4 => x ||| y
  | 5 => x ^^^ y
  | 6 => x <<< (y.toNat % 32)
  | _ => x.sshiftRight (y.toNat % 32)
/-- The shape of the binary integer words. -/
def vecBinInt (i : Instr) (op : Nat) (d a b : VReg) (s : State) : Out :=
  vecMap i d [a, b] 7 (fun _ u e => vecInt op (u.el a e) (u.el b e)) s
/-- VIADD (R264). -/
def execViadd (d a b : VReg) (s : State) : Out := vecBinInt (.viadd d a b) 0 d a b s
/-- VISUB (R264). -/
def execVisub (d a b : VReg) (s : State) : Out := vecBinInt (.visub d a b) 1 d a b s
/-- VIMUL (R264). -/
def execVimul (d a b : VReg) (s : State) : Out := vecBinInt (.vimul d a b) 2 d a b s
/-- VAND (R264). -/
def execVand (d a b : VReg) (s : State) : Out := vecBinInt (.vand d a b) 3 d a b s
/-- VOR (R264). -/
def execVor (d a b : VReg) (s : State) : Out := vecBinInt (.vor d a b) 4 d a b s
/-- VXOR (R264). -/
def execVxor (d a b : VReg) (s : State) : Out := vecBinInt (.vxor d a b) 5 d a b s
/-- VSHL (R264). -/
def execVshl (d a b : VReg) (s : State) : Out := vecBinInt (.vshl d a b) 6 d a b s
/-- VSHR (R264). -/
def execVshr (d a b : VReg) (s : State) : Out := vecBinInt (.vshr d a b) 7 d a b s
/-- VFMA (R265). -/
def execVfma (d a b c : VReg) (s : State) : Out :=
  vecMap (.vfma d a b c) d [a, b, c] 7 (fun k u e =>
    let x := k.vecMode
    flush x.ftzo (ffma x.rm (flush x.ftzi (u.el a e)) (flush x.ftzi (u.el b e)) (flush x.ftzi (u.el c e)))) s
/-- A unary operation in the order of Table 2-20 (R266): VNEG, VABS and VFLOOR do not flush. -/
def vecUnary (x : Engine) (op : Nat) (v : Elem) : Elem :=
  let special (f : Elem → Elem) : Elem := flush x.ftzo (f (flush x.ftzi v))
  match op with
  | 0 => canon (fnegPat v)
  | 1 => canon (absPat v)
  | 2 => special frcp
  | 3 => special frsq
  | 4 => special fsqrt
  | 5 => special fexp2
  | 6 => special flog2
  | 7 => special fsinp
  | _ => ffloor v
/-- The shape of the unary words. -/
def vecUn (i : Instr) (op : Nat) (d a : VReg) (s : State) : Out :=
  vecMap i d [a] 7 (fun c u e => vecUnary c.vecMode op (u.el a e)) s
/-- VNEG (R266). -/
def execVneg (d a : VReg) (s : State) : Out := vecUn (.vneg d a) 0 d a s
/-- VABS (R266). -/
def execVabs (d a : VReg) (s : State) : Out := vecUn (.vabs d a) 1 d a s
/-- VRCP (R266). -/
def execVrcp (d a : VReg) (s : State) : Out := vecUn (.vrcp d a) 2 d a s
/-- VRSQ (R266). -/
def execVrsq (d a : VReg) (s : State) : Out := vecUn (.vrsq d a) 3 d a s
/-- VSQRT (R266). -/
def execVsqrt (d a : VReg) (s : State) : Out := vecUn (.vsqrt d a) 4 d a s
/-- VEXP2 (R266). -/
def execVexp2 (d a : VReg) (s : State) : Out := vecUn (.vexp2 d a) 5 d a s
/-- VLOG2 (R266). -/
def execVlog2 (d a : VReg) (s : State) : Out := vecUn (.vlog2 d a) 6 d a s
/-- VSINP (R266). -/
def execVsinp (d a : VReg) (s : State) : Out := vecUn (.vsinp d a) 7 d a s
/-- VFLOOR (R266). -/
def execVfloor (d a : VReg) (s : State) : Out := vecUn (.vfloor d a) 8 d a s
/-- Whether a comparison holds for FP32 values (R268). -/
def cmpFp (cc : Nat) (x y : Elem) : Bool :=
  if isNaN x || isNaN y then cc == 1
  else match cc with
    | 0 => valueKey x == valueKey y
    | 1 => valueKey x != valueKey y
    | 2 => decide (valueKey x < valueKey y)
    | 3 => decide (valueKey x ≤ valueKey y)
    | 4 => decide (valueKey y < valueKey x)
    | _ => decide (valueKey y ≤ valueKey x)
/-- Whether a comparison holds for signed integers (R268). -/
def cmpInt (cc : Nat) (x y : Int) : Bool :=
  match cc with
  | 0 => x == y
  | 1 => x != y
  | 2 => decide (x < y)
  | 3 => decide (x ≤ y)
  | 4 => decide (y < x)
  | _ => decide (y ≤ x)
/-- VCMP (R268). -/
def execVcmp (d a b : VReg) (i : BitVec 1) (c : BitVec 3) (s : State) : Out :=
  vecMap (.vcmp d a b i c) d [a, b] 7 (fun k u e =>
    let x := k.vecMode
    let r := if i = 1 then cmpInt c.toNat (u.el a e).toInt (u.el b e).toInt
      else cmpFp c.toNat (flush x.ftzi (u.el a e)) (flush x.ftzi (u.el b e))
    BitVec.ofNat 32 (bit r)) s
/-- VSEL (R269). -/
def execVsel (d a b c : VReg) (i : BitVec 1) (s : State) : Out :=
  vecMap (.vsel d a b c i) d [a, b, c] 7 (fun k u e =>
    let v := if u.el c e != 0 then u.el a e else u.el b e
    if i = 1 then v else canon (flush k.vecMode.ftzi v)) s

/-! ### Words across the shape (R270 to R274) -/

/-- The sequence k of an axis: rows, columns, all (Table 12-6). -/
def VecUnit.seq (u : VecUnit) (a : VReg) (axis k : Nat) : List Elem :=
  match axis with
  | 0 => (List.range u.cols).map fun j => u.el a (k * u.cols + j)
  | 1 => (List.range u.rows).map fun i => u.el a (i * u.cols + k)
  | _ => u.els a u.n
/-- Number of sequences of an axis. -/
def VecUnit.seqs (u : VecUnit) (axis : Nat) : Nat := if axis = 0 then u.rows else if axis = 1 then u.cols else 1
/-- A reduction of a sequence: sum, greatest, least (R270), flushed by FTZO (Table 8-4). -/
def reduceSeq (x : Engine) (op : Nat) (l : List Elem) : Elem :=
  let xs := l.map (flush x.ftzi)
  match op with
  | 0 => flush x.ftzo (canon (sumTree (fun p q => flush x.ftzo (fadd 0 p q)) xs))
  | 1 => flush x.ftzo (foldMax xs)
  | _ => flush x.ftzo (foldMin xs)
/-- The shape of the VRED words. -/
def vecRed (i : Instr) (op axis : Nat) (d a : VReg) (s : State) : Out :=
  vecWord i [d, a] false (fun c => { cost := groupsOf c.vec.n, done := groupsOf c.vec.n + 12, dsts := [d] })
    (fun c u => u.put d (u.seqs axis) fun k => reduceSeq c.vecMode op (u.seq a axis k)) s
/-- VRED.SUM.ROW (R270). -/
def execVredSumRow (d a : VReg) (s : State) : Out := vecRed (.vredSumRow d a) 0 0 d a s
/-- VRED.MAX.ROW (R270). -/
def execVredMaxRow (d a : VReg) (s : State) : Out := vecRed (.vredMaxRow d a) 1 0 d a s
/-- VRED.MIN.ROW (R270). -/
def execVredMinRow (d a : VReg) (s : State) : Out := vecRed (.vredMinRow d a) 2 0 d a s
/-- VRED.SUM.COL (R270). -/
def execVredSumCol (d a : VReg) (s : State) : Out := vecRed (.vredSumCol d a) 0 1 d a s
/-- VRED.MAX.COL (R270). -/
def execVredMaxCol (d a : VReg) (s : State) : Out := vecRed (.vredMaxCol d a) 1 1 d a s
/-- VRED.MIN.COL (R270). -/
def execVredMinCol (d a : VReg) (s : State) : Out := vecRed (.vredMinCol d a) 2 1 d a s
/-- VRED.SUM.ALL (R270). -/
def execVredSumAll (d a : VReg) (s : State) : Out := vecRed (.vredSumAll d a) 0 2 d a s
/-- VRED.MAX.ALL (R270). -/
def execVredMaxAll (d a : VReg) (s : State) : Out := vecRed (.vredMaxAll d a) 1 2 d a s
/-- VRED.MIN.ALL (R270). -/
def execVredMinAll (d a : VReg) (s : State) : Out := vecRed (.vredMinAll d a) 2 2 d a s
/-- VBCAST (R271). -/
def execVbcast (d a : VReg) (m : BitVec 2) (s : State) : Out :=
  vecMap (.vbcast d a m) d [a] 7 (fun _ u e =>
    u.el a (if m = 0 then e / u.cols else if m = 1 then e % u.cols else 0)) s
/-- VIOTA (R272). -/
def execViota (d : VReg) (m : BitVec 2) (s : State) : Out :=
  vecMap (.viota d m) d [] 7 (fun _ u e =>
    BitVec.ofNat 32 (if m = 0 then e else if m = 1 then e / u.cols else e % u.cols)) s
/-- A word that moves elements over the shape in twice the time (Table 12-2). -/
def vecMove (i : Instr) (d : VReg) (srcs : List VReg) (g : VecUnit → Nat → Elem) (s : State) : Out :=
  vecWord i (d :: srcs) false
    (fun c => { cost := 2 * groupsOf c.vec.n, done := 2 * groupsOf c.vec.n + 7, dsts := [d] }) (fun _ u => u.put d u.n (g u)) s
/-- VPERM (R273). -/
def execVperm (d a b : VReg) (s : State) : Out :=
  vecMove (.vperm d a b) d [a, b] (fun u e => u.el a ((u.el b e).toNat % 1024)) s
/-- VTRN (R274). -/
def execVtrn (d a : VReg) (s : State) : Out :=
  vecMove (.vtrn d a) d [a] (fun u e => u.el a (e % u.rows * u.cols + e / u.rows)) s

/-! ### Expression slots (R275 to R277) -/

/-- Operator t of a slot. -/
def slotOp (b : BitVec 128) (t : Nat) : Nat := b.toNat / 2 ^ (6 * t) % 64
/-- Input selector k of a slot. -/
def slotSel (b : BitVec 128) (k : Nat) : Nat := b.toNat / 2 ^ (42 + 5 * k) % 32
/-- The constants of a slot. -/
def slotK (b : BitVec 128) (k : Nat) : Elem := BitVec.ofNat 32 (b.toNat / 2 ^ (64 + 32 * k))
/-- The operators of a slot in order. -/
def slotOps (b : BitVec 128) : List Nat := (List.range 7).map (slotOp b)
/-- What an operator pops and pushes; none for an unknown code (Table 12-8). -/
def opShape (op : Nat) : Option (Nat × Nat) :=
  if 1 ≤ op ∧ op ≤ 6 then some (0, 1)
  else if op = 7 then some (1, 2)
  else if op = 8 then some (2, 2)
  else if 0x10 ≤ op ∧ op ≤ 0x14 then some (2, 1)
  else if op = 0x18 then some (3, 1)
  else if op = 0x19 ∨ (0x20 ≤ op ∧ op ≤ 0x28) then some (1, 1)
  else none
/-- The depth check (R275). -/
def depthOk : List Nat → Nat → Bool
  | [], d => d == 1
  | op :: t, d =>
    if op = 0 then d == 1 && t.all (· == 0)
    else match opShape op with
      | none => false
      | some (p, q) => decide (p ≤ d) && decide (d - p + q ≤ 4) && depthOk t (d - p + q)
/-- Whether a slot's bits are a valid program (R275). -/
def slotOk (b : BitVec 128) : Bool :=
  depthOk (slotOps b) 0 && (List.range 4).all (fun k => decide (slotSel b k ≤ 17)) && b.toNat / 2 ^ 62 % 4 == 0
/-- The registers that a slot names. -/
def slotRegs (b : BitVec 128) : List VReg :=
  ((List.range 4).map (slotSel b)).filterMap fun k => if k < 16 then some (BitVec.ofNat 4 k) else none
/-- An operator on the stack (Table 12-8, R277). -/
def opStep (x : Engine) (inp : Nat → Elem) (k0 k1 : Elem) (op : Nat) (st : List Elem) : List Elem :=
  let z := flush x.ftzi
  let o := flush x.ftzo
  if 1 ≤ op ∧ op ≤ 4 then inp (op - 1) :: st
  else if op = 5 then k0 :: st
  else if op = 6 then k1 :: st
  else match op, st with
    | 0x07, a :: t => a :: a :: t
    | 0x08, b :: a :: t => a :: b :: t
    | 0x18, c :: b :: a :: t => o (ffma 0 (z a) (z b) (z c)) :: t
    | 0x19, a :: t => o (ffma 0 (z a) (z k0) (z k1)) :: t
    | 0x10, b :: a :: t => o (fadd 0 (z a) (z b)) :: t
    | 0x11, b :: a :: t => o (fsub 0 (z a) (z b)) :: t
    | 0x12, b :: a :: t => o (fmul 0 (z a) (z b)) :: t
    | 0x13, b :: a :: t => fmin (z a) (z b) :: t
    | 0x14, b :: a :: t => fmax (z a) (z b) :: t
    | k, a :: t => vecUnary x (k - 0x20) a :: t
    | _, [] => []
/-- The value of a slot on a lane; a NaN among its inputs, which it reads as FP32, is written as the canonical one (R178). -/
def slotEval (x : Engine) (b : BitVec 128) (inp : Nat → Elem) : Elem :=
  canon ((((slotOps b).takeWhile (· != 0)).foldl (fun st op => opStep x inp (slotK b 0) (slotK b 1) op st) []).getD 0 0)
/-- EVAL of a slot fault (R276). -/
def slotEval4 (i : Instr) : Dword := decodeEval (encode i) 4 2
/-- VXDEF (R276). -/
def execVxdef (x : BitVec 4) (a b : GReg) (s : State) : Out :=
  let v : BitVec 128 := s.core.rd 2 b ++ s.core.rd 2 a
  gate (.vxdef x a b) s (unmarked s 2 [a, b] (
    if !slotOk v then trapAt s 2 1 (slotEval4 (.vxdef x a b))
    else vecWord (.vxdef x a b) [] false (fun _ => { cost := 1, done := 0 })
      (fun _ u => { u with slots := u.slots.setIfInBounds x.toNat { bits := v, valid := true } }) s))
/-- VEXPR (R277). -/
def execVexpr (d : VReg) (x : BitVec 4) (s : State) : Out :=
  let sl := s.core.vec.slots.getD x.toNat {}
  let uses := d :: (if sl.valid then slotRegs sl.bits else [])
  gate (.vexpr d x) s (
    if s.core.vec.hazard s.core.now uses false then waitAt s 2 0x0C
    else if !sl.valid then trapAt s 2 1 (slotEval4 (.vexpr d x))
    else vecMap (.vexpr d x) d (slotRegs sl.bits) 28 (fun c u e =>
      slotEval c.vecMode sl.bits fun k =>
        let q := slotSel sl.bits k
        if q = 16 then intToF32 0 (e / u.cols : Nat) else if q = 17 then intToF32 0 (e % u.cols : Nat) else u.el (BitVec.ofNat 4 q) e) s)

/-! ### Deferral (R278 to R281) -/

/-- The lanes that a VDEFER defers. -/
def VecUnit.lanes (u : VecUnit) (a : VReg) : List Nat := (List.range u.n).filter fun e => u.el a e != 0
/-- The registers b to b + k. -/
def regRun (b : VReg) (k : Nat) : List VReg := (List.range (k + 1)).map fun t => b + BitVec.ofNat 4 t
/-- VDEFER (R279). -/
def execVdefer (a b : VReg) (k : BitVec 2) (s : State) : Out :=
  let u := s.core.vec
  let uses := a :: regRun b k.toNat
  gate (.vdefer a b k) s (
    if u.hazard s.core.now uses true then waitAt s 2 0x0C
    else if 4096 < u.dq.length + (u.lanes a).length then trapAt s 2 0x17 (dw (u.dq.length + (u.lanes a).length * 2 ^ 13))
    else vecWord (.vdefer a b k) uses true (fun c => { cost := groupsOf c.vec.n, done := groupsOf c.vec.n + 7, dq := true })
      (fun _ u => { u with dq := u.dq ++ (u.lanes a).map fun e => { coord := e, vals := (regRun b k.toNat).map fun r => u.el r e } }) s)
/-- VDRAIN (R280). -/
def execVdrain (d a : VReg) (k : BitVec 2) (s : State) : Out :=
  let ds := regRun d k.toNat
  vecWord (.vdrain d a k) (a :: ds) true (fun _ => { cost := 16, done := 23, dsts := a :: ds, dq := true })
    (fun _ u =>
      let m := min 1024 u.dq.length
      let u1 := u.put a 1024 fun t => match u.dq[t]? with
        | some x => if t < m then BitVec.ofNat 32 x.coord else 0xFFFFFFFF
        | none => 0xFFFFFFFF
      let u2 := ds.zipIdx.foldl (fun w p => w.put p.1 1024 fun t => match u.dq[t]? with
        | some x => if t < m then x.vals.getD p.2 0 else 0
        | none => 0) u1
      { u2 with dq := u.dq.drop m }) s
/-- VDRET (R281). -/
def execVdret (d a b : VReg) (s : State) : Out :=
  vecWord (.vdret d a b) [d, a, b] false (fun _ => { cost := 16, done := 23, dsts := [d] })
    (fun _ u => (List.range 1024).foldl (fun w t =>
      let q := (u.el b t).toNat
      if q < 1024 then { w with v := Store.set 0 w.v (1024 * d.toNat + q) (u.el a t) } else w) u) s

/-! ### Splice (R282 to R284) -/

/-- A round of splice. -/
def spliceRound (k : Vector Elem 4) (x : Elem × Elem × Elem × Elem) (r : Nat) : Elem × Elem × Elem × Elem :=
  let a := x.1 + x.2.1
  let d := (x.2.2.2 ^^^ a).rotateLeft 16
  let c := x.2.2.1 + d
  let b := (x.2.1 ^^^ c).rotateLeft 12
  (a + k.getD (r % 4) 0, b, c + BitVec.ofNat 32 ((r + 1) * 0x9E3779B9), d)
/-- splice (R282). -/
def splice (k : Vector Elem 4) (c : BitVec 128) : Elem × Elem × Elem × Elem :=
  let w (n : Nat) : Elem := BitVec.ofNat 32 (c.toNat / 2 ^ (32 * n))
  let x := (List.range 8).foldl (spliceRound k) (w 0, w 1, w 2, w 3)
  (x.1 + k.getD 0 0, x.2.1 + k.getD 1 0, x.2.2.1 + k.getD 2 0, x.2.2.2 + k.getD 3 0)
/-- VRNG (R283). -/
def execVrng (d : VReg) (u : BitVec 1) (s : State) : Out :=
  vecWord (.vrng d u) [d] false (fun c => { cost := groupsOf c.vec.n, done := groupsOf c.vec.n + 15, dsts := [d] })
    (fun _ v =>
      let w := v.put d v.n fun e =>
        let x := (splice v.key (v.ctr + BitVec.ofNat 128 e)).1
        if u = 1 then roundRat 0 false (x.toNat / 256) 1 (-24) else x
      { w with ctr := v.ctr + BitVec.ofNat 128 v.n }) s
/-- The four key words of two registers. -/
def keyOf (a b : Dword) : Vector Elem 4 := #v[a.setWidth 32, (a >>> 32).setWidth 32, b.setWidth 32, (b >>> 32).setWidth 32]
/-- The shape of VRNGK.KEY, .CTR and .ADD. -/
def rngkWord (i : Instr) (a b : GReg) (f : Dword → Dword → VecUnit → VecUnit) (s : State) : Out :=
  gate i s (unmarked s 2 [a, b]
    (vecWord i [] false (fun _ => { cost := 1, done := 0 }) (fun c u => f (c.rd 2 a) (c.rd 2 b) u) s))
/-- VRNGK.KEY (R284). -/
def execVrngkKey (a b : GReg) (s : State) : Out := rngkWord (.vrngkKey a b) a b (fun x y u => { u with key := keyOf x y }) s
/-- VRNGK.CTR (R284). -/
def execVrngkCtr (a b : GReg) (s : State) : Out := rngkWord (.vrngkCtr a b) a b (fun x y u => { u with ctr := y ++ x }) s
/-- VRNGK.ADD (R284). -/
def execVrngkAdd (a b : GReg) (s : State) : Out := rngkWord (.vrngkAdd a b) a b (fun x y u => { u with ctr := u.ctr + (y ++ x) }) s
/-- VRNGK.SAVE (R284). -/
def execVrngkSave (d : VReg) (s : State) : Out :=
  vecWord (.vrngkSave d) [d] false (fun _ => { cost := 1, done := 0, dsts := [d] })
    (fun _ u => u.putList d (u.key.toList ++ (List.range 4).map fun n => BitVec.ofNat 32 (u.ctr.toNat / 2 ^ (32 * n)))) s

end Sys2Proof.Machine
end

