-- ==== Sys2Proof/Machine/Matrix.lean ====
section
/-! DEFINITION. Matrix.lean: the matrix words: the loop nest, its passes, the drain, tiles (R203 to R226). -/
namespace Sys2Proof.Machine

/-! ### Faults (Tables 9-6, 9-7) -/

/-- A fault of an MTX word: its cause, and EVAL, where the manual gives one. -/
abbrev MtxFault := Byte × Option Dword
/-- EVAL of an MTX parameter fault (Tables 9-6, 10-8). -/
def mtxEval (kind level : Nat) : Dword := dw (level + kind * 16 + 0x02 * 2 ^ 48 + 0xFF * 2 ^ 56)
/-- MTX stops at its word; a detail that the manual leaves open is a free value. -/
def mtxTrap (s : State) (f : MtxFault) : Out :=
  match f.2 with
  | some v => trapAt s 1 f.1 v
  | none => trapAt (s.mapCore fun c => { c with free := c.free + 1 }) 1 f.1 (Config.freeEval s.core.free)
/-- The alignment check of an address and of the strides by which it moves: the first misaligned address. -/
def alignFault (al : Nat) (base : Dword) (strs : List Dword) : Option MtxFault :=
  if base.toNat % al ≠ 0 then some (4, some base)
  else (strs.find? fun d => d.toNat % al != 0).map fun d => (4, some (base + d))
/-- The extent check of len bytes from lo on, within size bytes: the lowest failing byte. -/
def extentFault (size : Nat) (lo : Int) (len : Nat) : Option MtxFault :=
  if lo < 0 ∨ (size : Int) ≤ lo then some (5, some (wrap64 lo))
  else if (size : Int) < lo + len then some (5, some (dw size)) else none
/-- The first fault of a list of checks. -/
def firstFault (xs : List (Option MtxFault)) : Option MtxFault := xs.findSome? id
/-- A write that an earlier MTX word makes to a tile has still to perform (R234). -/
def Core.tileBusy (c : Core) (m : Nat) : Bool := decide (c.now < c.mtx.tready.getD m 0)
/-- The shape of an MTX word: its registers, the tile it reads, its checks, the ranges of scratch it accesses, which must lie below
the copies' watermarks (R165), its power check. -/
def mtxWord (i : Instr) (tile : Option Nat) (chk : Option MtxFault) (uses : List (Nat × Nat)) (run : Out) (s : State) : Out :=
  gate i s (unmarked s 1 (regsOf 1 i) (
    if (tile.map s.core.tileBusy).getD false then waitAt s 1 0x0C
    else match chk with
      | some f => mtxTrap s f
        | none => clearAll s 1 uses (powered s 1 i run)))
/-- Rows that MLDT or MSTT moves. -/
def tileRows (v : BitVec 1) (sh : Dword) : Nat := if v = 1 then 128 else shRows sh
/-- The rows that a word which issues now reads one a cycle from its issue on (Tables 9-5, 10-7). -/
def Core.rowLook (c : Core) : Instr → Option RowLook
  | .mbfly _ m _ _ => some { start := c.now, rows := 128, key := 65536 * m.toNat, clr := false, drev := none }
  | .mstt _ b v m => some {
      start := c.now, rows := tileRows v (c.rd 1 b), key := 65536 * m.toNat, clr := false, drev := if v = 1 then c.mtx.twc else none }
  | .mact r _ => some { start := c.now, rows := 128, key := 8 * 65536, clr := r == 1, drev := none }
  | _ => none
/-- An MTX word issues. -/
def Core.mtxIssue (c : Core) (i : Instr) (cost : Nat) : Core :=
  (match c.rowLook i with
    | some l => { c with mtx := { c.mtx with look := some l } }
    | none => c).issue 1 cost (wordDraw 1 i)
/-- The shape of the words that set state at the end of their issue cycle. -/
def mtxSet (i : Instr) (chk : Option MtxFault) (f : Core → MtxUnit → MtxUnit) (s : State) : Out :=
  mtxWord i none chk [] (ok (s.mapCore fun c => (c.modMtx (f c)).mtxIssue i 1)) s
/-- Writes of an MTX word to tile m perform up to a cycle. -/
def Core.tileUntil (c : Core) (m t : Nat) : Core :=
  c.modMtx fun u => { u with tready := u.tready.setIfInBounds m (max (t + 1) (u.tready.getD m 0)) }

/-! ### Nest state (R215 to R217, R220, R225, R226) -/

/-- Change a level of the nest. -/
def MtxUnit.modLevel (u : MtxUnit) (l : BitVec 3) (f : NestLevel → NestLevel) : MtxUnit :=
  { u with nest := u.nest.setIfInBounds l.toNat (f (u.nest.getD l.toNat {})) }
/-- MNEST (R215). -/
def execMnest (a b : GReg) (r : BitVec 1) (l : BitVec 3) (s : State) : Out :=
  mtxSet (.mnest a b r l) none (fun c u => u.modLevel l fun x =>
    { x with count := (c.rd 1 a).setWidth 32, astr := c.rd 1 b, drn := r == 1 }) s
/-- MNESTC (R216). -/
def execMnestc (a b : GReg) (l : BitVec 3) (s : State) : Out :=
  mtxSet (.mnestc a b l) none (fun c u => u.modLevel l fun x => { x with bstr := c.rd 1 a, cstr := c.rd 1 b }) s
/-- MBASE (R217). -/
def execMbase (d a b : GReg) (s : State) : Out :=
  mtxSet (.mbase d a b) none (fun c u => { u with cbase := c.rd 1 d, abase := c.rd 1 a, bbase := c.rd 1 b }) s
/-- MCLRA (R220). -/
def execMclra (s : State) : Out := mtxSet .mclra none (fun _ u => { u with acc := [] }) s
/-- MDROPK.KEY (R225). -/
def execMdropkKey (a b : GReg) (s : State) : Out :=
  mtxSet (.mdropkKey a b) none (fun c u =>
    let x := c.rd 1 a
    let y := c.rd 1 b
    { u with key := #v[x.setWidth 32, (x >>> 32).setWidth 32, y.setWidth 32, (y >>> 32).setWidth 32] }) s
/-- MDROPK.CTR (R225). -/
def execMdropkCtr (a b : GReg) (s : State) : Out :=
  mtxSet (.mdropkCtr a b) none (fun c u => { u with cb := c.rd 1 b ++ c.rd 1 a }) s
/-- MDROPK.THR (R225). -/
def execMdropkThr (a b : GReg) (s : State) : Out :=
  mtxSet (.mdropkThr a b) none (fun c u => { u with thr := (c.rd 1 a).setWidth 32, ks := (c.rd 1 b).setWidth 32 }) s
/-- MRES (R226): bases and pitches of zero set RCFG to none. -/
def execMres (a b : GReg) (f : BitVec 1) (s : State) : Out :=
  mtxSet (.mres a b f) none (fun c u =>
    { u with rcfg := if c.rd 1 a = 0 ∧ c.rd 1 b = 0 then none
      else some { base := c.rd 1 a, pitch := (c.rd 1 b).setWidth 16, bf := f == 1 } }) s

/-! ### The nest (R208, R209) -/

/-- The counters of pass k: digits of k, level 0 first. -/
def nestDigits : List NestLevel → Nat → List Nat
  | [], _ => []
  | l :: t, k => k % l.count.toNat :: nestDigits t (k / l.count.toNat)
/-- Sum of counters times strides. -/
def strideSum (ks : List Nat) (ds : List Dword) : Dword := (List.zipWith (fun k d => dw k * d) ks ds).foldl (· + ·) 0
/-- Passes of the nest. -/
def nestTotal (ls : List NestLevel) : Nat := (ls.map fun l => l.count.toNat).foldl (· * ·) 1
/-- The highest level with DRN among those that the pass with these counters completes. -/
def drainLevel : List NestLevel → List Nat → Nat → Option Nat → Option Nat
  | l :: ls, k :: ks, i, acc =>
    if k + 1 = l.count.toNat then drainLevel ls ks (i + 1) (if l.drn then some i else acc) else acc
  | _, _, _, acc => acc
/-- Addresses of A and B of a pass (R208). -/
def MtxUnit.passA (u : MtxUnit) (k : Nat) : Dword :=
  u.abase + strideSum (nestDigits u.nest.toList k) (u.nest.toList.map NestLevel.astr)
def MtxUnit.passB (u : MtxUnit) (k : Nat) : Dword :=
  u.bbase + strideSum (nestDigits u.nest.toList k) (u.nest.toList.map NestLevel.bstr)
/-- The address of the drain that follows a pass, if one does (R208). -/
def MtxUnit.drainAfter (u : MtxUnit) (k : Nat) : Option Dword :=
  let ls := u.nest.toList
  let ks := nestDigits ls k
  (drainLevel ls ks 0 none).map fun l => u.cbase + strideSum (ks.drop (l + 1)) ((ls.map NestLevel.cstr).drop (l + 1))

/-- The first level at fault by kind 1 (Table 9-6): a count of 0, or a product above 2^40. -/
def countFault : List NestLevel → Nat → Nat → Option Nat
  | [], _, _ => none
  | l :: t, i, p =>
    let q := p * l.count.toNat
    if q = 0 ∨ 2 ^ 40 < q then some i else countFault t (i + 1) q
/-- Lowest and highest offset of freely counting levels (R158). -/
def levelSpan (ss : List (Nat × Int)) : Int × Int :=
  ((ss.map fun p => min 0 (((p.1 : Int) - 1) * p.2)).sum, (ss.map fun p => max 0 (((p.1 : Int) - 1) * p.2)).sum)
/-- The levels that count, each with its count and a stride. -/
def counting (f : NestLevel → Dword) (ls : List NestLevel) : List (Nat × Int) :=
  (ls.filter fun l => decide (1 < l.count.toNat)).map fun l => (l.count.toNat, (f l).toInt)
/-- The span of levels that never stand at their last values together; none where they always do. -/
def partSpan (ss : List (Nat × Int)) : Option (Int × Int) :=
  match (ss.map fun p => (p.2.natAbs : Int)).min? with
  | none => none
  | some d =>
    let r := levelSpan ss
    some (if ss.all fun p => decide (p.2 < 0) then r.1 + d else r.1, if ss.all fun p => decide (0 < p.2) then r.2 - d else r.2)
/-- Spans of C - CBASE of the drains at the first level of a list, when the levels of the list follow it (R208). -/
def spanOf (ls : List NestLevel) : Option (Int × Int) :=
  match ls.findIdx? NestLevel.drn with
  | none => some (levelSpan (counting NestLevel.cstr ls))
  | some j =>
    (partSpan (counting NestLevel.cstr (ls.take (j + 1)))).map fun p =>
      let q := levelSpan (counting NestLevel.cstr (ls.drop (j + 1)))
      (p.1 + q.1, p.2 + q.2)
/-- The strides that C takes in the drains at a level followed by these. -/
def stridesOf (ls : List NestLevel) : List Dword :=
  let act (xs : List NestLevel) : List NestLevel := xs.filter fun l => decide (1 < l.count.toNat)
  match ls.findIdx? NestLevel.drn with
  | none => (act ls).map NestLevel.cstr
  | some j =>
    let mid := act (ls.take (j + 1))
    if mid.isEmpty then [] else
      ((if mid.length = 1 then mid.filter fun l => decide (2 < l.count.toNat) else mid) ++ act (ls.drop (j + 1))).map NestLevel.cstr
/-- Spans and strides of C over all drains of a nest. -/
def drainSpans : List NestLevel → List (Int × Int)
  | [] => []
  | l :: t => (if l.drn then (spanOf t).toList else []) ++ drainSpans t
def drainStrides : List NestLevel → List Dword
  | [] => []
  | l :: t => (if l.drn then stridesOf t else []) ++ drainStrides t

/-! ### Checks of drains (Table 9-7) -/

/-- Bytes of an output row, and its alignment (Table 9-4). -/
def outBytes (o cols : Nat) : Nat :=
  match o with
  | 1 => 2 * cols
  | 2 => 36 * ((cols + 31) / 32)
  | 3 => cols
  | _ => 4 * cols
def outAlign (o : Nat) : Nat :=
  match o with
  | 1 => 2
  | 3 => 1
  | _ => 4
/-- The drains of a word: kind, index, shape, first address, and the offsets and strides of the address. -/
structure DrainSet where
  kind  : Nat
  index : Nat
  shape : Dword
  base  : Dword
  spans : List (Int × Int)
  strs  : List Dword
  deriving DecidableEq, Repr
/-- Bytes from the first to the last of n rows. -/
def rowsExtent (n pitch row : Nat) : Nat := (n - 1) * pitch + row
/-- Kind 3: a ring that is undefined or whose slot is too small. -/
def DrainSet.ringFault (x : DrainSet) (c : Core) (fw : Dword) : Option MtxFault :=
  let h := c.hnd (BitVec.ofNat 4 x.index)
  if x.kind = 2 ∧ (!h.defined ∨ h.slot < rowsExtent (shRows x.shape) (shPitch x.shape) (outBytes (fwOfmt fw) (shCols x.shape))) then
    some (5, some (mtxEval 3 0))
  else none
/-- The residual address that goes with drain address `base`, when the format word asks for a residual. -/
def residBase (u : MtxUnit) (fw : Dword) (off : Dword) : Option (RCfg × Dword) :=
  if fwResid fw then u.rcfg.map fun r => (r, r.base + off) else none
/-- Bytes of a residual element. -/
def RCfg.elem (r : RCfg) : Nat := if r.bf then 2 else 4
/-- Step 4 for the drains of a word. -/
def DrainSet.alignFault (x : DrainSet) (res : Option (RCfg × Dword)) (fw : Dword) : Option MtxFault :=
  let al := outAlign (fwOfmt fw)
  let p := shPitch x.shape
  firstFault [
    (if x.kind = 0 then Machine.alignFault al x.base x.strs else none),
    (if x.kind = 0 ∧ p % al ≠ 0 then some (4, some (x.base + dw p)) else none),
    (if x.kind = 2 ∧ p % al ≠ 0 then some (4, none) else none),
    res.bind fun r => Machine.alignFault r.1.elem r.2 x.strs,
    res.bind fun r => if r.1.pitch.toNat % r.1.elem ≠ 0 then some (4, some (r.2 + dw r.1.pitch.toNat)) else none]
/-- Extent fault of rows over the spans of their first address. -/
def spanFault (size : Nat) (base : Dword) (spans : List (Int × Int)) (len : Nat) : Option MtxFault :=
  match (spans.map Prod.fst).min?, (spans.map Prod.snd).max? with
  | some lo, some hi => extentFault size (base.toNat + lo) ((hi - lo).toNat + len)
  | _, _ => none
/-- Step 5 for the drains of a word. -/
def DrainSet.extentFault (x : DrainSet) (c : Core) (res : Option (RCfg × Dword)) (fw : Dword) : Option MtxFault :=
  let n := shRows x.shape
  let cols := shCols x.shape
  firstFault [
    (if x.kind = 0 then spanFault c.size x.base x.spans (rowsExtent n (shPitch x.shape) (outBytes (fwOfmt fw) cols)) else none),
    res.bind fun r => spanFault c.size r.2 x.spans (rowsExtent n r.1.pitch.toNat (r.1.elem * cols))]

/-! ### The drain (R211 to R213) -/

/-- Row i of n rows from an address on, as ranges. -/
def rowRanges (a n pitch row : Nat) : List (Nat × Nat) := (List.range n).map fun i => (a + i * pitch, row)
/-- The ranges of scratch that one drain accesses: its output rows, and its residual rows at offset `off` (R211, R212). -/
def Core.drainUses (c : Core) (kind index : Nat) (shape addr off : Dword) : List (Nat × Nat) :=
  let h := c.hnd (BitVec.ofNat 4 index)
  let n := shRows shape
  let out := outBytes (fwOfmt c.mtx.cfw) (shCols shape)
  (if kind = 1 then [] else rowRanges (if kind = 2 then h.slotAt h.pidx else addr.toNat) n (shPitch shape) out) ++
    (match residBase c.mtx c.mtx.cfw off with
    | some (r, b) => rowRanges b.toNat n r.pitch.toNat (r.elem * shCols shape)
    | none => [])
/-- A drain starts in this cycle, under the mode and bounds that its word holds: its first residual row is read, the others become
due. -/
def Core.startDrain (c : Core) (auto_ : Bool) (cfg : Held) (pos kind index : Nat) (shape : Dword) (clr : Bool) (addr : Dword) (off : Dword) : Core :=
  let n := shRows shape
  let h := c.hnd (BitVec.ofNat 4 index)
  let job (rows : List (List Byte)) : DrainJob := {
    start := c.now, pos := pos, auto_ := auto_, kind := kind, index := index, shape := shape, clr := clr
    addr := if kind = 2 then h.slotAt h.pidx else addr.toNat
    rows := rows, cfg := cfg }
  match residBase c.mtx c.mtx.cfw off with
  | none => c.modMtx fun u => { u with job := some (job []) }
  | some (r, base) =>
    let z := r.elem * shCols shape
    let c1 := (List.range (n - 1)).foldl (fun d i =>
      d.laterAt 1 pos (i + 1) (.resid (base.toNat + (i + 1) * r.pitch.toNat) z)) c
    c1.modMtx fun u => { u with job := some (job [c.scratch.readBytes base.toNat z]) }
/-- Residual element (i, k) of a drain. -/
def DrainJob.residual (j : DrainJob) (bf : Bool) (i k : Nat) : Elem :=
  let row := j.rows.getD i []
  if bf then bf16ToF32 (BitVec.ofNat 16 (ofBytes ((row.drop (2 * k)).take 2)))
  else BitVec.ofNat 32 (ofBytes ((row.drop (4 * k)).take 4))
/-- Stages 1 and 2 of an element (R211). -/
def Core.drainValue (c : Core) (j : DrainJob) (i k : Nat) : Elem :=
  let u := c.mtx
  let x := j.cfg
  let v := Store.get 0 u.acc (128 * i + k)
  let v1 := if fwResid u.cfw then
      flush x.ftzo (fadd 0 v (flush x.ftzi (j.residual ((u.rcfg.map RCfg.bf).getD false) i k)))
    else v
  if fwDrop u.cfw then
    let q := (splice u.key (u.cb + BitVec.ofNat 128 (i * 65536 + k))).1
    if q.toNat < u.thr.toNat then 0 else flush x.ftzo (fmul 0 v1 u.ks)
  else v1
/-- The bound checks of the elements of a drain, row by row (stage 3). -/
def Core.drainChecks (c : Core) (j : DrainJob) : List BndRes :=
  let n := fwBsel c.mtx.cfw
  let b := j.cfg.bnd.getD n {}
  (List.range (shRows j.shape)).flatMap fun i =>
    (List.range (shCols j.shape)).map fun k => boundCheck b (c.drainValue j i k)
/-- The blocks of a row of values, 32 each. -/
def blockRow (f : List Elem → List Byte × Bool) (xs : List Elem) : Nat → List Byte × Bool
  | 0 => ([], false)
  | n + 1 =>
    let p := f (xs.take 32)
    let q := blockRow f (xs.drop 32) n
    (p.1 ++ q.1, p.2 || q.2)
/-- A BF16 result, flushed by FTZO when it applies (R182). -/
def bf16Out (ftzo : Bool) (x : Elem) : BitVec 16 := ((flush ftzo ((f32ToBf16 0 x) ++ 0#16)) >>> 16).setWidth 16
/-- The byte image of a row, and whether an element saturated (R212). -/
def convertRow (ftzo : Bool) (o : Nat) (xs : List Elem) : List Byte × Bool :=
  match o with
  | 0 => (elemBytes xs, false)
  | 1 => (xs.flatMap fun x => toBytes 2 (bf16Out ftzo x).toNat, false)
  | 2 => blockRow (fun ys => let b := quantBlock (ys ++ List.replicate (32 - ys.length) 0) 8; (b.bytes 8, b.sat)) xs ((xs.length + 31) / 32)
  | 3 => (xs.map fun x => (wrap32 (f32ToInt 0 8 x).1).setWidth 8, xs.any fun x => (f32ToInt 0 8 x).2)
  | _ => (xs.flatMap fun x => toBytes 4 (wrap32 (f32ToInt 0 32 x).1).toNat, xs.any fun x => (f32ToInt 0 32 x).2)
/-- The row writes of a drain become due, and the commit of its ring (R212, R213), each row in the cycle that R213 gives it. Where an earlier
drain still has to write a location, the write of the later one waits for it (`Core.writesBefore`). -/
def Core.drainWrites (c : Core) (j : DrainJob) (rows : List (List Byte)) : Core :=
  let n := shRows j.shape
  let c1 := rows.zipIdx.foldl (fun d p =>
    d.laterAt 1 j.pos (5 + p.2)
      (if j.kind = 1 then .tile j.index (512 * p.2) p.1 else .write false (j.addr + p.2 * shPitch j.shape) p.1)) c
  if j.kind = 1 then c1.tileUntil j.index (c.now + 4 + n)
  else if j.kind = 2 then c1.laterAt 1 j.pos (4 + n) (.atEnd (.commit 1 (BitVec.ofNat 4 j.index) 1))
  else c1
/-- An MGO goes on after the commit of its drain: to its next pass, or to its end. -/
def Prog.afterDrain (p : Prog) (now total : Nat) (bnd : Bool) : Prog :=
  { p with drain := none, bnd := p.bnd || bnd, at_ := now + 1, fin := if p.pass = total then some now else none }
/-- STATUS.BND of a word that retires (R193). -/
def Core.markBnd (c : Core) (b : Bool) : Core := { c with trap := { c.trap with bnd := c.trap.bnd || b } }
/-- A drain commits at the end of the cycle (R213), or finds an element out of range under a trap action: it takes the bound trap in
the next cycle. An MDRAIN retires with its commit, an MGO at its end, so its drains leave their flag with it (R193; DEDUCED, log entry
75). -/
def Core.commitDrain (c : Core) (j : DrainJob) : Core :=
  let rs := c.drainChecks j
  match firstTrap rs with
  | some (k, v) =>
    let at_ := 128 * (k / shCols j.shape) + k % shCols j.shape
    (c.modMtx fun u => { u with job := none, prog := u.prog.map fun p => { p with held := true } }).laterAt 1 j.pos 1
      (.fault 0x10 (boundEval v at_ (fwBsel c.mtx.cfw)))
  | none =>
    let vals := rs.map BndRes.val
    let imgs := (List.range (shRows j.shape)).map fun i =>
      convertRow j.cfg.ftzo (fwOfmt c.mtx.cfw) ((vals.drop (i * shCols j.shape)).take (shCols j.shape))
    let c1 := (c.drainWrites j (imgs.map Prod.fst)).modMtx fun u => { u with
      job := none
      acc := if j.clr then [] else u.acc
      cb := if fwDrop u.cfw then u.cb + BitVec.ofNat 128 (2 ^ 23) else u.cb
      sat := u.sat || imgs.any Prod.snd
      prog := if j.auto_ then u.prog.map fun p => p.afterDrain c.now (nestTotal u.nest.toList) (anyFlag rs) else u.prog }
    c1.markBnd (!j.auto_ && anyFlag rs)
/-- The drain whose last row is read in this cycle. -/
def Core.drainDue (c : Core) : Option DrainJob :=
  c.mtx.job.bind fun j => if j.start + shRows j.shape ≤ c.now + 1 then some j else none
/-- The running drain ends in a quiesce, its residual rows all read (R210, R327). -/
def Core.finishDrain (c : Core) : Core :=
  match c.mtx.job with
  | some j => c.commitDrain j
  | none => c
/-- Effects that end in the registers of MTX: a quiesce completes them, where a cancelled step's writes to scratch never perform
(R210, R235, R327). -/
def LocalEff.inMtx : LocalEff → Bool
  | .row _ _ _ => true
  | .tile _ _ _ => true
  | .trnRow _ => true
  | .resid _ _ => true
  | .mflags _ _ _ => true
  | .texp _ _ => true
  | _ => false
/-- What MTX does at the end of a cycle: the commit of a drain, and the end of an MGO at its cycle K (R209, R213). -/
def Core.mgoEnd (c : Core) : Core :=
  let c1 := match c.drainDue with
    | some j => c.commitDrain j
    | none => c
  match c1.mtx.prog with
  | none => c1
  | some p =>
    if (p.fin.map fun k => decide (k ≤ c.now)).getD false then
      let c2 := ((c1.modMtx fun u => { u with prog := none }).modEng 1 fun x => { x with freeAt := max x.freeAt (c.now + 1) }).markBnd p.bnd
      if p.rel then c2.atEnd (.release 1 p.h p.w) else c2
    else c1
/-! ### MGO (R206 to R210, R218) -/

/-- A block of a format code: its exponent and its mantissas (R179, R206). -/
def readBlock (m : Memory) (a code : Nat) : Nat × List Int :=
  let w := fmtW code
  if code = 8 then (134, (List.range 32).map fun k => signedNat 8 (m.readNat (a + k) 1))
  else
    let bits := m.readNat (a + 4) (4 * w)
    (m.readNat a 1, (List.range 32).map fun k => mantissa bits w k)
/-- The block sum of R206. -/
def blockSum (x y : List Int) : Int := (List.zipWith (· * ·) x y).sum
/-- The value t that a pass adds (R206). -/
def passTerm (fw : Dword) (ftzo : Bool) (x y : Nat × List Int) : Elem :=
  if x.1 = 255 ∨ y.1 = 255 then canonNaN
  else
    let p := blockSum x.2 y.2
    let wa : Int := fmtW (fwAfmt fw)
    let wb : Int := fmtW (fwBfmt fw)
    flush ftzo (roundRat 0 (decide (p < 0)) (p.natAbs * (256 + fwFa fw) * (256 + fwFb fw)) 1
      (fwEa fw + fwEb fw - 16 + ((x.1 : Int) - 127 - (wa - 1)) + ((y.1 : Int) - 127 - (wb - 1))))
/-- Cycles of a pass (Table 9-2). -/
def passLen (fw : Dword) : Nat := fmtW (fwAfmt fw) * ((fmtW (fwBfmt fw) + 7) / 8)
/-- The accumulators after a pass over a panel at A and a row at B, under FTZO. -/
def Core.accAfter (c : Core) (z : Bool) (a b : Nat) : Store Elem :=
  let fw := c.mtx.cfw
  let rows := (List.range 128).map fun r => readBlock c.scratch (a + r * fmtBytes (fwAfmt fw)) (fwAfmt fw)
  let cols := (List.range 128).map fun j => readBlock c.wstack (b + j * fmtBytes (fwBfmt fw)) (fwBfmt fw)
  Store.fill 0 c.mtx.acc 0 16384 fun e =>
    flush z (fadd 0 (Store.get 0 c.mtx.acc e) (passTerm fw z (rows.getD (e / 128) (0, [])) (cols.getD (e % 128) (0, []))))
/-- The next pass of an MGO runs: its reads, its accumulation, and the schedule of R209. -/
def Core.runPass (c : Core) (p : Prog) : Core :=
  let u := c.mtx
  let len := passLen u.cfw
  let dr := u.drainAfter p.pass
  let last := decide (p.pass + 1 = nestTotal u.nest.toList)
  c.modMtx fun u => { u with
    acc := c.accAfter p.cfg.ftzo (u.passA p.pass).toNat (u.passB p.pass).toNat
    passes := min (u.passes + 1) (2 ^ 32 - 1)
    prog := some { p with
      pass := p.pass + 1, drain := dr
      at_ := c.now + len + bit dr.isSome * 6
      fin := if last && dr.isNone then some (c.now + len + 5) else none } }
/-- An MGO stalls for a cycle (R209). -/
def Core.stallMgo (c : Core) (p : Prog) : Core :=
  c.modMtx fun u => { u with stalls := min (u.stalls + 1) 65535, prog := some { p with at_ := c.now + 1 } }
/-- The MGO whose pass or drain begins in this cycle. -/
def Core.progDue (c : Core) (drain : Bool) : Option Prog :=
  c.mtx.prog.bind fun p =>
    if !p.held ∧ p.fin.isNone ∧ p.drain.isSome = drain ∧ p.at_ ≤ c.now ∧ c.mtx.job.isNone then some p else none
/-- Whether the next pass must stall: its A or its B range lies above the watermark of a copy that issued before the MGO (R165, R209). -/
def Core.passStalls (c : Core) (p : Prog) : Bool :=
  let k := c.olderCopies p.start 1
  k.underCopy (c.mtx.passA p.pass).toNat (128 * fmtBytes (fwAfmt c.mtx.cfw)) ||
    k.underCopy (wstackBase + (c.mtx.passB p.pass).toNat) (128 * fmtBytes (fwBfmt c.mtx.cfw))
/-- MGO_PASS (R209): the next pass runs, or stalls. -/
def execMgoPass (s : State) : Out :=
  match s.core.progDue false with
  | none => ok s
  | some p => ok (s.mapCore fun c => if c.passStalls p then c.stallMgo p else c.runPass p)
/-- Whether the pending drain must stall: its ring has no free slot (R209), or a row of it lies above the watermark of a copy that issued
before the MGO (R165). -/
def Core.drainStalls (c : Core) (p : Prog) (d : DCfg) : Bool :=
  let a := p.drain.getD 0
  (d.kind == 2 && (c.hnd d.idx).free == 0) ||
    (c.drainUses d.kind.toNat d.idx.toNat d.shape a (a - c.mtx.cbase)).any fun r => (c.olderCopies p.start 1).underCopy r.1 r.2
/-- AUTO_DRAIN (R213): the pending drain starts, or stalls. -/
def execAutoDrain (s : State) : Out :=
  match s.core.progDue true, s.core.mtx.dcfg with
  | some p, some d => ok (s.mapCore fun c =>
    if c.drainStalls p d then c.stallMgo p
    else c.startDrain true p.cfg (c.engOf 1).lastPos d.kind.toNat d.idx.toNat d.shape d.clr (p.drain.getD 0) (p.drain.getD 0 - c.mtx.cbase))
  | _, _ => ok s
/-- The pass or drain that begins in the cycle in which an MGO resumes. -/
def resumeProg (s : State) : Out :=
  if (s.core.progDue true).isSome then execAutoDrain s else execMgoPass s

/-- The drains of an MGO. -/
def MtxUnit.drainSet (u : MtxUnit) : Option DrainSet :=
  if u.nest.toList.any NestLevel.drn then
    u.dcfg.map fun d => {
      kind := d.kind.toNat, index := d.idx.toNat, shape := d.shape, base := u.cbase
      spans := drainSpans u.nest.toList, strs := drainStrides u.nest.toList }
  else none
/-- Steps 3 to 5 of Table 9-7 for an MGO under a format word. -/
def Core.mgoFault (c : Core) (fw : Dword) : Option MtxFault :=
  let u := c.mtx
  let ls := u.nest.toList
  let ds := u.drainSet
  let res := residBase u fw 0
  let za := 128 * fmtBytes (fwAfmt fw)
  let zb := 128 * fmtBytes (fwBfmt fw)
  let sa := levelSpan (counting NestLevel.astr ls)
  let sb := levelSpan (counting NestLevel.bstr ls)
  match countFault ls 0 1 with
  | some l => some (5, some (mtxEval 1 l))
  | none =>
    if ls.any NestLevel.drn && u.dcfg.isNone then some (5, some (mtxEval 2 0))
    else firstFault [
      ds.bind fun x => x.ringFault c fw,
      alignFault 4 u.abase [], alignFault 4 u.bbase [],
      alignFault 4 u.abase (ls.map NestLevel.astr), alignFault 4 u.bbase (ls.map NestLevel.bstr),
      ds.bind fun x => x.alignFault res fw,
      spanFault c.size u.abase [sa] za,
      ds.bind fun x => x.extentFault c res fw,
      spanFault Config.weightStackBytes u.bbase [sb] zb]
/-- An MGO issues: it removes its format word and enters its first pass at I + 4 (R218, R209). -/
def Core.startMgo (c : Core) (fw : Dword) (h : HReg) (w : Nat) (aclr rel : Bool) : Core :=
  ((c.modMtx fun u => { u with
    cfw := fw
    acc := if aclr then [] else u.acc
    prog := some {
      pass := 0, drain := none, h := h, w := w, rel := rel, start := c.now, at_ := c.now + 4, fin := none, held := false, cfg := c.mtxHolds
      bnd := false } }).atEnd .fqPop).issue 1 1 0
/-- Whether a format word is invalid for an MGO (R187, R218). -/
def badFormat (u : MtxUnit) (fw : Dword) : Bool := !fwOk fw || (fwResid fw && u.rcfg.isNone)
/-- Steps 1 to 5 of Table 9-7, and the issue. -/
def mgoNew (i : Instr) (h : HReg) (w : Nat) (aclr rel : Bool) (s : State) : Out :=
  match s.core.mtx.fq with
  | [] => trapAt s 1 0x0C s.core.fqstWord
  | fw :: _ =>
    if badFormat s.core.mtx fw then trapAt s 1 0x0E fw
    else match s.core.mgoFault fw with
      | some f => mtxTrap s f
      | none => powered s 1 i (ok (s.mapCore fun c => c.startMgo fw h w aclr rel))
/-- MGO (R218); with IPR set, the MGO in progress goes on (R210), under the mode and bounds that MTX holds as it resumes (R180; DEDUCED,
log entry 75). -/
def execMgo (h : HReg) (w : BitVec 6) (c r : BitVec 1) (s : State) : Out :=
  let i := Instr.mgo h w c r
  gate i s (
    match s.core.mtx.prog with
    | some p =>
      if p.held then powered s 1 i (resumeProg (s.mapCore fun c =>
        (c.modMtx fun u => { u with prog := some { p with held := false, start := c.now, at_ := c.now, cfg := c.mtxHolds } }).issue 1 1 0))
      else waitAt s 1 0x0C
    | none =>
      let run := mgoNew i h w.toNat (c == 1) (r == 1) s
      if w = 0 ∧ r = 0 then run else withHandle s 1 h w.toNat false run)

/-! ### MDRAIN (R219) -/

/-- MDRAIN.AUTO (R219): DCFG is recorded. -/
def execMdrainAuto (a : GReg) (c : BitVec 1) (i : BitVec 4) (k : BitVec 2) (s : State) : Out :=
  mtxSet (.mdrainAuto a c i k) none (fun x u => { u with dcfg := some { kind := k, idx := i, shape := x.rd 1 a, clr := c == 1 } }) s
/-- The one drain of an MDRAIN. -/
def mdrainSet (c : Core) (d a : GReg) (i : BitVec 4) (k : BitVec 2) : DrainSet :=
  { kind := k.toNat, index := i.toNat, shape := c.rd 1 a, base := c.rd 1 d, spans := [(0, 0)], strs := [] }
/-- The checks of an MDRAIN. -/
def Core.mdrainFault (c : Core) (x : DrainSet) : Option MtxFault :=
  let fw := c.mtx.cfw
  let res := residBase c.mtx fw 0
  if fwResid fw && c.mtx.rcfg.isNone then some (0x0E, some fw)
  else firstFault [x.ringFault c fw, x.alignFault res fw, x.extentFault c res fw]
/-- MDRAIN (R219). -/
def execMdrain (d a : GReg) (c : BitVec 1) (i : BitVec 4) (k : BitVec 2) (s : State) : Out :=
  let w := Instr.mdrain d a c i k
  let x := mdrainSet s.core d a i k
  mtxWord w none (s.core.mdrainFault x) (s.core.drainUses x.kind x.index x.shape x.base 0)
    (if k = 2 ∧ (s.core.hnd i).free = 0 then waitAt s 1 1
     else ok (s.mapCore fun y =>
       (y.startDrain false y.mtxHolds (y.engOf 1).pos x.kind x.index x.shape (c == 1) x.base 0).mtxIssue w (shRows x.shape))) s

/-! ### Digit reversal and tiles (R221, R223, R224, R230) -/

/-- rev of a position by its radices (R230). -/
def revAt : List Nat → Nat → Nat
  | [], _ => 0
  | a :: t, p => p % a * t.foldl (· * ·) 1 + revAt t (p / a)
/-- The element that the permutation puts at element e. -/
def Twc.perm (t : Twc) (inv : Bool) (e : Nat) : Nat :=
  if e < t.n * t.b then e / t.n * t.n + revAt (if inv then t.radix.reverse else t.radix) (e % t.n) else e
/-- Kind 4 where no transform is configured (Table 10-8). -/
def noTwc (u : MtxUnit) : Option MtxFault := if u.twc.isNone then some (5, some (mtxEval 4 0)) else none
/-- The permutation of a .DREV form, or none. -/
def MtxUnit.permOf (u : MtxUnit) (v : BitVec 1) (e : Nat) : Nat :=
  if v = 1 then (u.twc.map fun t => t.perm false e).getD e else e
/-- The checks of MLDT and MSTT. -/
def Core.tileFault (c : Core) (v : BitVec 1) (a sh : Dword) : Option MtxFault :=
  firstFault [
    (if v = 1 then noTwc c.mtx else none),
    alignFault 4 a [dw (shPitch sh)],
    extentFault c.size a.toNat (rowsExtent (tileRows v sh) (shPitch sh) 512)]
/-- MLDT (R221). -/
def execMldt (a b : GReg) (v : BitVec 1) (m : BitVec 3) (s : State) : Out :=
  let i := Instr.mldt a b v m
  let x := s.core.rd 1 a
  let sh := s.core.rd 1 b
  let n := tileRows v sh
  mtxWord i none (s.core.tileFault v x sh) (rowRanges x.toNat n (shPitch sh) 512) (ok (s.mapCore fun c =>
    let key (e : Nat) : Nat := x.toNat + e / 128 * shPitch sh + 4 * (e % 128)
    let c1 := (List.range n).foldl (fun d r =>
      d.later 1 (2 + r) (.row ((List.range 128).map fun k => key (c.mtx.permOf v (128 * r + k))) m.toNat (512 * r))) c
    (c1.tileUntil m.toNat (c.now + 2 + n)).mtxIssue i n)) s
/-- MSTT (R221). -/
def execMstt (a b : GReg) (v : BitVec 1) (m : BitVec 3) (s : State) : Out :=
  let i := Instr.mstt a b v m
  let x := s.core.rd 1 a
  let sh := s.core.rd 1 b
  let n := tileRows v sh
  mtxWord i (some m.toNat) (s.core.tileFault v x sh) (rowRanges x.toNat n (shPitch sh) 512) (ok (s.mapCore fun c =>
    let c1 := (List.range n).foldl (fun d r =>
      d.later 1 (2 + r) (.write false (x.toNat + r * shPitch sh)
        (elemBytes ((List.range 128).map fun k => c.mtx.tileAt m.toNat (c.mtx.permOf v (128 * r + k)))))) c
    c1.mtxIssue i n)) s
/-- The checks of an MTRN (R222). -/
def Core.trnFault (c : Core) (d a sh : Dword) (conv : Nat) : Option MtxFault :=
  let n := shRows sh
  firstFault [
    alignFault (trnSize conv) a [dw (shPitch sh)], alignFault 4 d [],
    extentFault c.size a.toNat (rowsExtent n (shPitch sh) (trnSize conv * shCols sh)),
    extentFault c.size d.toNat ((n + 31) / 32 * 128 * trnBlock conv)]
/-- MTRN (R222). -/
def execMtrn (d a b : GReg) (x : BitVec 1) (k : BitVec 2) (m : BitVec 3) (s : State) : Out :=
  let i := Instr.mtrn d a b x k m
  let sh := s.core.rd 1 b
  let n := shRows sh
  mtxWord i none (s.core.trnFault (s.core.rd 1 d) (s.core.rd 1 a) sh k.toNat)
    (((s.core.rd 1 d).toNat, (n + 31) / 32 * 128 * trnBlock k.toNat) ::
      rowRanges (s.core.rd 1 a).toNat n (shPitch sh) (trnSize k.toNat * shCols sh)) (ok (s.mapCore fun c =>
    let job : TrnJob := {
      start := c.now, pos := (c.engOf 1).pos, m := m.toNat, dst := (c.rd 1 d).toNat, src := (c.rd 1 a).toNat
      shape := sh, conv := k.toNat, amx := x == 1, rows := [], cfg := c.mtxHolds }
    let c1 := (List.range n).foldl (fun y r => y.later 1 (2 + r) (.trnRow r)) c
    ((c1.tileUntil m.toNat (c.now + n + 1)).modMtx fun u => { u with trn := some job, retireAt := c.now + n + 136 }).mtxIssue i (n + 131))) s
/-- MACT (R223). -/
def execMact (r : BitVec 1) (m : BitVec 3) (s : State) : Out :=
  let i := Instr.mact r m
  mtxWord i none none [] (ok (s.mapCore fun c =>
    let c1 := (List.range 128).foldl (fun d k =>
      d.later 1 (1 + k) (.tile m.toNat (512 * k) (elemBytes (Store.getList 0 c.mtx.acc (128 * k) 128)))) c
    ((c1.tileUntil m.toNat (c.now + 128)).modMtx fun u => { u with acc := if r = 1 then [] else u.acc }).mtxIssue i 128)) s
/-- The record of Table 9-8, as a number. -/
def MtxUnit.record (u : MtxUnit) : Nat :=
  (u.passes + bit u.mism * 2 ^ 32 + u.mismCnt * 2 ^ 40)
  + 2 ^ 64 * (u.mpass % 2 ^ 32 + u.mcol % 128 * 2 ^ 32 + u.stalls * 2 ^ 48)
  + 2 ^ 128 * (u.amax.toNat + bit u.nan * 2 ^ 32 + bit u.sat * 2 ^ 33)
  + 2 ^ 192 * u.cfw.toNat
/-- MCHKR (R224). -/
def execMchkr (d : GReg) (r : BitVec 1) (s : State) : Out :=
  let i := Instr.mchkr d r
  let a := s.core.rd 1 d
  gate i s (
    if s.core.now < s.core.mtx.retireAt then waitAt s 1 0x0C
    else mtxWord i none (firstFault [alignFault 32 a [], extentFault s.core.size a.toNat 32]) [(a.toNat, 32)] (ok (s.mapCore fun c =>
      let c1 := c.later 1 2 (.write false a.toNat (toBytes 32 c.mtx.record))
      (if r = 1 then c1.modMtx fun u => { u with
        passes := 0, mism := false, mismCnt := 0, mpass := 0, mcol := 0, stalls := 0, amax := 0, nan := false, sat := false }
       else c1).mtxIssue i 1)) s)

end Sys2Proof.Machine
end

