-- ==== Sys2Proof/Machine/Transform.lean ====
section
/-! DEFINITION. Transform.lean: the transform words (R227 to R240). -/
namespace Sys2Proof.Machine

/-- Radix of a code (Table 10-4): 0 for none and for invalid codes. -/
def radixOf (code : Nat) : Nat := [0, 2, 3, 4, 5, 8].getD code 0
/-- The code of a stage in a radix list value (Table 10-2). -/
def stageCode (a : Dword) (t : Nat) : Nat := field a (3 * t + 6) (3 * t + 4)
/-- The configuration of an MTWC, if its values are within the limits of R237. -/
def twcOf (a b : Dword) (inv : Bool) : Option Twc :=
  let s := field a 3 0
  let rs := (List.range s).map fun t => radixOf (stageCode a t)
  let n := rs.foldl (· * ·) 1
  let k := field b 14 0
  if s = 0 ∨ 14 < s ∨ rs.contains 0 ∨ ((List.range 14).any fun t => decide (s ≤ t) && stageCode a t != 0) ∨
      field a 63 46 ≠ 0 ∨ field b 63 15 ≠ 0 ∨ k = 0 ∨ 16384 < n ∨ 16384 < n * k then none
  else some { radix := rs, n := n, b := k, inv := inv }
/-- MTWC (R237). -/
def execMtwc (a b : GReg) (v : BitVec 1) (s : State) : Out :=
  let t := twcOf (s.core.rd 1 a) (s.core.rd 1 b) (v == 1)
  mtxSet (.mtwc a b v) (if t.isNone then some (5, some (mtxEval 5 0)) else none) (fun _ u => { u with twc := t }) s

/-! ### The butterfly stage (R231 to R233) -/

/-- twiddle(m) in Q2.22 (R232). -/
def Twc.twiddle (t : Twc) (m : Nat) : Int × Int :=
  (cosQ22 m t.n, if t.inv then sinQ22 m t.n else -sinQ22 m t.n)
/-- The parts of a CQ16 element (R227). -/
def reOf (x : Elem) : Int := signedNat 16 x.toNat
def imOf (x : Elem) : Int := signedNat 16 (x.toNat / 65536)
/-- SR and SI of output o of a stage (R231). -/
def Twc.sums (t : Twc) (stage : Nat) (x : Nat → Elem) (o : Nat) : Int × Int :=
  let l := (t.radix.take stage).foldl (· * ·) 1
  let a := t.radix.getD stage 1
  let g := l * a
  let i := o % g
  let base := o - i + i % l
  let terms := (List.range a).map fun q =>
    let e := x (base + q * l)
    let w := t.twiddle (q * i * (t.n / g) % t.n)
    (reOf e * w.1 - imOf e * w.2, reOf e * w.2 + imOf e * w.1)
  ((terms.map Prod.fst).sum, (terms.map Prod.snd).sum)
/-- round_ne of a sum divided by 2^(22+s). -/
def scaleQ (s : Nat) (x : Int) : Int := roundInt 0 (decide (x < 0)) x.natAbs (2 ^ (22 + s))
/-- Whether a value fits in 16 bits. -/
def fits16 (y : Int) : Bool := decide (-32768 ≤ y) && decide (y ≤ 32767)
/-- Whether every output fits at shift s (R233). -/
def fitsAt (ys : List (Int × Int)) (s : Nat) : Bool := ys.all fun y => fits16 (scaleQ s y.1) && fits16 (scaleQ s y.2)
/-- The shift of a stage (R233). -/
def shiftOf (sh : Nat) (ys : List (Int × Int)) : Nat :=
  if sh ≤ 3 then sh else ((List.range 4).find? (fitsAt ys)).getD 3
/-- Pack two parts into an element. -/
def packCq (yr yi : Int) : Elem :=
  BitVec.ofNat 32 (lowBits 16 (clampInt (-32768) 32767 yr) + 65536 * lowBits 16 (clampInt (-32768) 32767 yi))
/-- The rows of a tile as effects that are due from a cycle on, one row a cycle. -/
def Core.tileRowsLater (c : Core) (m first : Nat) (f : Nat → Elem) : Core :=
  ((List.range 128).foldl (fun d r =>
    d.later 1 (first + r) (.tile m (512 * r) (elemBytes ((List.range 128).map fun k => f (128 * r + k))))) c).tileUntil m (c.now + first + 127)
/-- MBFLY issues (R231 to R234): its rows, its exponent and its flag become due, or its fault. -/
def Core.bfly (c : Core) (t : Twc) (md ms stage sh : Nat) : Core :=
  let u := c.mtx
  let no := t.n * t.b
  let ys := (List.range no).map fun o => t.sums stage (u.tileAt ms) o
  let s := shiftOf sh ys
  let x := signedNat 8 (u.texp.getD ms 0).toNat + (s : Int)
  if 127 < x then c.later 1 136 (.fault 5 (mtxEval 6 0))
  else
    let c1 := c.tileRowsLater md 138 fun o =>
      if o < no then
        let y := ys.getD o (0, 0)
        packCq (scaleQ s y.1) (scaleQ s y.2)
      else u.tileAt ms o
    (c1.later 1 265 (.texp md (BitVec.ofInt 8 x))).later 1 265 (.mflags 0 false (!fitsAt ys s))
/-- The checks of MBFLY at issue, in order. -/
def bflyFault (u : MtxUnit) (stage : Nat) : Option MtxFault :=
  match u.twc with
  | none => some (5, some (mtxEval 4 0))
  | some t => if t.radix.length ≤ stage then some (5, some (mtxEval 7 0)) else none
/-- MBFLY (R238). -/
def execMbfly (d m : BitVec 3) (t : BitVec 4) (h : BitVec 3) (s : State) : Out :=
  let i := Instr.mbfly d m t h
  mtxWord i (some m.toNat) (bflyFault s.core.mtx t.toNat) [] (ok (s.mapCore fun c =>
    match c.mtx.twc with
    | none => c
    | some w => (c.bfly w d.toNat m.toNat t.toNat h.toNat).mtxIssue i 266)) s

/-! ### MDREV, MTEXP (R239, R240) -/

/-- MDREV (R239). -/
def execMdrev (d m : BitVec 3) (v : BitVec 1) (s : State) : Out :=
  let i := Instr.mdrev d m v
  mtxWord i (some m.toNat) (noTwc s.core.mtx) [] (ok (s.mapCore fun c =>
    match c.mtx.twc with
    | none => c
    | some t =>
      let u := c.mtx
      ((c.tileRowsLater d.toNat 2 fun e => u.tileAt m.toNat (t.perm (v == 1) e)).later 1 129
        (.texp d.toNat (u.texp.getD m.toNat 0))).mtxIssue i 130)) s
/-- MTEXP.SET (R240). -/
def execMtexpSet (a : GReg) (m : BitVec 3) (s : State) : Out :=
  mtxSet (.mtexpSet a m) none (fun c u => { u with texp := u.texp.setIfInBounds m.toNat ((c.rd 1 a).setWidth 8) }) s
/-- T(m) + sext(a[7:0]). -/
def texpSum (c : Core) (a : GReg) (m : BitVec 3) : Int :=
  signedNat 8 (c.mtx.texp.getD m.toNat 0).toNat + signedNat 8 (c.rd 1 a).toNat
/-- MTEXP.ADD (R240). -/
def execMtexpAdd (a : GReg) (m : BitVec 3) (s : State) : Out :=
  let t := texpSum s.core a m
  mtxSet (.mtexpAdd a m) (if t < -128 ∨ 127 < t then some (5, some (mtxEval 6 0)) else none)
    (fun _ u => { u with texp := u.texp.setIfInBounds m.toNat (BitVec.ofInt 8 t) }) s
/-- MTEXP.ST (R240). -/
def execMtexpSt (a : GReg) (s : State) : Out :=
  let i := Instr.mtexpSt a
  let x := s.core.rd 1 a
  mtxWord i none (firstFault [alignFault 8 x [], extentFault s.core.size x.toNat 8]) [(x.toNat, 8)] (ok (s.mapCore fun c =>
    (c.later 1 2 (.write false x.toNat c.mtx.texp.toList)).mtxIssue i 1)) s

end Sys2Proof.Machine
end

