-- ==== Sys2Proof/Machine/Grouped.lean ====
section
/-! DEFINITION. Grouped.lean: the grouped-value weight words (R241 to R253). -/
namespace Sys2Proof.Machine

/-- The configuration of an MGVCFG, if its value is within the limits of Table 11-5. -/
def gvcOf (a b : Dword) : Option Gvc :=
  let n := field a 12 0
  let l := field a 24 20
  if n = 0 ∨ 4096 < n ∨ l = 0 ∨ 16 < l ∨ field a 15 13 ≠ 0 ∨ field a 19 17 ≠ 0 ∨ field a 63 25 ≠ 0 then none
  else some { len := n, wide := a.getLsbD 16, lim := l, abase := b }
/-- MGVCFG (R250). -/
def execMgvcfg (a b : GReg) (s : State) : Out :=
  let g := gvcOf (s.core.rd 1 a) (s.core.rd 1 b)
  mtxSet (.mgvcfg a b) (if g.isNone then some (5, some (mtxEval 9 0)) else none) (fun _ u => { u with gvc := g }) s

/-! ### Parsing (R241 to R245) -/

/-- Kinds of token (Table 11-1). -/
inductive GvTok where
  | pos (p : Nat)
  | val (v : Int)
  | boundary
  | eor
  | unknown
  deriving DecidableEq, Repr
/-- The kind of a token (Table 11-1). -/
def gvTok (x : Nat) : GvTok :=
  if x < 0x1000 then .pos x
  else if 0x4000 ≤ x ∧ x < 0x4100 then .val (signedNat 8 x)
  else if x = 0x8000 then .boundary
  else if x = 0xC000 then .eor
  else .unknown
/-- The kind of malformation that a token makes (Table 11-2), if any. -/
def RowState.bad (r : RowState) (g : Gvc) (t : GvTok) : Option Nat :=
  match t with
  | .unknown => some 10
  | .pos p =>
    match r.group with
    | none => some 1
    | some (_, last) =>
      if g.len ≤ p then some 7
      else if (last.map fun q => decide (p ≤ q)).getD false then some 5
      else if r.seen.contains p then some 6 else none
  | .boundary =>
    match r.group with
    | none => some 3
    | some (_, none) => some 2
    | some _ => none
  | .val _ => if r.group.isSome then some 4 else if g.lim ≤ r.groups then some 8 else none
  | .eor => if r.group.isSome then some 9 else none
/-- The row state after a token that is not malformed. -/
def RowState.next (r : RowState) (t : GvTok) : RowState :=
  match t with
  | .pos p => { r with group := r.group.map fun x => (x.1, some p), seen := p :: r.seen }
  | .val v => { r with group := some (v, none), groups := r.groups + 1 }
  | .boundary => { r with group := none }
  | .eor => {}
  | .unknown => r
/-- EVAL of a malformed record (Table 11-3). -/
def gvEval (t row kind tok : Nat) : Dword := dw (t % 2 ^ 24 + row * 2 ^ 24 + kind * 2 ^ 32 + tok * 2 ^ 48)
/-- Token t of a stream (R243); none beyond its slots. -/
def Core.gvRead (c : Core) (p : Gvp) (t : Nat) : Option Nat :=
  if 2 * t < p.slot * p.srcs.length then some (c.scratch.readNat (p.srcs.getD (2 * t / p.slot) 0 + 2 * t % p.slot) 2) else none
/-- What the parsing of a chunk has found: the progress, the steps of its activations, and the detail of a malformed
token. -/
abbrev ChunkRes := Gvp × List GvStep × Option Dword
/-- The next token of the chunk is parsed, unless the rows are complete or a token was malformed. -/
def Core.gvToken (c : Core) (g : Gvc) (x : ChunkRes) : ChunkRes :=
  let p := x.1
  if x.2.2.isSome || decide (p.rows ≤ p.row) then x
  else match c.gvRead p p.tok with
    | none => (p, x.2.1, some (gvEval p.tok p.row 11 0))
    | some n =>
      match p.st.bad g (gvTok n) with
      | some k => (p, x.2.1, some (gvEval p.tok p.row k n))
      | none =>
        let st := p.st.next (gvTok n)
        match gvTok n with
        | .pos q =>
          let v := (p.st.group.map Prod.fst).getD 0
          ({ p with tok := p.tok + 1, st := st }, x.2.1 ++ [.add v (g.abase.toNat + (if g.wide then 2 else 1) * q)], none)
        | .eor => ({ p with tok := p.tok + 1, st := st, row := p.row + 1, start := p.tok + 1 }, x.2.1 ++ [.endRow], none)
        | _ => ({ p with tok := p.tok + 1, st := st }, x.2.1, none)
/-- Parse up to n tokens. -/
def Core.gvTokens (c : Core) (g : Gvc) : Nat → ChunkRes → ChunkRes
  | 0, x => x
  | n + 1, x => c.gvTokens g n (c.gvToken g x)
/-- The MGVR whose next chunk is read in this cycle. -/
def Core.chunkDue (c : Core) : Option (Gvp × Gvc) :=
  match c.mtx.gvp, c.mtx.gvc with
  | some p, some g => if !p.held ∧ p.fin.isNone ∧ !p.bad ∧ p.at_ ≤ c.now then some (p, g) else none
  | _, _ => none
/-- A chunk is read and parsed (R248): its activations are read in the next cycle, and a malformed token faults then. -/
def Core.runChunk (c : Core) (p : Gvp) (g : Gvc) : Core :=
  let pos := (c.engOf 1).lastPos
  let r := c.gvTokens g (4 - p.tok % 4) (p, [], none)
  let q := r.1
  let c1 := c.modMtx fun u => { u with gvp := some { q with
    at_ := c.now + 1, bad := r.2.2.isSome, fin := if q.rows ≤ q.row then some (c.now + 4) else none } }
  let c2 := if r.2.1.isEmpty then c1 else c1.laterAt 1 pos 1 (.acts r.2.1)
  match r.2.2 with
  | some ev => c2.laterAt 1 pos 1 (.fault 0x0F ev)
  | none => c2
/-- MGVR_CHUNK (R248). -/
def execMgvrChunk (s : State) : Out :=
  match s.core.chunkDue with
  | some (p, g) => ok (s.mapCore fun c => c.runChunk p g)
  | none => ok s
/-- The end of an MGVR at its cycle K (R248, R251). -/
def Core.gvEnd (c : Core) : Core :=
  match c.mtx.gvp with
  | none => c
  | some p =>
    if (p.fin.map fun k => decide (k ≤ c.now)).getD false then
      let c1 := (c.modMtx fun u => { u with gvp := none, sat := u.sat || p.sat }).modEng 1 fun x => { x with freeAt := max x.freeAt (c.now + 1) }
      if p.rel then c1.atEnd (.release 1 p.h p.w) else c1
    else c

/-! ### MGVR (R251) -/

/-- Steps 5 and 6 of Table 11-6. -/
def gvFault (c : Core) (g : Gvc) (o : Dword) (rows : Nat) : Option MtxFault :=
  let z := if g.wide then 2 else 1
  firstFault [
    alignFault z g.abase [], alignFault 4 o [],
    extentFault c.size g.abase.toNat (z * g.len), extentFault c.size o.toNat (4 * rows)]
/-- Whether a format word is invalid for an MGVR (Table 11-6). -/
def badGvFormat (fw : Dword) : Bool := !fwOk fw || (fwOfmt fw != 0 && fwOfmt fw != 4) || fwResid fw || fwDrop fw
/-- An MGVR issues. -/
def Core.startGv (c : Core) (fw : Dword) (h : HReg) (w : Nat) (o : Dword) (rows : Nat) (rel : Bool) : Core :=
  let x := c.hnd h
  let p : Gvp := {
    h := h, w := w, out := o.toNat, rows := rows, rel := rel
    srcs := (List.range w).map fun i => x.slotAt (x.cidx + i)
    slot := x.slot, tok := 0, row := 0, start := 0, st := {}, at_ := c.now + 2
    total := 0, orow := 0, sat := false, fin := none, bad := false, held := false, cfg := c.mtxHolds }
  ((c.modMtx fun u => { u with cfw := fw, gvp := some p }).atEnd .fqPop).issue 1 1 0
/-- The ranges of scratch that an MGVR accesses: the slots of its stream, the activations, the output rows. -/
def gvUses (g : Gvc) (srcs : List Nat) (slot out rows : Nat) : List (Nat × Nat) :=
  (g.abase.toNat, (if g.wide then 2 else 1) * g.len) :: (out, 4 * rows) :: srcs.map fun a => (a, slot)
/-- The checks of Table 11-6 from step 2 on, and the issue. The offsets of R248 leave an MGVR no place to wait after its issue, so it
waits for copies there (R165; DEDUCED, log entry 75). -/
def gvNew (i : Instr) (h : HReg) (w : Nat) (o : Dword) (rows : Nat) (rel : Bool) (s : State) : Out :=
  match s.core.mtx.gvc, s.core.mtx.fq with
  | none, _ => trapAt s 1 5 (mtxEval 8 0)
  | some _, [] => trapAt s 1 0x0C s.core.fqstWord
  | some g, fw :: _ =>
    if badGvFormat fw then trapAt s 1 0x0E fw
    else match gvFault s.core g o rows with
      | some f => mtxTrap s f
      | none =>
        let x := s.core.hnd h
        clearAll s 1 (gvUses g ((List.range w).map fun i => x.slotAt (x.cidx + i)) x.slot o.toNat rows)
          (powered s 1 i (ok (s.mapCore fun c => c.startGv fw h w o rows rel)))
/-- MGVR (R251); with GVP set, the MGVR in progress goes on (R249). -/
def execMgvr (h : HReg) (w : BitVec 6) (a : GReg) (n : BitVec 7) (r : BitVec 1) (s : State) : Out :=
  let i := Instr.mgvr h w a n r
  gate i s (unmarked s 1 [a] (
    match s.core.mtx.gvp with
    | some p =>
      if p.held then clearAll s 1 ((s.core.mtx.gvc.map fun g => gvUses g p.srcs p.slot p.out p.rows).getD [])
        (powered s 1 i (ok (s.mapCore fun c =>
          (c.modMtx fun u => { u with gvp := some { p with held := false, at_ := c.now + 2, cfg := c.mtxHolds } }).issue 1 1 0)))
      else waitAt s 1 0x0C
    | none => withHandle s 1 h w.toNat false (gvNew i h w.toNat (s.core.rd 1 a) (n.toNat + 1) (r == 1) s)))

/-! ### VGRPC (R252, R253) -/

/-- The INT8 weights of row i. -/
def VecUnit.weights (u : VecUnit) (a : VReg) (i : Nat) : List Int :=
  (List.range u.cols).map fun j => signedNat 8 (u.el a (i * u.cols + j)).toNat
/-- The nonzero weights by falling magnitude, the positive of a pair first. -/
def byMagnitude : List Int := -128 :: (List.range 127).flatMap fun (k : Nat) => [127 - (k : Int), (k : Int) - 127]
/-- The values kept of a row: the first l of D (R252). -/
def keptValues (xs : List Int) (l : Nat) : List Int :=
  ((List.range 32).flatMap fun k => byMagnitude.filter fun v => decide (xs.count v = 32 - k)).take l
/-- Whether candidate c is nearer to x than d: by distance, magnitude, then the positive one. -/
def nearer (x c d : Int) : Bool :=
  let k (y : Int) : Nat := ((x - y).natAbs * 256 + y.natAbs) * 2 + bit (decide (y < 0))
  decide (k c < k d)
/-- A weight after remapping (R252). -/
def remapWeight (kept : List Int) (x : Int) : Int :=
  if x = 0 ∨ kept.contains x then x else kept.foldl (fun b c => if nearer x c b then c else b) 0
/-- The record of a row (R252). -/
def gvRecord (xs : List Int) (l : Nat) : List Nat :=
  let kept := keptValues xs l
  let ys := xs.map (remapWeight kept)
  (kept.flatMap fun v =>
    [0x4000 + lowBits 8 v] ++ ((ys.zipIdx.filter fun p => p.1 == v).map Prod.snd) ++ [0x8000]) ++ [0xC000]
/-- The records of the rows of a register. -/
def VecUnit.records (u : VecUnit) (a : VReg) (l : Nat) : List (List Nat) :=
  (List.range u.rows).map fun i => gvRecord (u.weights a i) l
/-- VGRPC (R252, R253). -/
def execVgrpc (d a b c : VReg) (l : BitVec 4) (s : State) : Out :=
  vecWord (.vgrpc d a b c l) [d, a, b, c] false
    (fun x => { cost := 2 * x.vec.rows, done := 2 * x.vec.rows + 10, dsts := [d, b, c] })
    (fun _ u =>
      let rs := u.records a (l.toNat + 1)
      let img := rs.flatten.flatMap fun t => toBytes 2 t
      let words := elemsOf (img ++ List.replicate (8192 - img.length) 0) 2048
      let ends := (List.range u.rows).map fun i => BitVec.ofNat 32 ((rs.take (i + 1)).flatten.length)
      ((u.putList d (words.take 1024)).putList b (words.drop 1024)).putList c ends) s

end Sys2Proof.Machine
end

