-- ==== Sys2Proof/Machine/Errors.lean ====
section
/-! DEFINITION. Errors.lean: uncorrectable errors, poison and the patrol scrub, throttling, energy,
droop and die budgets (R207, R292, R325, R333, R334, R349 to R353). -/
namespace Sys2Proof.Machine

/-! ### Uncorrectable errors (R207, R292, R325) -/

/-- Whether the running step of a core can be restarted (R325, R327). -/
def Core.canRestart (c : Core) : Bool :=
  match c.step with
  | some (_, rs, n) => rs && decide (n < 3)
  | none => false
/-- A mismatch at a pass and a column sets the check status of MTX (R207). -/
def Core.mismatch (c : Core) (pass col : Nat) : Core :=
  c.modMtx fun u => { u with mism := true, mismCnt := min (u.mismCnt + 1) 255, mpass := pass, mcol := col % 128 }
/-- A core consumes an uncorrectable error: the error is logged at the site of the memory or link, and the core's running step is
cancelled (R325, R352). One that no core consumes is logged alone. -/
def State.consume (s : State) (k : CoreId) (e : ErrInfo) : State :=
  let rec_ (x : CtxId) (n : Byte) : LogRec := {
    time := s.clock, kind := e.kind, site := e.site.toNat, unit := e.unit, ctx := x, action := n, lost := 0, addr := e.addr, synd := e.synd }
  match s.coreAt k with
  | none => s.logAt e.site.toNat (rec_ 0 0)
  | some c =>
    let r := rec_ c.ctx (if c.canRestart then 2 else 3)
    let note (c : Core) : Core := if e.kind = 5 then c.mismatch ((c.mtx.prog.map fun p => p.pass - 1).getD 0) e.synd.toNat else c
    ((s.logAt e.site.toNat r).modCore k fun c => { note c with err := none }).modCtx c.ctx fun x =>
      let g := c.step.map fun t => t.1
      { x.ask .cancel s.clock with cancels := if x.cancels.contains g then x.cancels else x.cancels ++ [g] }
/-- UNCORRECTABLE_ERROR (R325). -/
def execUncorrectableError (k : CoreId) (e : ErrInfo) (s : State) : Out := ok (s.consume k e)
/-- The detail of a link block that could not be corrected; the manual gives no syndrome of it. -/
def fecInfo (s : State) (site : Nat) : ErrInfo := {
  kind := 4, site := BitVec.ofNat 6 site, unit := 0, addr := Config.freeEval s.free, synd := Config.freeEval (s.free + 1) }
/-- FEC_FAILURE (R292): a push lands at its cycle and its consumer takes the error then; a residue beat cancels the step of the
core that it serves. -/
def execFecFailure (k : Nat) (s : State) : Out :=
  match s.flights[k]? with
  | none => ok s
  | some f =>
    match f.cargo with
    | .push _ _ _ => ok { s with flights := s.flights.set k { f with bad := true } }
    | _ =>
      let site := match f.hops with
        | h :: _ => h.1
        | [] => f.core.toNat / 16
      ok ({ s with free := s.free + 2 }.consume f.core (fecInfo s site))

/-! ### Poison and the patrol scrub (R350, R351) -/

/-- Change the memory that holds a word. -/
def State.modWord (s : State) (l : EccLoc) (f : Memory → Memory) : State :=
  match l with
  | .scratch k _ => s.modCore k fun c => { c with scratch := f c.scratch }
  | .wstack k _ => s.modCore k fun c => { c with wstack := f c.wstack }
  | .dshared _ _ => { s with dsh := f s.dsh }
  | .gtable _ _ => { s with gsram := f s.gsram }
  | .stage _ _ => { s with stage := f s.stage }
  | .hbm _ _ => { s with hbm := f s.hbm }
  | .tier2 _ _ => { s with tier2 := f s.tier2 }
  | _ => s
/-- The word a scrub reads: eight bytes. -/
def State.scrubWord (s : State) (l : EccLoc) : Dword :=
  let rd (m : Memory) : Dword := dw (m.readNat (eccKey l) 8)
  match l with
  | .scratch k _ => ((s.coreAt k).map fun c => rd c.scratch).getD 0
  | .wstack k _ => ((s.coreAt k).map fun c => rd c.wstack).getD 0
  | .dshared _ _ => rd s.dsh
  | .gtable _ _ => rd s.gsram
  | .stage _ _ => rd s.stage
  | .hbm _ _ => rd s.hbm
  | .tier2 _ _ => rd s.tier2
  | .text k a => ((s.coreAt k).map fun c => Store.get 0 c.text (a + 1) ++ Store.get 0 c.text a).getD 0
  | _ => 0
/-- The record of the scrub; it is charged to no context, and the manual fixes neither unit nor syndrome. -/
def scrubRec (s : State) (l : EccLoc) (kind : Byte) : LogRec := {
  time := s.clock, kind := kind, site := (eccSite l), unit := (Config.freeEval s.free).setWidth 16, ctx := 0, action := 0, lost := 0
  addr := dw (eccKey l), synd := Config.freeEval (s.free + 1) }
/-- A word of HBM4E or of the second tier: the patrol scrub does not read it (R351). -/
def isFar : EccLoc → Bool
  | .hbm _ _ => true
  | .tier2 _ _ => true
  | _ => false
/-- SCRUB_READ (R350, R351): a corrected word waits for its write-back; an uncorrectable one is marked poisoned, and what it
holds from then on is open. A correctable error that an engine's read meets is corrected, written back at once and logged (R351).
Instruction SRAM, the register files, the queues and DQ keep what they hold while they are poisoned. A read that meets a poisoned
word of a register file, a queue or DQ is the error there and then; UNCORRECTABLE_ERROR is for an error that no read of the core
meets. The event also stands for what the ECC of HBM4E and LPDDR-6 finds: an error that it corrects is logged with their kind (R352), and a
word that it cannot correct is an error of every read of it until it is written, with nothing logged before (PRESUMED, log entry 40). -/
def execScrubRead (l : EccLoc) (r : EccRes) (s : State) : Out :=
  match r with
  | .clean => ok s
  | .onRead k => ok ({ s with free := s.free + 2 }.logAt (eccSite l)
      { scrubRec s l (errKind l 1) with ctx := ((s.coreAt k).map fun (c : Core) => c.ctx).getD 0 })
  | .corrected => ok ({ s with
      wback := if isFar l then s.wback else s.wback ++ [(l, s.scrubWord l)], free := s.free + 2 }.logAt (eccSite l) (scrubRec s l (errKind l 1)))
  | .uncorrectable =>
    let bs := (List.range 8).map fun i => Config.freeByte (s.free + 2 + i)
    let s1 := { s with poison := if s.poison.contains l then s.poison else l :: s.poison, free := s.free + 10 }
    ok ((if isFar l then s1 else s1.logAt (eccSite l) (scrubRec s l 3)).modWord l fun m => m.writeBytes (eccKey l) bs)
/-- SCRUB_WRITEBACK (R350): the oldest corrected word is written back, unless it has been written since the scrub read it. -/
def execScrubWriteback (s : State) : Out :=
  match s.wback with
  | [] => ok s
  | (l, v) :: t =>
    let s1 := { s with wback := t }
    ok (if s.scrubWord l = v then s1.modWord l fun m => m.writeNat (eccKey l) 8 v.toNat else s1)
/-- An engine of core c reads a range: a poisoned word in it is an uncorrectable error of the read (R351). -/
def State.readPoison (s : State) (c : CoreId) (same : EccLoc → Bool) (k n : Nat) : State :=
  match s.poisoned same k n with
  | [] => s
  | l :: _ => { s with free := s.free + 1 }.consume c {
      kind := errKind l 2, site := BitVec.ofNat 6 (eccSite l), unit := BitVec.ofNat 16 (c.toNat % 16), addr := dw (eccKey l)
      synd := Config.freeEval s.free }

/-! ### Throttling, energy, droop, budgets (R332 to R334, R349, R353) -/

/-- Contexts with cores on a site, each with its PRIO: one that is halted keeps them (R328). -/
def State.onSite (s : State) (site : Nat) : List (CtxId × Nat) :=
  (s.ctxs.filter fun x => !x.released && s.allCores.any fun c => c.live && c.ctx == x.id && c.site == site).map
    fun x => (x.id, x.rec_.prio)
/-- The lowest-PRIO context on a site that is not throttled; the manual names no choice between equal ones. -/
def State.victim (s : State) (site : Nat) : Option CtxId :=
  let l := (s.onSite site).filter fun p => !s.power.thr.contains (site, p.1)
  match (l.map Prod.snd).min? with
  | none => none
  | some m =>
    let least := (l.filter fun p => p.2 == m).map Prod.fst
    least[Config.freeDelay s.free % least.length]?
/-- Cause 0x21 is raised and THRN recorded on each core of a context on a site (R333); a saved core takes its notice of an end when it
runs again. -/
def State.throttleNote (s : State) (site : Nat) (x : CtxId) (on : Bool) (share : Byte) : State :=
  let f (c : Core) : Core :=
    if c.live && c.ctx == x && c.site == site then
      { c with spr := { c.spr with
          thrAct := on, thrShare := if on then share else 0, denies := on, denied := if on then share else 0
          thrEv := if c.spr.thrEv = 0xFFFF then c.spr.thrEv else c.spr.thrEv + 1 } }.post 0x21 0 (Config.freeEval s.free)
    else c
  { s with core := f s.core, others := s.others.map f, saved := s.saved.map f, free := s.free + 1 }
/-- One more context of a site is throttled. -/
def State.throttle (s : State) (site : Nat) (share : Byte) : State :=
  match s.victim site with
  | none => s
  | some x => { s with power := { s.power with thr := s.power.thr ++ [(site, x)] }, free := s.free + 1 }.throttleNote site x true share
/-- THROTTLE_START (R333). -/
def execThrottleStart (site : BitVec 6) (share : Byte) (s : State) : Out := ok (s.throttle site.toNat share)
/-- THROTTLE_ESCALATE (R333): the next-lowest context is throttled as well. -/
def execThrottleEscalate (site : BitVec 6) (share : Byte) (s : State) : Out := ok (s.throttle site.toNat share)
/-- THROTTLE_END (R333): every throttled context of the site is told. -/
def execThrottleEnd (site : BitVec 6) (s : State) : Out :=
  let l := s.power.thr.filter fun p => p.1 == site.toNat
  ok (l.foldl (fun s p => s.throttleNote p.1 p.2 false 0)
    { s with power := { s.power with thr := s.power.thr.filter fun p => p.1 != site.toNat } })
/-- A saturating sum (R334). -/
def satAdd (x : Dword) (n : Nat) : Dword := dw (min (x.toNat + n) (2 ^ 64 - 1))
/-- ENERGY_ACCOUNT (R334): an accounting interval ends; its energy is charged to a context, the device context among them. -/
def execEnergyAccount (x : CtxId) (uj : Nat) (s : State) : Out :=
  ok (if x = 0 then { s with dev := { s.dev with energy := satAdd s.dev.energy uj } }
    else s.modCtx x fun y => { y with energy := satAdd y.energy uj })
/-- DROOP_INJECTION (R349): charge is injected in a cycle, within 64 cycles of any 1,024. A droop that lasts beyond them raises the die's
measured power, and the throttle of R333 acts, by a share that the manual does not fix. -/
def execDroopInjection (site : BitVec 6) (quad : BitVec 2) (s : State) : Out :=
  let recent := s.power.droop.filter fun p => decide (s.clock < p.2.2 + 1024)
  let used := (recent.filter fun p => p.1 == site.toNat && p.2.1 == quad.toNat).length
  if used < 64 then ok { s with power := { s.power with droop := recent ++ [(site.toNat, quad.toNat, s.clock)] } }
  else
    let s1 := { s with power := { s.power with droop := recent } }
    ok (if s.power.thr.any fun p => p.1 == site.toNat then s1
      else { s1 with free := s1.free + 1 }.throttle site.toNat ((Config.freeEval s1.free).setWidth 8))
/-- LOWER_DIE_BUDGETS (R353): firmware sets die budgets, none above what it was. -/
def execLowerDieBudgets (bs : List (BitVec 6 × Nat)) (s : State) : Out :=
  ok { s with power := { s.power with
    budget := bs.foldl (fun b p => Store.set 0 b p.1.toNat (1 + min p.2 (s.dieBudget p.1.toNat))) s.power.budget } }

end Sys2Proof.Machine
end

