-- ==== Sys2Proof/Machine/Graph.lean ====
section
/-! DEFINITION. Graph.lean: launch graphs: nodes that become ready, are decided, finish or are skipped (R319). A plain launch is
held as a graph of one KERNEL node. -/
namespace Sys2Proof.Machine

/-- Kinds of Table 14-8. -/
def nodeKernel : Nat := 1
def nodeCond : Nat := 2
def nodeLoop : Nat := 3
def nodeSwitch : Nat := 4
def nodeWait : Nat := 5
/-- The node that SUCC gives nothing. -/
def noNode : Nat := 0xFFFF

/-- Successors lo to hi of a node. -/
def GNode.succs (n : GNode) (lo hi : Nat) : List Nat := ((n.succ.drop lo).take (hi + 1 - lo)).filter fun j => j != noNode
/-- One more predecessor of node j has finished. -/
def releaseNode (st : List NodeSt) (j : Nat) : List NodeSt :=
  match st[j]? with
  | some (.waiting d) => st.set j (.waiting (d + 1))
  | _ => st
/-- Node i finishes: some successors are released and the others skipped. A skipped node finishes without running and releases
its own successors. -/
def Launch.finish (l : Launch) (i : Nat) (rel skip : List Nat) : Launch :=
  let st1 := rel.foldl releaseNode (l.state.set i .done)
  let st2 := skip.foldl (fun st j =>
    match st[j]? with
    | some (.waiting _) => ((l.nodes[j]?.map fun n => n.succs 0 7).getD []).foldl releaseNode (st.set j .done)
    | _ => st) st1
  { l with state := st2 }
/-- The graph word of a node (Table 14-7, GAREA). -/
def State.graphWord (s : State) (l : Launch) (n : GNode) : Dword :=
  let g := l.rec_.garea
  dw (s.stage.readNat (Config.stageBytes * field g 31 29 + field g 28 0 + n.word) 8)
/-- Replace a launch. -/
def State.setLaunch (s : State) (l : Launch) : State :=
  { s with host := { s.host with launches := s.host.launches.map fun k => if k.id = l.id then l else k } }
/-- A record whose nodes have all finished retires. -/
def State.closeLaunch (s : State) (l : Launch) : State :=
  let s1 := s.setLaunch l
  if l.state.all fun x => x == .done then
    { s1 with host := { s1.host with launches := s1.host.launches.filter fun k => k.id != l.id } }
  else s1
/-- A launch by its id. -/
def State.launchOf (s : State) (id : Nat) : Option Launch := s.host.launches.find? fun l => l.id == id
/-- The first node of a launch that is ready (R319). -/
def Launch.readyNode (l : Launch) : Option (Nat × GNode) :=
  (l.nodes.zipIdx.find? fun (p : GNode × Nat) => match l.state[p.2]? with
    | some (.waiting d) => decide (p.1.npred ≤ d)
    | _ => false).map fun (p : GNode × Nat) => (p.2, p.1)
/-- The first node of a launch whose word is to be read again now. -/
def Launch.pollNode (l : Launch) (clock : Nat) : Option (Nat × GNode) :=
  (l.nodes.zipIdx.find? fun (p : GNode × Nat) => match l.state[p.2]? with
    | some (.polling t) => decide (t ≤ clock)
    | _ => false).map fun (p : GNode × Nat) => (p.2, p.1)
/-- The first launch with a node that a test finds. -/
def State.nodeDue (s : State) (p : Launch → Option (Nat × GNode)) : Option (Launch × Nat × GNode) :=
  s.host.launches.findSome? fun l => (p l).map fun q => (l, q.1, q.2)
/-- A WAIT node reads its word: it finishes, or it reads again within 10 microseconds. -/
def State.waitNode (s : State) (l : Launch) (i : Nat) (n : GNode) : State :=
  if (dw n.arg).toInt ≤ (s.graphWord l n).toInt then s.closeLaunch (l.finish i (n.succs 0 7) [])
  else { s with free := s.free + 1 }.setLaunch
    { l with state := l.state.set i (.polling (s.clock + 1 + Config.freeDelay s.free % 20000)) }
/-- GRAPH_NODE_READY (R319): a node whose predecessors have finished is evaluated. -/
def execGraphNodeReady (s : State) : Out :=
  match s.nodeDue Launch.readyNode with
  | none => ok s
  | some (l, i, n) =>
    let w := (s.graphWord l n).toNat
    ok (if n.kind = nodeCond then
        (if w ≠ 0 then s.closeLaunch (l.finish i (n.succs 0 3) (n.succs 4 7))
         else s.closeLaunch (l.finish i (n.succs 4 7) (n.succs 0 3)))
      else if n.kind = nodeSwitch then
        let v := if w ≤ 6 then w else 7
        let rel := n.succs v v
        s.closeLaunch (l.finish i rel ((n.succs 0 7).filter fun j => !rel.contains j))
      else if n.kind = nodeWait then s.waitNode l i n
      else s.setLaunch { l with state := l.state.set i .queued })
/-- GRAPH_WAIT_POLL (R319): a WAIT node reads its word again. -/
def execGraphWaitPoll (s : State) : Out :=
  match s.nodeDue fun l => l.pollNode s.clock with
  | none => ok s
  | some (l, i, n) => ok (s.waitNode l i n)
/-- The context of a node has retired: a kernel finishes; a loop runs its body again while its word is not zero and its count
is below ARG (R319). -/
def State.nodeRetired (s : State) (launch : Nat) (node : Option Nat) : State :=
  match s.launchOf launch, node with
  | some l, some i =>
    match l.nodes[i]? with
    | none => s
    | some n =>
      let k := l.iters.getD i 0 + 1
      let l1 := { l with iters := l.iters.set i k }
      if n.kind = nodeLoop ∧ (s.graphWord l n).toNat ≠ 0 ∧ k < n.arg then
        s.setLaunch { l1 with state := l1.state.set i .queued }
      else s.closeLaunch (l1.finish i (n.succs 0 7) [])
  | _, _ => s
/-- The context of a node has ended by kill or termination, or its kernel was refused: every node that has not finished is
skipped, and a graph retires with a fault notice (R319). -/
def State.nodeFault (s : State) (launch : Nat) : State :=
  match s.launchOf launch with
  | none => s
  | some l =>
    let s1 := { s with host := { s.host with launches := s.host.launches.filter fun k => k.id != launch } }
    if l.rec_.nnode = 0 then s1 else s1.notice (.graphFault launch)

end Sys2Proof.Machine
end

