-- ==== Sys2Proof/Machine/Freeze.lean ====
section
/-! DEFINITION. Freeze.lean: starting, freezing, saving, resuming, cancelling, killing and ending contexts (R126, R152, R286,
R315, R322 to R328, R353). -/
namespace Sys2Proof.Machine

/-! ### The list of cores -/

/-- The core that moves first, when the one that moved belongs to no context any more. -/
def State.refocus (s : State) : State :=
  match s.core.live, s.others with
  | false, c :: t => { s with core := { c with turn := 0, tail := false }, others := t }
  | _, _ => s
/-- Cores leave the package. -/
def State.dropCores (s : State) (p : Core → Bool) : State :=
  { s with
    core := if p s.core then { id := s.core.id } else s.core
    others := s.others.filter fun c => !p c }.refocus
/-- Insert a core by its id. -/
def insertCore (c : Core) : List Core → List Core
  | [] => [c]
  | x :: t => if c.id < x.id then c :: x :: t else x :: insertCore c t
/-- A word of a memory, a register file or a queue of some cores. -/
def wordOfCores (ks : List CoreId) : EccLoc → Bool
  | .scratch k _ => ks.contains k
  | .wstack k _ => ks.contains k
  | .text k _ => ks.contains k
  | .regs k _ _ => ks.contains k
  | .queue k _ _ => ks.contains k
  | .dq k _ => ks.contains k
  | _ => false
/-- Cores enter the package; the core with the lowest id moves first. Their text, scratch, weight stack, registers and queues are written
whole, by loading or by a restore (R67, R323, R351). -/
def State.addCores (s : State) (cs : List Core) : State :=
  let all := (cs ++ (if s.core.live then [s.core] else []) ++ s.others).foldl (fun l c => insertCore c l) []
  match all with
  | [] => s
  | c :: t => { s with
      core := { c with turn := 0, tail := false }, others := t, poison := s.poison.filter fun l => !wordOfCores (cs.map Core.id) l }
/-- The cores of a context, of the running ones. -/
def State.coresOf (s : State) (x : CtxId) : List Core := s.allCores.filter fun c => c.within x

/-! ### Freezing (R126, R322) -/

/-- Whether a core can become ready to freeze at the end of its cycle (R322, R341). -/
def Core.readyNow (c : Core) : Bool :=
  c.retired || ((!c.trap.pmask || c.trap.maskOut) && !(c.trap.tl && decide (c.now ≤ c.trap.snapAt)))
/-- Kinds of freeze, those first that come before others in one cycle: a kill, then a cancellation (R324, R341). -/
def freezeOrder : List FreezeKind := [.kill, .cancel, .halt, .preempt]
/-- The freeze of a context that takes place in this cycle (R322, R324, R341). A kill waits for no core, and acts at once on a context
that stands frozen. -/
def State.freezeDue (s : State) (x : Context) : Option FreezeKind :=
  let cs := s.coresOf x.id
  let at_ (q : Nat) : Bool := s.clock % 64 == 0 && decide (q + 64 ≤ s.clock)
  let run := x.phase == .running && cs.all fun c => c.delay == 0
  let ready := cs.all fun c => c.ready || c.retired || (c.halted && c.readyNow)
  freezeOrder.findSome? fun k => (x.freeze.find? fun f => f.1 == k).bind fun f =>
    match k with
    | .kill =>
      if x.phase == .saved || x.phase == .halted then some .kill
      else if (run || x.phase == .placed) && at_ f.2 then some .kill else none
    | k => if run && ready && at_ f.2 && !(x.freeze.any fun g => g.1 == .kill) then some k else none
/-- The first context with a freeze that a test admits. -/
def State.frozenNext (s : State) (p : FreezeKind → Bool) : Option (Context × FreezeKind) :=
  s.ctxs.findSome? fun x => (s.freezeDue x).bind fun k => if p k then some (x, k) else none
/-- A context no longer asks for a freeze of a kind. -/
def Context.frozenAs (x : Context) (k : FreezeKind) (ph : CtxPhase) (clock : Nat) : Context :=
  { x with freeze := x.freeze.filter fun f => f.1 != k, phase := ph, frozeAt := clock }
/-- A core's local time stops. -/
def Core.stopTime (c : Core) : Core := { c with frozen := true, ready := false }
/-- Effects that a quiesce brings to their end in the registers of MTX: rows of its running word, residual rows of a drain, the activations of
a chunk (R210, R235, R249). -/
def LocalEff.ends : LocalEff → Bool
  | .row _ _ _ => true
  | .tile _ _ _ => true
  | .trnRow _ => true
  | .resid _ _ => true
  | .acts _ => true
  | _ => false
/-- Effects that write memory from what is known at the freeze. -/
def LocalEff.puts : LocalEff → Bool
  | .ctl op _ _ _ => (match op with
    | .store _ _ => true
    | .amo _ _ _ _ _ _ => true
    | _ => false)
  | .write _ _ _ => true
  | .copy _ _ _ _ => true
  | .status _ _ => true
  | _ => false
/-- The ranges of scratch, or of die-shared scratch, that an effect reads for an engine that does not end in a quiesce. -/
def LocalEff.asks : LocalEff → List (Bool × Nat × Nat)
  | .ctl (.store _ _) _ _ _ => []
  | .ctl op sh k _ => [(sh, k, op.bytes)]
  | .beat _ k => [(false, k, 64)]
  | .beats k n => [(false, k, n)]
  | .podData k n => [(false, k, n)]
  | .members _ a j m => [(false, a + 64 * j, 2 * min 32 (m - 32 * j))]
  | _ => []
/-- The quiesce of a core (R322): its effects in their order, n at most, on a shadow of the machine. What ends in MTX ends; of each read
of the rest its result is known; all writes keep their cycles. -/
def quiesce : Nat → State → List LocalOp → State × List LocalOp
  | 0, s, l => (s, l ++ s.core.fly)
  | n + 1, s, l =>
    match firstDue (s.core.fly.foldl (fun m o => max m o.due) 0) s.core.fly with
    | none => (s, l)
    | some (o, r) =>
      let s1 : State := { s with core := { s.core with fly := r, now := max s.core.now o.due } }
      if o.eff.ends then quiesce n (s1.doHeld o) l
      else
        let o1 := if o.seen.isEmpty then { o with seen := s1.standing o.eff.asks } else o
        quiesce n (if o.eff.puts then s1.doHeld o1 else s1) (l ++ [o1])
/-- A core after the quiesce of a freeze (R322): the running word, chunk or drain of MTX has come to its end in the registers of MTX (R210,
R235, R249), the reads under way have found what they would have found with no freeze, and each write keeps its cycle. -/
def State.drained (s : State) (c : Core) : Core :=
  let q := quiesce (2 * c.fly.length + 4096) { s with core := c } []
  let c1 : Core := { c with mtx := q.1.core.mtx, fly := q.2 }
  let keep (j : GJob) : GJob :=
    if j.kept.isEmpty then { j with kept := j.srcs.map fun a => q.1.core.scratch.readBytes a j.slot } else j
  let c2 : Core := { c1 with gjob := c1.gjob.map keep, gtail := c1.gtail.map keep }
  match c.mtx.job with
  | some j => if j.auto_ then { ({ c2 with now := max c.now (j.start + shRows j.shape - 1) }).finishDrain with now := c.now } else c2
  | none => c2
/-- The traffic of a context. -/
def Context.owns (x : Context) (f : Flight) : Bool := x.cores.contains f.core
/-- The context stands frozen while its operations complete, 512 global cycles at most, and its save is written (R322). -/
def State.beginSave (s : State) (x : Context) : State :=
  { s with free := s.free + 1 }.modCtxCores x.id (fun c => (s.drained c).stopTime) |>.modCtx x.id fun y =>
    { y.frozenAs .preempt .saving s.clock with
      preempts := y.preempts + 1, saveAt := s.clock + 1 + Config.freeDelay s.free }
/-- A context whose save stands written: no piece of its copies is under way any more. -/
def State.saveDue (s : State) : Option Context :=
  s.ctxs.find? fun x => x.phase == .saving && decide (x.saveAt ≤ s.clock) && !(s.flights.any fun f => x.owns f && f.cargo.ofCopy)
/-- The save areas of a context hold its save. The manual does not lay the bytes out: they are free values (R322; DESIGN CHOICE, log
entry 34). -/
def State.writeSave (s : State) (x : Context) : State :=
  (List.range 8).foldl (fun (s : State) h => (x.saveAreas h).foldl (fun (s : State) r =>
    { s with
      hbm := s.hbm.writeBytes (Config.hbmBytes * h + r.1) ((List.range r.2).map fun i => Config.freeByte (s.free + i))
      free := s.free + r.2 }.cleared [{ wr := true, mem := .hbm, key := Config.hbmBytes * h + r.1, len := r.2 }]) s) s
/-- The context is saved: its cores and slots are free, and its traffic is kept with it (R322). -/
def State.saveCtx (s : State) (x : Context) : State :=
  let keep (f : Flight) : Bool := x.owns f && !f.cargo.untimed
  let s1 := s.writeSave x
  ({ s1 with saved := s1.saved ++ s1.coresOf x.id, flights := s1.flights.filter fun f => !keep f }.modCtx x.id fun y =>
    { y with phase := .saved, released := true, held := s1.flights.filter keep }).dropCores fun c => c.within x.id
/-- What a kill discards on a core (R324). Its pod operations and collectives stand until their requests are answered or dropped. -/
def Core.discard (c : Core) : Core :=
  { c.stopTime with
    fly := [], eoc := [], gjob := none, gtail := [], ids := [], lnk := { c.lnk with sends := [], wsig := none, quiet := none }
    chan := c.chan.map fun h => { h with snap := none, page := none, state := if h.state = ChState.busy then ChState.stopped else h.state } }
/-- Traffic that a kill does not drop: pod requests already sent, and their answers (R324). -/
def Cargo.fabric : Cargo → Bool
  | .hawser _ _ => true
  | .podAns _ _ => true
  | .collAns _ _ => true
  | _ => false
/-- The context stands killed: nothing of it performs any more (R324). -/
def State.killCtx (s : State) (x : Context) : State :=
  let f (c : Core) : Core := if c.within x.id then c.discard else c
  { s with
    core := f s.core, others := s.others.map f, saved := s.saved.map f
    flights := s.flights.filter fun g => x.phase == CtxPhase.saved || !x.owns g || g.cargo.fabric
    swaps := s.swaps.filter fun p => p.1 != x.id }.modCtx x.id fun y =>
      { y with freeze := [], phase := .killed, frozeAt := s.clock, held := [] }
/-- PREEMPT_FREEZE (R322, R324, R328): a context freezes at the common cycle F, for a pre-emption, a halt or a kill; or the save of a
frozen one stands written. -/
def execPreemptFreeze (s : State) : Out :=
  match s.frozenNext fun k => k != .cancel with
  | none => match s.saveDue with
    | some x => ok (s.saveCtx x)
    | none => ok s
  | some (x, k) =>
    match k with
    | .preempt => ok (s.beginSave x)
    | .kill => ok (s.killCtx x)
    | _ => ok ((s.modCtxCores x.id fun c => (s.drained c).stopTime).modCtx x.id fun y => y.frozenAs .halt .halted s.clock)

/-! ### Ending (R152, R324) -/

/-- A context leaves the package: its cores, slots and memory are free (R104, R324). -/
def State.removeCtx (s : State) (x : CtxId) : State :=
  { s with
    saved := s.saved.filter fun c => !c.within x
    ctxs := s.ctxs.filter fun y => y.id != x
    planes := s.planes.filter fun y => y.ctx != x
    swaps := s.swaps.filter fun p => p.1 != x
    podDone := s.podDone.filter fun p => p.1 != x
    power := { s.power with thr := s.power.thr.filter fun p => p.2 != x } }.dropCores fun c => c.within x
/-- A killed context whose key is revoked everywhere and whose pod requests, its collectives' among them, have all been answered (R324). -/
def State.killDone (s : State) : Option Context :=
  s.ctxs.find? fun x => x.phase == .killed && decide (x.keyAt ≤ s.clock) &&
    (s.allCores ++ s.saved).all fun c => !c.within x.id || (c.lnk.podq.isEmpty && c.colls.isEmpty)
/-- KILL_COMPLETE (R324). -/
def execKillComplete (s : State) : Out :=
  match s.killDone with
  | none => ok s
  | some x => ok (((s.notice (.killed x.id)).removeCtx x.id).nodeFault x.launch)
/-- Whether the moving core retires EXIT in this cycle (R152): every engine has reached it and every operation has performed. A
trap that can be taken comes first (R341). -/
def State.exitDue (s : State) : Bool :=
  let c := s.core
  c.live && !c.retired && c.engines.all (fun e => (c.engOf e).exited) && s.allPerformed c && c.ctl.retq.isEmpty && !c.trapDue
/-- A running context whose cores have all retired, and whose plane swaps have all been made (R149, R152). -/
def State.ctxDone (s : State) : Option Context :=
  s.ctxs.find? fun x => x.phase == .running && (s.swaps.all fun p => p.1 != x.id) && x.freeze.isEmpty && !(s.coresOf x.id).isEmpty && (s.coresOf x.id).all Core.retired
/-- CORE_EXIT_RETIRE (R152): the core retires EXIT and releases its level; with the last core the context retires. -/
def execCoreExitRetire (s : State) : Out :=
  if s.exitDue then ok (s.mapCore fun c => { c with retired := true, retiredAt := c.now, spr := { c.spr with level := 0, req := 0, preq := false, granted := false } })
  else match s.ctxDone with
    | none => ok s
    | some x => ok (((s.notice (.retired x.id x.launch x.energy)).removeCtx x.id).nodeRetired x.launch x.node)

/-! ### Termination (R315, R316) -/

/-- The fault notice of a core (R315, R316). -/
def State.faultNotice (s : State) (c : Core) : Notice :=
  .fault c.ctx c.id c.ecauseWord c.trap.eval ((List.range 8).map fun n => s.csrRead c (0x48 + n)) c.nested
/-- Cores that have asked for the kill of their context are reported to the host, and the kill is requested. -/
def State.reportDying (s : State) : State :=
  let c := s.core
  if c.live && c.dying && !c.told then
    ((s.notice (s.faultNotice c)).mapCore fun c => { c with told := true }).askKill c.ctx
  else s

/-! ### Starting and resuming (R126, R286, R322, R323, R330) -/

/-- The placed context that the capstan starts in this cycle: at the first multiple of 64 after loading (R67, R286). A freeze asked for
before then, but for a kill, takes place after the start. -/
def State.startDue (s : State) : Option Context :=
  s.ctxs.find? fun x => x.phase == .placed && s.clock % 64 == 0 && decide (x.frozeAt ≤ s.clock) &&
    !(x.freeze.any fun f => f.1 == .kill)
/-- What the CSRs of a context's cores show to the words of their first cycle (R90). -/
def State.showCtx (s : State) (x : CtxId) : State :=
  let f (c : Core) : Core := if c.within x then { c with shown := s.csrView c } else c
  { s with core := f s.core, others := s.others.map f }
/-- CONTEXT_START (R126): the start pulse leaves site 14 at G0; a core's local cycle 0 is 4 cycles later for each grid step. -/
def execContextStart (s : State) : Out :=
  match s.startDue with
  | none => ok s
  | some x => ok ((s.modCtxCores x.id fun c => { c with frozen := false, delay := siteOffset c.site }).modCtx x.id
      (fun y => { y with phase := .running }) |>.showCtx x.id)
/-- The first cycle at or after t that is congruent to F modulo 64 (R286). -/
def resumeCycle (t froze : Nat) : Nat := t + (64 + froze % 64 - t % 64) % 64
/-- Traffic and swaps of a context go on after a freeze, by so many cycles later. -/
def State.shiftCtx (s : State) (x : Context) (n : Nat) : State :=
  { s with
    flights := (s.flights.map fun f => if x.owns f && !f.cargo.untimed then { f with due := f.due + n } else f)
    swaps := s.swaps.map fun p => if p.1 = x.id then (p.1, p.2.1, p.2.2.1, p.2.2.2 + n) else p }
/-- What stands in MTX counts from the resume: an MGO's next pass or pending drain, an MGVR's next chunk (R210, R248). -/
def Core.rebase (c : Core) : Core :=
  let u := c.mtx
  { c with mtx := { u with
    prog := u.prog.map fun p => if !p.held && p.fin.isNone then { p with at_ := c.now } else p
    gvp := u.gvp.map fun p => if !p.held && p.fin.isNone then { p with at_ := c.now + 2 } else p } }
/-- A halted context, or a cancelled step, goes on (R327, R330): local time starts again at a cycle congruent to F, with a cause
raised at each core where there is one. -/
def State.thaw (s : State) (x : Context) (post : Option (Byte × (Nat → Dword))) : State :=
  let r := resumeCycle (s.clock + Config.freeDelay s.free) x.frozeAt
  let wake (c : Core) : Core :=
    let c1 := { c with frozen := false, delay := r - s.clock }.rebase
    match post with
    | some (k, ev) => c1.post k 0 (ev (r - x.frozeAt))
    | none => c1
  ((({ s with free := s.free + 1 }.modCtxCores x.id wake).shiftCtx x (r - x.frozeAt)).modCtx x.id
    fun y => { y with phase := .running }).showCtx x.id
/-- EVAL of cause 0x23 (R330). -/
def haltEval (n : Nat) : Dword := dw (min n (2 ^ 48 - 1))
/-- EVAL of cause 0x20 (R322). -/
def preemptEval (count n : Nat) : Dword := dw (min n (2 ^ 48 - 1) + 2 ^ 48 * min count 65535)
/-- The weight stack after a restore (R323): a unit is loaded again from its source, or reads zero; WSLOST says whether one was lost at
this restore. A copy that stood BUSY at the freeze had written its units in part. -/
def Core.reload (c0 : Core) (hbm : Memory) : Core :=
  let c := { c0 with trap := { c0.trap with wslost := false } }
  c.wsrec.foldl (fun c p =>
    if p.2 = wsOther then { c with wstack := Store.clear c.wstack (65536 * p.1) 65536, trap := { c.trap with wslost := true } }
    else { c with wstack := Store.copy c.wstack (65536 * p.1) hbm (p.2 - 1) 65536 }) c
/-- Whether the die of each core has room for the level that a save keeps for it (R332). -/
def State.levelsFree (s : State) (cs : List Core) : Bool :=
  cs.all fun c => decide (((cs.filter fun k => k.site == c.site).map fun k => k.spr.level.toNat).sum +
    ((s.allCores.filter fun k => k.site == c.site).map Core.levelHeld).sum ≤ s.dieBudget c.site)
/-- Whether the cores, slots and levels of a saved context are free (R321, R332). -/
def State.canResume (s : State) (x : Context) : Bool :=
  x.phase == .saved && !(x.freeze.any fun f => f.1 == .kill) &&
  (s.ctxs.all fun y => y.id == x.id || y.released || !(y.cores.any fun k => x.cores.contains k)) &&
  (x.claims.all fun q => !(s.claims.any q.meets)) && s.levelsFree (s.saved.filter fun c => c.within x.id)
/-- A saved context is restored, its text from the image (R42, R322, R323). -/
def State.restoreCtx (s : State) (x : Context) : State :=
  let mine := (s.saved.filter fun c => c.within x.id).map fun c =>
    let on := s.power.thr.contains (c.site, x.id)
    { (s.wsCut c).reload s.hbm with text := c.text0, spr := { c.spr with denies := on } }
  let s1 := ({ s with
    saved := s.saved.filter fun c => !c.within x.id
    flights := s.flights ++ x.held }.addCores mine).modCtx x.id fun y => { y with held := [], released := false }
  s1.thaw x (some (0x20, preemptEval x.preempts))
/-- A restore fails: the context is terminated, and cause 0x25 is raised in context 0 (R323), which holds it pending: no core of the
model runs context 0, so none takes it. DESIGN CHOICE (log entry 99). -/
def State.loseCtx (s : State) (x : Context) : State :=
  let p : PendCause := { cause := 0x25, eng := 0, eval := zextD x.id, cycle := s.clock }
  let d := { s.dev with pend := if s.dev.pend.any fun q => q.cause == 0x25 then s.dev.pend else s.dev.pend ++ [p] }
  ((({ s with dev := d }.notice (.lost x.id)).askKill x.id).killCtx x)

/-! ### Step cancellation (R326, R327) -/

/-- The members of a step that is to be cancelled: those of its group, or every core in the first step. -/
def Context.stepMembers (x : Context) : Option (BitVec 6) → List CoreId
  | some g => x.members g
  | none => x.cores
/-- The members of every step that is to be cancelled. -/
def Context.cancelled (x : Context) : List CoreId := (x.cancels.flatMap x.stepMembers).eraseDups
/-- Lanes that a restart empties, and what stood in flight on a member, a PACQ that waits for its grant among it (R258, R327). -/
def Core.emptied (c : Core) : Core :=
  { c with
    fly := [], eoc := [], colls := [], gjob := none, gtail := [], ids := [], bar := none
    lnk := { c.lnk with podq := [], sends := [], wsig := none, quiet := none }
    spr := { c.spr with req := c.spr.level, preq := false, granted := false }
    vec := { c.vec with
      lq := Vector.replicate 4 [], sq := Vector.replicate 2 [], sres := Vector.replicate 2 0, dq := [], retq := []
      vfree := Vector.replicate 16 0, dqFree := 0 }
    mtx := { c.mtx with job := none, trn := none, prog := none, gvp := none, look := none, tready := Vector.replicate 8 0, retireAt := 0 }
    ctl := { c.ctl with
      ready := Vector.replicate 32 0, pend := [], log := [], retq := [], divFree := 0, fence := none, hfence := false
      claim := none, wev := none } }
/-- An engine stands again where it stood at the checkpoint, its next word counted from C - 1 + D. -/
def Engine.restart (x old : Engine) (d now : Nat) : Engine :=
  { x with
    sched := x.sched + d, freeAt := now, passAt := now, passed := 0, wait := 0, stop := none, held := false, marked := false
    redo := false, eaten := [], excuse := 0, lateMax := old.lateMax, lastCause := old.lastCause, draw := 0 }
/-- A trap that a restart abandons: the interrupted mode comes back, and g31 and TSCR change places. -/
def Core.leaveTrap (c : Core) : Core :=
  if c.trap.tl then
    let c1 := c.swapScr
    { c1 with trap := { c1.trap with mode := c.trap.pmode, tl := false, pmask := false, maskOut := false, stopped := 0, tscrTag := none } }
  else c
/-- A channel after a restart: geometry, layout, status address and schedule binding as at the checkpoint; no copy runs on it. A page
move is no operation of the step's data and goes on (R327). -/
def Channel.restart (h k : Channel) : Channel :=
  { h with
    geo := k.geo, l0 := k.l0, l1 := k.l1, status := k.status, sched := k.sched, pendq := k.pendq, fetched := false, entry := [], snap := none, begun := []
    wm := h.wmNow, state := if h.page.isNone ∧ h.state = ChState.busy then .idle else h.state }
/-- The checkpoint of a member is restored, its schedule shifted by D (R327). Its pending causes and its EXIT are discarded with the step
(R341). -/
def Core.restart (c : Core) (k : Ckpt) (d : Nat) : Core :=
  let c0 := c.leaveTrap.emptied
  let c1 := { c0 with
    ctl := { c0.ctl with g := k.g, df := k.df, pend := k.pend, lates := Vector.ofFn fun e => (k.eng.getD e.val {}).late }
    trap := { c0.trap with bnd := k.bndFlag, pend := [] }
    vec := { c0.vec with amax := k.vamax.1, nan := k.vamax.2.1, sat := k.vamax.2.2 }
    mtx := { c0.mtx with amax := k.mamax.1, nan := k.mamax.2.1, sat := k.mamax.2.2, fq := k.fq, fqHead := k.fqHead }
    spr := { c0.spr with budget := k.budget }
    eng := Vector.ofFn fun e => (k.eng.getD e.val {}).restart (c.engOf e.val) d c.now
    handles := k.handles, chan := Vector.ofFn fun i => (c0.chan.getD i.val {}).restart (k.chan.getD i.val {}) }
  { c1 with
    stepRel := k.rel + d, late := false, quit := false, retired := false
    step := c.step.map fun t => (t.1, t.2.1, t.2.2 + 1) }
/-- Whether a traffic of the context serves a member, and is not the answer of a load from before the checkpoint, which has performed
(R140). -/
def discards (ms : List Core) (f : Flight) : Bool :=
  ms.any fun c => c.id == f.core && !(match f.cargo, c.ckpt with
    | .reply d tag _ _, some k => k.pend.contains (d, tag)
    | _, _ => false)
/-- The quiesce of a cancelled member (R210, R235, R327): what MTX has under way ends in its registers, and none of its writes to
scratch performs. -/
def State.settle : Nat → State → State
  | 0, s => s
  | n + 1, s =>
    match firstDue (s.core.fly.foldl (fun m o => max m o.due) 0) (s.core.fly.filter fun o => o.eff.inMtx) with
    | none => s
    | some (o, _) => settle n (({ s with core := { s.core with fly := s.core.fly.filter fun x => x != o } }).doLocal o)
/-- A member with what MTX had under way completed. -/
def State.settled (s : State) (c : Core) : Core :=
  let end_ (d : Core) : Core := (settle (d.fly.length + 400) { s with core := d }).core
  let c1 := end_ (end_ c).finishDrain
  { c1 with fly := c1.fly.filter fun o => !o.eff.inMtx }
/-- The steps of the cancelled groups are discarded: next planes and metadata, and operations of the members (R327). -/
def State.discardStep (s : State) (x : Context) (ms : List Core) : State :=
  let inG (reg : Nat) : Bool := (x.planes[reg]?).any fun d => x.cancels.contains (some d.group)
  { s with
    planes := s.planes.filter fun y => !(y.ctx == x.id && inG y.reg)
    swaps := s.swaps.filter fun p => !(p.1 == x.id && inG p.2.1)
    flights := s.flights.filter fun f => !discards ms f }
/-- EVAL of cause 0x22 (R327); the first step has no group, so [5:0] is open there. -/
def cancelEval (g : Option (BitVec 6)) (n : Nat) (free : Nat) : Dword :=
  dw ((match g with
    | some g => g.toNat
    | none => (Config.freeEval free).toNat % 64) + 256 * n)
/-- The schedule shift D of a restart of some members (R327). -/
def restartShift (cs : List Core) : Nat :=
  let from_ := ((cs.filterMap fun c => c.ckpt.map fun k => k.cont).min?).getD 0
  64 * (((cs.map fun c => c.now).foldl max 0 - from_ + 16 + 63) / 64)
/-- The checkpoints of some members are restored, the members as they stand quiet in s0; their general registers are written (R351). -/
def State.restartAll (s s0 : State) (cs : List Core) : State :=
  cs.foldl (fun s k => s.modCore k.id fun c =>
    match c.ckpt with
    | some q => (s0.wsCut (s0.settled c)).restart q (restartShift cs)
    | none => c)
    { s with poison := s.poison.filter fun l => match l with
      | .regs k e _ => !(e == 0 && cs.any fun c => c.id == k)
      | _ => true }
/-- Cause 0x22 is raised at the members of a step that is not restarted, and the host is told (R316, R327). -/
def State.raiseCancel (s : State) (g : Option (BitVec 6)) (cs : List Core) : State :=
  let n := (cs.head?.bind fun c => c.step.map fun t => t.2.2).getD 0
  let ev := cancelEval g n s.free
  cs.foldl (fun (s : State) k =>
    let s := s.modCore k.id fun c => { (c.noteCause 0 0x22).enterTrap 0x22 0 true ev c.now with dying := true, told := true }
    match s.coreAt k.id with
    | some c => s.notice (s.faultNotice c)
    | none => s) { s with free := s.free + 1 }
/-- The running members of a step that is to be cancelled, but for those of the steps before it in the list. -/
def State.stepCores (s : State) (x : Context) (g : Option (BitVec 6)) : List Core :=
  let before := (x.cancels.takeWhile fun h => h != g).flatMap x.stepMembers
  (s.coresOf x.id).filter fun c => (x.stepMembers g).contains c.id && !before.contains c.id
/-- STEP_CANCEL (R325, R327): the context has frozen; each cancelled step is restarted, or the context is terminated. -/
def execStepCancel (s : State) : Out :=
  match s.frozenNext fun k => k == .cancel with
  | none => ok s
  | some (x, _) =>
    let ms := x.cancelled
    let cs := (s.coresOf x.id).filter fun c => ms.contains c.id
    let y := { x.frozenAs .cancel .halted s.clock with cancels := [] }
    let stop (c : Core) : Core := if ms.contains c.id then c.stopTime else (s.drained c).stopTime
    let s1 := ((s.modCtxCores x.id stop).modCtx x.id fun _ => { y with freeze := y.freeze.filter fun f => f.1 != .preempt }).discardStep x cs
    let good (c : Core) : Bool := c.canRestart && c.ckpt.isSome
    if cs.all good then ok ((x.cancels.foldl (fun s g => s.restartAll s1 (s1.stepCores x g)) s1).thaw y none)
    else
      let bad := x.cancels.filter fun g => !((s1.stepCores x g).all good)
      ok (((bad.foldl (fun s g => s.raiseCancel g (s1.stepCores x g)) s1).askKill x.id).killCtx y)

/-- THERMAL_TRIP (R353): every context is killed and the module moors. -/
def execThermalTrip (s : State) : Out :=
  let s1 := s.ctxs.foldl (fun s x => s.askKill x.id) s
  ok { s1 with host := { s1.host with boot := .moored } }

end Sys2Proof.Machine
end

