-- ==== Sys2Proof/Machine/Crypto.lean ====
section
/-! DEFINITION. Crypto.lean: the functions that R68 names: SHA-512, MGF1 and RSASSA-PSS verification with a 4,096-bit key, a
64-byte digest and a 64-byte salt. The manual names them and does not define them: PRESUMED from their published
definitions (log entry 56). -/
namespace Sys2Proof.Machine

/-! ### SHA-512 (R68) -/

/-- The round constants. -/
def sha512K : List Dword :=
  [0x428a2f98d728ae22, 0x7137449123ef65cd, 0xb5c0fbcfec4d3b2f, 0xe9b5dba58189dbbc] ++
  [0x3956c25bf348b538, 0x59f111f1b605d019, 0x923f82a4af194f9b, 0xab1c5ed5da6d8118] ++
  [0xd807aa98a3030242, 0x12835b0145706fbe, 0x243185be4ee4b28c, 0x550c7dc3d5ffb4e2] ++
  [0x72be5d74f27b896f, 0x80deb1fe3b1696b1, 0x9bdc06a725c71235, 0xc19bf174cf692694] ++
  [0xe49b69c19ef14ad2, 0xefbe4786384f25e3, 0x0fc19dc68b8cd5b5, 0x240ca1cc77ac9c65] ++
  [0x2de92c6f592b0275, 0x4a7484aa6ea6e483, 0x5cb0a9dcbd41fbd4, 0x76f988da831153b5] ++
  [0x983e5152ee66dfab, 0xa831c66d2db43210, 0xb00327c898fb213f, 0xbf597fc7beef0ee4] ++
  [0xc6e00bf33da88fc2, 0xd5a79147930aa725, 0x06ca6351e003826f, 0x142929670a0e6e70] ++
  [0x27b70a8546d22ffc, 0x2e1b21385c26c926, 0x4d2c6dfc5ac42aed, 0x53380d139d95b3df] ++
  [0x650a73548baf63de, 0x766a0abb3c77b2a8, 0x81c2c92e47edaee6, 0x92722c851482353b] ++
  [0xa2bfe8a14cf10364, 0xa81a664bbc423001, 0xc24b8b70d0f89791, 0xc76c51a30654be30] ++
  [0xd192e819d6ef5218, 0xd69906245565a910, 0xf40e35855771202a, 0x106aa07032bbd1b8] ++
  [0x19a4c116b8d2d0c8, 0x1e376c085141ab53, 0x2748774cdf8eeb99, 0x34b0bcb5e19b48a8] ++
  [0x391c0cb3c5c95a63, 0x4ed8aa4ae3418acb, 0x5b9cca4f7763e373, 0x682e6ff3d6b2b8a3] ++
  [0x748f82ee5defb2fc, 0x78a5636f43172f60, 0x84c87814a1f0ab72, 0x8cc702081a6439ec] ++
  [0x90befffa23631e28, 0xa4506cebde82bde9, 0xbef9a3f7b2c67915, 0xc67178f2e372532b] ++
  [0xca273eceea26619c, 0xd186b8c721c0c207, 0xeada7dd6cde0eb1e, 0xf57d4f7fee6ed178] ++
  [0x06f067aa72176fba, 0x0a637dc5a2c898a6, 0x113f9804bef90dae, 0x1b710b35131c471b] ++
  [0x28db77f523047d84, 0x32caab7b40c72493, 0x3c9ebe0a15c9bebc, 0x431d67c49c100d4c] ++
  [0x4cc5d4becb3e42b6, 0x597f299cfc657e2a, 0x5fcb6fab3ad6faec, 0x6c44198c4a475817]
/-- The initial digest. -/
def sha512H : List Dword := [0x6a09e667f3bcc908, 0xbb67ae8584caa73b, 0x3c6ef372fe94f82b, 0xa54ff53a5f1d36f1, 0x510e527fade682d1, 0x9b05688c2b3e6c1f, 0x1f83d9abfb41bd6b, 0x5be0cd19137e2179]
/-- The big-endian number of a byte string. -/
def beNat (bs : List Byte) : Nat := bs.foldl (fun n b => n * 256 + b.toNat) 0
/-- The big-endian bytes of a number, n of them. -/
def beBytes (n v : Nat) : List Byte := (toBytes n v).reverse
/-- A message padded to whole blocks of 128 bytes: 0x80, zeros and the length in bits as 16 bytes. -/
def sha512Pad (m : List Byte) : List Byte :=
  m ++ 0x80 :: List.replicate ((111 + 128 - m.length % 128) % 128) 0 ++ beBytes 16 (8 * m.length)
/-- The last sixteen words of the schedule, newest first, moved on by one. -/
def sha512Next (w : List Dword) : Dword :=
  let a := w.getD 1 0
  let b := w.getD 14 0
  (a.rotateRight 19 ^^^ a.rotateRight 61 ^^^ a >>> 6) + w.getD 6 0 + (b.rotateRight 1 ^^^ b.rotateRight 8 ^^^ b >>> 7) + w.getD 15 0
/-- The schedule of a block, newest first, with n words after the sixteen of the block. -/
def sha512Words (block : List Byte) : Nat → List Dword
  | 0 => ((List.range 16).map fun i => dw (beNat ((block.drop (8 * i)).take 8))).reverse
  | n + 1 => let w := sha512Words block n
             sha512Next w :: w
/-- One round on the eight working words. -/
def sha512Round (v : List Dword) (kw : Dword × Dword) : List Dword :=
  match v with
  | [a, b, c, d, e, f, g, h] =>
    let t := h + (e.rotateRight 14 ^^^ e.rotateRight 18 ^^^ e.rotateRight 41) + ((e &&& f) ^^^ (~~~e &&& g)) + kw.1 + kw.2
    let u := (a.rotateRight 28 ^^^ a.rotateRight 34 ^^^ a.rotateRight 39) + ((a &&& b) ^^^ (a &&& c) ^^^ (b &&& c))
    [t + u, a, b, c, d + t, e, f, g]
  | _ => v
/-- The digest after a block. -/
def sha512Block (h : List Dword) (block : List Byte) : List Dword :=
  List.zipWith (· + ·) h ((sha512K.zip (sha512Words block 64).reverse).foldl sha512Round h)
/-- SHA-512 of a byte string (R68, R348). -/
def sha512 (m : List Byte) : List Byte :=
  let p := sha512Pad m
  (((List.range (p.length / 128)).map fun i => (p.drop (128 * i)).take 128).foldl sha512Block sha512H).flatMap fun w => beBytes 8 w.toNat

/-! ### RSASSA-PSS (R68) -/

/-- MGF1 with SHA-512: n mask bytes of a seed. -/
def mgf1 (seed : List Byte) (n : Nat) : List Byte :=
  ((List.range ((n + 63) / 64)).flatMap fun i => sha512 (seed ++ beBytes 4 i)).take n
/-- A power modulo n, by the exponent's bits, lowest first. -/
def powMod (n : Nat) : Nat → Nat → Nat → Nat
  | 0, _, _ => 1 % n
  | f + 1, b, e => (if e % 2 = 1 then b else 1) * powMod n f (b * b % n) (e / 2) % n
/-- The check of a 512-byte encoded message against a digest, for a modulus of 4,096 bits and a 64-byte salt. -/
def pssOk (digest em : List Byte) : Bool :=
  let h := (em.drop 447).take 64
  let db := List.zipWith (· ^^^ ·) (em.take 447) (mgf1 h 447)
  let body := db.drop 1
  em.getD 511 0 == 0xBC && decide ((em.getD 0 0).toNat < 128) && decide ((db.getD 0 0).toNat % 128 = 0) &&
  (body.take 381).all (· == 0) && body.getD 381 0 == 1 && sha512 (List.replicate 8 0 ++ digest ++ body.drop 382) == h
/-- The encoded message of a digest under a 64-byte salt: what `pssOk` accepts. -/
def pssEncode (digest salt : List Byte) : List Byte :=
  let h := sha512 (List.replicate 8 0 ++ digest ++ salt)
  let db : List Byte := List.replicate 382 0 ++ [1] ++ salt
  let em : List Byte := List.zipWith (· ^^^ ·) db (mgf1 h 447)
  (match em with
    | [] => []
    | b :: t => (b &&& 0x7F) :: t) ++ h ++ [0xBC]
/-- The 512 signature bytes of a digest under a private key, its modulus and exponent, with a salt (R68, R348). -/
def pssSign (key : Nat × Nat) (digest salt : List Byte) : List Byte :=
  beBytes 512 (powMod key.1 (key.2.log2 + 1) (beNat (pssEncode digest salt)) key.2)
/-- A modulus and exponent of RSA-4096. -/
def rsa4096 (key : Nat × Nat) : Bool := decide (2 ^ 4095 ≤ key.1) && decide (key.1 < 2 ^ 4096) && decide (2 ≤ key.2)
/-- Whether 512 signature bytes verify over a message under the public key that some bytes stand for (R68). -/
def sigVerifies (key msg sig : List Byte) : Bool :=
  let (n, e) := Config.rsaKey key
  let v := beNat sig
  rsa4096 (n, e) && sig.length == 512 && decide (v < n) && pssOk (sha512 msg) (beBytes 512 (powMod n (e.log2 + 1) v e))

end Sys2Proof.Machine
end

