-- ==== Sys2Proof/Machine/Image.lean ====
section
/-! DEFINITION. Image.lean: Lamnos images: the layout of the file, the checks of the loader's steps 1 to 3 and 5, and the slots a
variant claims (R42, R57 to R69, R102, R112, R287 to R289). -/
namespace Sys2Proof.Machine

/-! ### Bytes -/

/-- The little-endian number of n bytes at an offset (R2). -/
def le (bs : List Byte) (o n : Nat) : Nat := ofBytes ((bs.drop o).take n)
/-- Whether n bytes at an offset are zero. -/
def zeros (bs : List Byte) (o n : Nat) : Bool := ((bs.drop o).take n).all fun b => b == 0
/-- The bytes of equal records. -/
def records (bs : List Byte) (size count : Nat) : List (List Byte) :=
  (List.range count).map fun i => (bs.drop (size * i)).take size
/-- Set bits of a 64-bit map. -/
def bitsOf (v : Nat) : List Nat := (List.range 64).filter fun i => v.testBit i

/-! ### The directory (R62, R63) -/

/-- A directory entry. -/
structure DirEntry where
  type    : Nat
  variant : Nat
  off     : Nat
  size    : Nat
  core    : Nat
  deriving DecidableEq, Repr
/-- The entry of 16 bytes. -/
def dirEntry (b : List Byte) : DirEntry := {
  type := le b 0 2, variant := le b 2 2, off := le b 4 4, size := le b 8 4, core := le b 12 2 }
/-- The body of a section. -/
def DirEntry.body (d : DirEntry) (img : List Byte) : List Byte := (img.drop d.off).take d.size
/-- Sections keyed by a section index. -/
def DirEntry.bySection (d : DirEntry) : Bool := [1, 2, 3, 4, 12].contains d.type
/-- Whether two ranges overlap. An empty range that lies strictly inside another counts as overlapping it: of a section of size 0 whose
OFFSET lies inside another section the manual does not say (R63), and the image is refused. DESIGN CHOICE, log entry 101. -/
def overlaps (a n b m : Nat) : Bool := decide (a < b + m) && decide (b < a + n)
/-- No two members of a list are related. -/
def noneOf {α : Type} (r : α → α → Bool) : List α → Bool
  | [] => true
  | x :: t => (t.all fun y => !r x y) && noneOf r t
/-- The header checks of R62 on everything but the signature: MAGIC, FMTVER, reserved fields, NSECT, TWINW, NAME. -/
def headerOk (b : List Byte) : Bool :=
  le b 0 4 == 0x494E4D4C && le b 4 2 == 1 && decide (le b 6 2 < 2) && decide (1 ≤ le b 12 4) && decide (le b 12 4 ≤ 65535) &&
  decide (8 ≤ le b 24 2) && decide (le b 24 2 ≤ 4096) && zeros b 26 6 &&
  (let name := (b.drop 32).take 32
   let n := (name.takeWhile fun c => c != 0).length
   decide (1 ≤ n) && decide (n ≤ 31) && zeros name n 32 && name.all fun c => decide (c.toNat < 128))
/-- The directory of an image. -/
def dirOf (b : List Byte) : List DirEntry := (records (b.drop 64) 16 (le b 12 4)).map dirEntry
/-- A number that names a core of the package (R10). -/
def namesCore (k : Nat) : Bool := decide (k % 16 < (Config.siteType (k / 16)).cores)
/-- The CORE field of an entry (R63): a section index in the types keyed by one, else 0xFFFF or a package core id; a SLOT entry
reads only the site in it. -/
def DirEntry.coreOk (d : DirEntry) : Bool :=
  d.bySection || d.core == 0xFFFF || namesCore d.core || (d.type == 9 && decide (d.core / 16 < 50))
/-- The directory checks of R63. -/
def dirOk (b : List Byte) : Bool :=
  let n := le b 12 4
  let ds := dirOf b
  decide (64 + 16 * n ≤ le b 16 8) && ((records (b.drop 64) 16 n).all fun r => zeros r 14 2) &&
  (ds.all fun d => decide (1 ≤ d.type) && decide (d.type ≤ 12) && decide (64 + 16 * n ≤ d.off) && decide (d.off + d.size ≤ le b 16 8) &&
    (!d.bySection || d.variant == 0xFFFF) && d.coreOk) &&
  noneOf (fun x y => overlaps x.off x.size y.off y.size) ds

/-! ### Sections (R64, R312) -/

/-- One gap code (Table 3-5): the gap and the bytes it takes. -/
def gapCode (b : List Byte) : Option (Nat × Nat) :=
  let b0 := le b 0 1
  if b0 = 0 ∨ b.length = 0 then none
  else if b0 < 0x80 then some (b0, 1)
  else if b0 < 0xC0 then
    let v := b0 % 64 + 64 * le b 1 1
    if b.length < 2 ∨ v < 128 then none else some (v, 2)
  else
    let v := b0 % 64 + 64 * le b 1 3
    if b.length < 4 ∨ v < 16384 then none else some (v, 4)
/-- A number of gap codes: the gaps and the bytes they take. -/
def gapCodes : Nat → List Byte → Option (List Nat × Nat)
  | 0, _ => some ([], 0)
  | n + 1, b =>
    match gapCode b with
    | none => none
    | some (g, k) => (gapCodes n (b.drop k)).map fun p => (g :: p.1, k + p.2)
/-- The records of a TIMETABLE body: engine, start, gaps. -/
def timetable : Nat → List Byte → Option (List (Nat × Nat × List Nat))
  | _, [] => some []
  | 0, _ => none
  | f + 1, b =>
    if b.length < 12 ∨ 6 < le b 0 1 ∨ !zeros b 1 3 then none
    else match gapCodes (le b 8 4) (b.drop 12) with
      | none => none
      | some (gs, k) =>
        let pad := (4 - k % 4) % 4
        if b.length < 12 + k + pad ∨ !zeros b (12 + k) pad then none
        else (timetable f (b.drop (12 + k + pad))).map fun l => (le b 0 1, le b 4 4, gs) :: l
/-- Own words of an engine in a text (R31): its own, and those of ALL. -/
def ownAt (e : Nat) (t : List Word) : List Nat :=
  (t.zipIdx.filter fun (p : Word × Nat) => engField p.1 == 7 || (engField p.1).toNat == e).map Prod.snd
/-- The words of a TEXT body. -/
def textOf (b : List Byte) : List Word := (records b 4 (b.length / 4)).map fun r => BitVec.ofNat 32 (le r 0 4)
/-- The value of a symbol of a section (Table 3-4), by name. -/
def symbolOf (name : List Byte) (sect : Nat) : Nat → List Byte → Option Nat
  | 0, _ => none
  | f + 1, b =>
    match b with
    | [] => none
    | l :: t =>
      let n := l.toNat
      if t.take n = name ∧ le t n 2 = sect then some (le t (n + 2) 8) else symbolOf name sect f (t.drop (n + 10))
/-- Whether a SYMBOL body ends with a symbol. -/
def symbolsOk : Nat → List Byte → Bool
  | _, [] => true
  | 0, _ => false
  | f + 1, l :: t => decide (l.toNat + 10 ≤ t.length) && symbolsOk f (t.drop (l.toNat + 10))
/-- The ASCII letters of `utrap` (R318). -/
def utrapName : List Byte := [0x75, 0x74, 0x72, 0x61, 0x70]
/-- The body of the first section of a type with a key. The manual does not say what two sections of one type and key mean
where a key has one body: the first stands and the others are not read. DESIGN CHOICE, log entry 71. -/
def findBody (b : List Byte) (ds : List DirEntry) (p : DirEntry → Bool) : Option (List Byte) := (ds.find? p).map fun d => d.body b
/-- The bodies of every section that a test admits. -/
def bodies (b : List Byte) (ds : List DirEntry) (p : DirEntry → Bool) : List (List Byte) := (ds.filter p).map fun d => d.body b
/-- Whether a body that a section index keys obeys its limits (R62 to R64, R312). A TIMETABLE record of an engine that no bound
die has is accepted: the manual states no refusal. DESIGN CHOICE, log entry 72. -/
def bodyOk (b : List Byte) (ds : List DirEntry) (d : DirEntry) : Bool :=
  let body := d.body b
  match d.type with
  | 1 => body.length % 4 == 0 && decide (body.length / 4 ≤ 63488)
  | 2 => decide (8 ≤ body.length)
  | 3 =>
    let text := textOf ((findBody b ds fun x => x.type == 1 && x.core == d.core).getD [])
    match timetable 7 body with
    | none => false
    | some ts => noneOf (fun x y => x.1 == y.1) ts && ts.all fun t => t.2.2.length == (ownAt t.1 text).length
  | 4 => decide (8 ≤ body.length) && body.length % 32 == 8
  | 11 => symbolsOk body.length body
  | 12 => body.length == 12 && zeros body 4 8
  | _ => true
/-- A section of an image by its index: the first TEXT, TIMETABLE and ENTRY body of the index, and every DATA and SCHEDULE body
(DESIGN CHOICE, log entry 71). The manual does not say what an index without a TEXT section or without an ENTRY section is bound to: here an
empty text, and entry address 0. DESIGN CHOICE, log entry 101. -/
def sectionOf (b : List Byte) (ds : List DirEntry) (i : Nat) : Section :=
  let mine (t : Nat) (d : DirEntry) : Bool := d.type == t && d.core == i
  { text := textOf ((findBody b ds (mine 1)).getD [])
    data := (bodies b ds fun d => mine 2 d || mine 4 d).map fun x => (le x 0 8, x.drop 8)
    times := (timetable 7 ((findBody b ds (mine 3)).getD [])).getD []
    entry := le ((findBody b ds (mine 12)).getD []) 0 4
    utrap := (((bodies b ds fun d => d.type == 11).findSome? fun x => symbolOf utrapName i x.length x)).getD 0 }

/-! ### Variants (R65, R66, R102, R112, R287) -/

/-- A VARIANT body: its limits (R65). -/
def variantOk (x : List Byte) : Bool :=
  let need := le x 4 8
  let route := le x 12 8
  let n := le x 20 4
  decide (24 ≤ x.length) && x.length == 24 + 12 * n && (need &&& route) == 0 && decide (need < 2 ^ 50) && decide (route < 2 ^ 50) &&
  (records (x.drop 24) 12 n).all fun r => zeros r 10 2 && need.testBit (le r 0 2 / 16) && decide (le r 0 2 < 1024)
/-- A binding of 12 bytes. -/
def bindOf (r : List Byte) : Binding := {
  core := BitVec.ofNat 10 (le r 0 2), sect := le r 2 2, budget := BitVec.ofNat 32 (le r 4 4), late := BitVec.ofNat 16 (le r 8 2) }
/-- A translation entry of 24 bytes (Table 5-2). -/
def transOf (r : List Byte) : TransEntry := {
  vbase := dw (le r 0 8), target := dw (le r 8 8), lsz := le r 16 1, cls := le r 17 1, home := le r 18 1, perm := le r 19 1 }
/-- A descriptor of 16 bytes (Table 5-8). -/
def planeOf (r : List Byte) : PlaneDesc :=
  let mode := le r 11 1
  { vbase := dw (le r 0 8), units := le r 8 2, group := BitVec.ofNat 6 (le r 10 1), wide := mode.testBit 0
    collide := mode / 2 % 8, clear := mode.testBit 4, shared := mode.testBit 5 }
/-- The reserved-zero rules of a REGION body, and its length. -/
def regionOk (x : List Byte) : Bool :=
  let nt := le x 0 4
  let np := le x 4 4
  let ns := le x 8 4
  x.length == 12 + 24 * nt + 16 * np + 16 * ns &&
  ((records (x.drop 12) 24 nt).all fun r => zeros r 20 4) &&
  ((records (x.drop (12 + 24 * nt)) 16 np).all fun r => zeros r 12 4 && decide (le r 11 1 < 64)) &&
  ((records (x.drop (12 + 24 * nt + 16 * np)) 16 ns).all fun r => zeros r 1 7)
/-- A group as its bytes give it: id, scope code and members, each at the width it has in the body. -/
structure RawGroup where
  id      : Nat
  scope   : Nat
  members : List Nat
  deriving DecidableEq, Repr
/-- The groups of a GROUP body; none when it does not end with a group. -/
def rawGroups : Nat → List Byte → Option (List RawGroup)
  | _, [] => some []
  | 0, _ => none
  | f + 1, b =>
    let n := le b 2 2
    if b.length < 4 + 2 * n then none
    else (rawGroups f (b.drop (4 + 2 * n))).map fun l =>
      { id := le b 0 1, scope := le b 1 1, members := (records (b.drop 4) 2 n).map fun r => le r 0 2 } :: l
/-- The group that the bytes give. -/
def RawGroup.group (g : RawGroup) : Group := {
  id := BitVec.ofNat 6 g.id, scope := BitVec.ofNat 3 g.scope, members := g.members.map (BitVec.ofNat 10) }
/-- The numbers of a group lie in its fields (R58, R59): an id of 0 to 63, a scope code of Table 6-2, and core ids of the package. -/
def RawGroup.fits (g : RawGroup) : Bool :=
  decide (g.id < 64) && decide (2 ≤ g.scope) && decide (g.scope ≤ 5) && g.members.all namesCore
/-- The limits of the bodies that a variant keys (R62 to R66). -/
def keyedOk (d : DirEntry) (x : List Byte) : Bool :=
  match d.type with
  | 5 => variantOk x
  | 6 => x.length % 16 == 0 && (records x 16 (x.length / 16)).all fun r => zeros r 3 5
  | 7 => regionOk x
  | 8 => (rawGroups x.length x).isSome
  | 9 => x.length == 4 + 8 * le x 0 4 && (records (x.drop 4) 8 (le x 0 4)).all fun r => le r 6 2 == 0
  | 10 => x.length % 8 == 0 && (records x 8 (x.length / 8)).all fun r => zeros r 6 2
  | _ => true
/-- The bodies of a type that a variant's id keys, each with its entry. -/
def keyedBodies (b : List Byte) (ds : List DirEntry) (id type : Nat) : List (DirEntry × List Byte) :=
  (ds.filter fun e => e.type == type && e.variant == id).map fun e => (e, e.body b)
/-- Whether the numbers in the sections of a variant lie in the fields they fill, before any is cut to its field (R58 to R61, R66,
R112, at step 3 of R67): ring handles, group ids, scopes and members, counts of the translation entries and descriptors, the
descriptors' groups, and the cores and handles of the SYNC records. -/
def rawOk (b : List Byte) (ds : List DirEntry) (id : Nat) : Bool :=
  ((keyedBodies b ds id 6).all fun p => (records p.2 16 (p.2.length / 16)).all fun r => decide (le r 0 1 < 16)) &&
  ((keyedBodies b ds id 7).all fun p => decide (le p.2 0 4 ≤ 4096) && decide (le p.2 4 4 ≤ 64) &&
    (records (p.2.drop (12 + 24 * le p.2 0 4)) 16 (le p.2 4 4)).all fun r => decide (le r 10 1 < 64)) &&
  ((keyedBodies b ds id 8).all fun p => ((rawGroups p.2.length p.2).getD []).all RawGroup.fits) &&
  ((keyedBodies b ds id 10).all fun p => (records p.2 8 (p.2.length / 8)).all fun r =>
    namesCore (le r 0 2) && namesCore (le r 2 2) && decide (le r 4 1 < 16))
/-- The variant that a VARIANT section describes, with the sections of its id; of two REGION sections the first stands (DESIGN
CHOICE, log entry 71). -/
def variantOf (b : List Byte) (ds : List DirEntry) (d : DirEntry) : Variant :=
  let x := d.body b
  let mine := keyedBodies b ds d.variant
  let region := ((mine 7).map Prod.snd).head?.getD (List.replicate 12 0)
  let nt := le region 0 4
  let np := le region 4 4
  { id := le x 0 2, rank := le x 2 2, need := bitsOf (le x 4 8), route := bitsOf (le x 12 8)
    binds := (records (x.drop 24) 12 (le x 20 4)).map bindOf
    rings := (mine 6).flatMap fun p => (records p.2 16 (p.2.length / 16)).map fun r =>
      { core := BitVec.ofNat 10 p.1.core, h := BitVec.ofNat 4 (le r 0 1), lsz := le r 1 1, count := le r 2 1, base := le r 8 8 }
    trans := (records (region.drop 12) 24 nt).map transOf
    planes := (records (region.drop (12 + 24 * nt)) 16 np).map planeOf
    shares := (records (region.drop (12 + 24 * nt + 16 * np)) 16 (le region 8 4)).map fun r => (le r 0 1, le r 8 8)
    groups := (mine 8).flatMap fun p => ((rawGroups p.2.length p.2).getD []).map RawGroup.group
    slots := (mine 9).flatMap fun p => (records (p.2.drop 4) 8 (le p.2 0 4)).map fun r =>
      slotEntry (p.1.core / 16) (dw (le r 0 8))
    syncs := (mine 10).flatMap fun p => (records p.2 8 (p.2.length / 8)).map fun r =>
      { src := BitVec.ofNat 10 (le r 0 2), dst := BitVec.ofNat 10 (le r 2 2), h := BitVec.ofNat 4 (le r 4 1), lsz := le r 5 1 } }

/-! ### Routes and slots of a variant (R66, R288, R289) -/

/-- Sites a variant may pass. -/
def Variant.passes (v : Variant) (site : Nat) : Bool := v.need.contains site || v.route.contains site
/-- Route of a SYNC record. -/
def Variant.routeOfSync (v : Variant) (r : SyncRec) : Option (List Hop) :=
  routeOf v.passes (r.src.toNat / 16) (r.dst.toNat / 16)
/-- Slots that a core owns on a link of its site. -/
def Variant.owned (v : Variant) (k : CoreId) (link : Nat) : List Nat :=
  (List.range 368).filter fun n => v.slots.any fun q => q.site == k.toNat / 16 && q.link == link && q.core == k.toNat % 16 &&
    decide (q.first ≤ n) && decide (n < q.first + q.count)
/-- The slot of a later die that a push in slot n of the first link uses, after hops of so many cycles (R289). -/
def transitSlot (src site n hops : Nat) : Nat :=
  (n / 6 + siteOffset src + hops + 64 * 4 - siteOffset site) % 64 * 6 + n % 6
/-- The later hops of a route, each with the sum of the latencies before it. -/
def laterHops (done : Nat) : List Hop → List (Hop × Nat)
  | h :: g :: t => (g, done + hopCycles h.2) :: laterHops (done + hopCycles h.2) (g :: t)
  | _ => []
/-- The transit claims that a SYNC record derives (R288, R289), each with the owned slot it serves: producer, first link, slot. -/
def Variant.transit (v : Variant) (r : SyncRec) : List ((CoreId × Nat × Nat) × SlotClaim) :=
  match v.routeOfSync r with
  | some (h :: t) => (v.owned r.src h.2).flatMap fun n => (laterHops 0 (h :: t)).map fun p => ((r.src, h.2, n),
      { site := p.1.1, link := p.1.2, core := 0xFF, first := transitSlot (r.src.toNat / 16) p.1.1 n p.2, count := 1 })
  | _ => []
/-- Every slot claim of a variant, owned and transit. The routes of one owned slot share a claim where they pass the same slot; those of
two owned slots never do (R287). -/
def Variant.claims (v : Variant) : List SlotClaim := v.slots ++ ((v.syncs.flatMap v.transit).eraseDups.map Prod.snd)
/-- A SYNC record is consistent with its variant (R66). A ring of another slot size than the record's is not the ring that it names, so the
variant is dropped: the manual does not say what a difference means. DESIGN CHOICE, log entry 97. -/
def Variant.syncOk (v : Variant) (r : SyncRec) : Bool :=
  (v.rings.any fun q => q.core == r.dst && q.h == r.h && q.lsz == r.lsz) && (v.binds.any fun b => b.core == r.src) &&
  (match v.routeOfSync r with
    | none => false
    | some [] => true
    | some (h :: _) => !(v.owned r.src h.2).isEmpty && (v.transit r).all fun q => decide (q.2.first < 368))

/-! ### Consistency of a variant (R58 to R61, R67 step 3) -/

/-- A ring declaration lies in the scratch of its core (R61). -/
def RingDecl.ok (r : RingDecl) : Bool :=
  decide (6 ≤ r.lsz) && decide (r.lsz ≤ 16) && decide (1 ≤ r.count) && decide (r.count ≤ 64) && r.base % 2 ^ r.lsz == 0 &&
  decide (r.base + 2 ^ r.lsz * r.count ≤ (Config.siteType (r.core.toNat / 16)).scratch)
/-- Two declarations of one core that clash (R61). -/
def RingDecl.clash (a b : RingDecl) : Bool :=
  a.core == b.core && (a.h == b.h || overlaps a.base (2 ^ a.lsz * a.count) b.base (2 ^ b.lsz * b.count))
/-- A group has its members bound, in one instance of its scope (R59). A group of no member, a step group too, is accepted: the manual states
no least number. DESIGN CHOICE, log entry 101. -/
def Variant.groupOk (v : Variant) (g : Group) : Bool :=
  let unit (k : CoreId) : Nat := if g.scope = 2 then k.toNat / 4 else k.toNat / 16
  decide (2 ≤ g.scope.toNat) && decide (g.scope.toNat ≤ 5) && (g.members.all fun k => v.binds.any fun b => b.core == k) &&
  (decide (4 ≤ g.scope.toNat) || match g.members with
    | [] => true
    | k :: t => t.all fun j => unit j == unit k)
/-- The fields of a translation entry (Table 5-2, R102). -/
def TransEntry.ok (e : TransEntry) : Bool :=
  decide (16 ≤ e.lsz) && decide (e.lsz ≤ 36) && e.vbase.toNat % 2 ^ e.lsz == 0 && isTranslated e.vbase.toNat &&
  decide (e.vbase.toNat + 2 ^ e.lsz ≤ 0xFF00000000000000) && decide (1 ≤ e.perm) && decide (e.perm ≤ 3) &&
  (if e.cls = 3 then e.home == 0xFF && decide (e.target.toNat < 2 ^ 61) && e.target.toNat % min (2 ^ e.lsz) pageBytes == 0
   else decide (e.cls < 3) && decide (e.home < 8) && decide (e.target.toNat < 2 ^ 49) && e.target.toNat % min (2 ^ e.lsz) pageBytes == 0 &&
     decide (e.target.toNat + 2 ^ e.lsz ≤ classBytes e.cls))
/-- The sites that hold members of a group. -/
def Group.sites (g : Group) : List Nat := (g.members.map fun k => k.toNat / 16).eraseDups
/-- The addressable size of the variant's die-shared share at a site: the DSHR of its share record (R102, R104). -/
def Variant.shareAt (v : Variant) (site : Nat) : Nat := ((v.shares.find? fun q => q.1 == site).map Prod.snd).getD 0
/-- A planed region (Table 5-8, R112). A DSHARED one lies in the share of every die that holds members of its group (R60). -/
def Variant.planeOk (v : Variant) (d : PlaneDesc) : Bool :=
  let n := 65536 * d.units
  decide (d.collide < 5) && (d.collide != 2 || !d.wide) && (d.collide != 4 || !d.wide) && (d.collide != 3 || d.wide) &&
  d.vbase.toNat % 65536 == 0 && decide (1 ≤ d.units) &&
  (match v.groups.find? fun g => g.id == d.group with
    | none => false
    | some g =>
      if d.shared then
        decide (d.units ≤ 96) && (g.scope == 2 || g.scope == 3) && decide (sharedBase ≤ d.vbase.toNat) &&
          decide (d.vbase.toNat + n ≤ sharedBase + Config.dieSharedBytes) &&
          g.sites.all fun site => decide (d.vbase.toNat + n ≤ sharedBase + v.shareAt site)
      else
        decide (d.units ≤ 3200) && v.trans.any fun e => e.cls == 0 && decide (e.vbase.toNat ≤ d.vbase.toNat) &&
          decide (d.vbase.toNat + n ≤ e.vbase.toNat + 2 ^ e.lsz))
/-- The site that a translation entry's traffic goes to. -/
def TransEntry.homeSite (e : TransEntry) : Nat := if e.cls = 3 then clSite (e.target.toNat / 2 ^ 48) else Config.bfSite e.home
/-- The home rule (R288). -/
def Variant.homeOk (v : Variant) : Bool :=
  let sites := (v.binds.map fun b => b.core.toNat / 16).eraseDups
  ((v.trans.map TransEntry.homeSite).eraseDups).all fun h => v.need.contains h &&
    sites.all fun t => (routeOf v.passes t h).isSome && (routeOf v.passes h t).isSome
/-- A share record (R102). -/
def shareOk (p : Nat × Nat) : Bool := (Config.siteType p.1).hasShared && p.2 % 65536 == 0 && decide (p.2 ≤ Config.dieSharedBytes)
/-- A binding names a core of the package and a section, whose timetable has a record for each engine of the die (R10, R64). -/
def bindingOk (secs : List Section) (b : Binding) : Bool :=
  let die := Config.siteType (b.core.toNat / 16)
  decide (b.core.toNat % 16 < die.cores) && (match secs[b.sect]? with
    | none => false
    | some x => ((List.range 7).filter die.hasEngine).all fun e => x.times.any fun t => t.1 == e)
/-- The data of a section lies in a memory that the bound core reaches (R58, R102). The manual states no refusal for a target
that lies in none, in a POD entry, or across two entries; the model drops the variant. DESIGN CHOICE, log entry 71. -/
def Variant.dataOk (v : Variant) (secs : List Section) (b : Binding) : Bool :=
  let site := b.core.toNat / 16
  let die := Config.siteType site
  ((secs.getD b.sect {}).data).all fun p =>
    let e := p.1 + p.2.length
    decide (e ≤ die.scratch) || (die == .mx && decide (wstackBase ≤ p.1) && decide (e ≤ wstackBase + Config.weightStackBytes)) ||
    (decide (sharedBase ≤ p.1) && decide (e ≤ sharedBase + v.shareAt site)) ||
    v.trans.any fun t => t.cls != 3 && decide (t.vbase.toNat ≤ p.1) && decide (e ≤ t.vbase.toNat + 2 ^ t.lsz)
/-- Step 3 of R67. Two groups of one id drop the variant: the manual says nothing of them. DESIGN CHOICE, log entry 97. -/
def Variant.ok (v : Variant) (secs : List Section) : Bool :=
  decide (v.id < 256) && decide (v.rank < 256) && (v.binds.all (bindingOk secs)) && (v.binds.all (v.dataOk secs)) && noneOf (fun a b => a.core == b.core) v.binds &&
  (v.rings.all fun r => r.ok && v.binds.any fun b => b.core == r.core) && noneOf RingDecl.clash v.rings &&
  (v.groups.all v.groupOk) && noneOf (fun a b => a.id == b.id) v.groups &&
  (v.trans.all TransEntry.ok) && noneOf (fun a b => overlaps a.vbase.toNat (2 ^ a.lsz) b.vbase.toNat (2 ^ b.lsz)) v.trans &&
  (v.planes.all v.planeOk) && noneOf (fun a b => overlaps a.vbase.toNat (65536 * a.units) b.vbase.toNat (65536 * b.units)) v.planes &&
  (v.shares.all shareOk) && noneOf (fun a b => a.1 == b.1) v.shares &&
  (v.slots.all fun q => (linkTo q.site q.link).isSome && (q.core == 0xFF || decide (q.core < (Config.siteType q.site).cores)) &&
    decide (1 ≤ q.count) && decide (q.first + q.count ≤ 368)) &&
  (v.syncs.all v.syncOk) && noneOf SlotClaim.meets v.claims && v.homeOk
/-- The scan of step 5 (R42): no word names an engine that the die of its site lacks. -/
def Variant.scanOk (v : Variant) (secs : List Section) : Bool :=
  v.binds.all fun b => ((secs.getD b.sect {}).text).all fun w =>
    engField w == 7 || (Config.siteType (b.core.toNat / 16)).hasEngine (engField w).toNat

/-! ### The image (R67, R68, R347) -/

/-- The key of a slot of the image key store; slot 0 holds Sirade's (R347). -/
def HostUnit.keyAt (h : HostUnit) (slot : Nat) : List Byte := if slot = 0 then Config.siradeKey else h.keys.getD slot []
/-- Step 1 of R67: the signature block (R68). -/
def HostUnit.signed (h : HostUnit) (b : List Byte) : Bool :=
  let so := le b 16 8
  let key := h.keyAt (le b so 4)
  decide (le b so 4 < 8) && !key.isEmpty && sigVerifies key (b.take so) ((b.drop (so + 8)).take 512)
/-- The VARIANT sections of a directory; of two with one id the first stands alone (DESIGN CHOICE, log entry 71). -/
def variantDirs (ds : List DirEntry) : List DirEntry :=
  let vs := ds.filter fun d => d.type == 5
  (vs.zipIdx.filter fun p => (vs.take p.2).all fun q => q.variant != p.1.variant).map Prod.fst
/-- Steps 1 to 3 of R67: the image, or the reason of its refusal. An image whose length is not SIGOFF + 520 takes reason 0x04, image
format: R68 refuses it and Table 15-5 names no reason for that case. DESIGN CHOICE, log entry 72. A variant whose body holds another id
than its directory entry is dropped as inconsistent: the manual does not say which of the two counts. DESIGN CHOICE, log entry 97. Of a
section of types 6 to 10 whose variant id has no VARIANT section the manual says nothing: its form is checked with the others, and then
nothing reads it. DESIGN CHOICE, log entry 101. -/
def HostUnit.checkImage (h : HostUnit) (id : BitVec 32) (b : List Byte) : Except Byte Image :=
  let so := le b 16 8
  if b.length < 64 ∨ b.length ≠ so + 520 then .error 4
  else if !h.signed b then .error 3
  else
    let ds := dirOf b
    if !headerOk b || !zeros b (so + 4) 4 || !dirOk b || !(ds.all fun d => bodyOk b ds d && keyedOk d (d.body b)) then .error 4
    else
      let n := ((ds.filter fun d => d.type == 1).map fun d => d.core + 1).foldl max 0
      let secs := (List.range n).map (sectionOf b ds)
      let vs := ((variantDirs ds).map fun d => (d.variant, variantOf b ds d)).filterMap fun (p : Nat × Variant) =>
        if p.1 = p.2.id ∧ rawOk b ds p.1 ∧ p.2.ok secs then some p.2 else none
      if vs.isEmpty then .error 4
      else .ok {
        id := id, version := le b 8 4, mirror := (le b 6 2).testBit 0, twin := le b 24 2, sections := secs, variants := vs
        excluded := [], digest := sha512 (b.take so) }

end Sys2Proof.Machine
end

