-- ==== Sys2Proof/Machine/Launch.lean ====
section
/-! DEFINITION. Launch.lean: installing a variant and the launch sequencer: placement, pre-emption, resume (R67 to R70, R75, R104,
R118, R318, R320 to R323). -/
namespace Sys2Proof.Machine

/-! ### Installing (R67 step 6, R75, R118, R311, R318) -/

/-- The text of a section as it stands in instruction SRAM. -/
def textStore (t : List Word) : Store Word :=
  t.zipIdx.filterMap fun (p : Word × Nat) => if p.1 = 0 then none else some (p.2, p.1)
/-- The timetable of an engine: the gap of each of its own words in text order (R64). -/
def Section.tableOf (x : Section) (e : Nat) : Timetable :=
  match x.times.find? fun t => t.1 == e with
  | none => {}
  | some (_, start, gs) => {
      start := start
      gaps := ((ownAt e x.text).zip gs).filterMap fun p => if p.2 ≤ 1 then none else some (p.1, p.2 - 1) }
/-- A core as the loader leaves it: zeroed, with its text, timetables, entry, windows, rings and trap registers. An entry address of
65,536 or more names no text address and the manual gives no refusal: its low 16 bits are taken. DESIGN CHOICE, log entry 71. -/
def Binding.start (b : Binding) (r : LaunchRec) (img : Image) (v : Variant) (x : CtxId) : Core :=
  let sec := img.sections.getD b.sect {}
  let size := (Config.siteType (b.core.toNat / 16)).scratch
  let rank := (v.binds.filter fun q => decide (q.core < b.core)).length
  let carve := decide (r.splsz < size)
  let sp : SprUnit := {
    twin := BitVec.ofNat 13 img.twin, budget := b.budget, level := r.plevel, req := r.plevel
    splsz := if carve then BitVec.ofNat 23 r.splsz else 0
    splb := BitVec.ofNat 23 (if carve then size - r.splsz else size)
    ovfp := if carve && r.ovfpb != 0 then r.ovfpb + dw (2 ^ 20 * (rank + 1)) else 0 }
  let hs := (v.rings.filter fun q => q.core == b.core).foldl (fun (hs : Vector Handle 16) q => hs.setIfInBounds q.h.toNat {
    defined := true, base := BitVec.ofNat 24 q.base, lsz := BitVec.ofNat 4 (q.lsz - 6), cntm1 := BitVec.ofNat 6 (q.count - 1) })
    (Vector.replicate 16 {})
  { id := b.core, ctx := x, live := true, frozen := true, text := textStore sec.text, text0 := textStore sec.text
    tt := Vector.ofFn fun e => sec.tableOf e.val
    eng := Vector.replicate 7 { pc := BitVec.ofNat 16 sec.entry, late := b.late }
    ctl := { g := (Vector.replicate 32 0).setIfInBounds 2 (dw size), lates := Vector.replicate 7 b.late }
    trap := { uvec := BitVec.ofNat 16 sec.utrap, tdeleg := r.deleg &&& delegMask }
    spr := sp, handles := hs }
/-- The context of a kernel under a variant, where some BF dies are not good. -/
def mkCtx (dead : List Nat) (l : Launch) (i : Nat) (img : Image) (v : Variant) (x : CtxId) : Context := {
  id := x, rec_ := { l.rec_ with mirror := l.rec_.mirror || img.mirror }, launch := l.id, node := some i, variant := v.id
  phase := .placed, cores := v.binds.map fun b => b.core, trans := v.trans, planes := v.planes, shares := v.shares
  groups := v.groups, claims := v.claims
  routes := v.syncs.filterMap fun r => (v.routeOfSync r).map fun p => { src := r.src, dst := r.dst, handle := r.h, hops := p }
  need := v.need, route := v.route, pages := [], pods := [], energy := 0, preempts := 0, frozeAt := 0, freeze := []
  held := [], dead := dead }
/-- The context's part of the memories is set to zero (R118). -/
def State.zeroFor (s : State) (x : Context) : State :=
  let s1 := ((x.cores.map fun k => k.toNat / 16).eraseDups).foldl (fun (s : State) h =>
    { s with dsh := Store.clear s.dsh (sharedKey x.id h 0) (2 ^ 24) }.cleared ((Place.shared (sharedKey x.id h 0)).span s.core true (2 ^ 24))) { s with planes := s.planes.filter fun y => y.ctx != x.id }
  x.planes.foldl (fun (s : State) d =>
    if d.shared then s else
      match x.entryAt d.vbase.toNat with
      | some e => match x.placeOf e d.vbase.toNat with
        | .stage b k =>
          { s with stage := Store.clear s.stage k (65536 * d.units) }.cleared ((Place.stage b k).span s.core true (65536 * d.units))
        | _ => s
      | none => s) s1
/-- Bytes are written at a place that core c reaches, by no engine of it: marks of the words they cover clear (R351), and a unit of the weight
stack has no longer been copied whole from one source (R323). -/
def State.putBytes (s : State) (c : Core) (p : Place) (bs : List Byte) : State :=
  let s1 := (s.writeBytesAt c.id p bs).cleared (p.span c true bs.length)
  match p with
  | .wstack k => s1.modCore c.id fun c => { c with wsrec := (wsUnits k bs.length).foldl (fun r u => Store.set 0 r u wsOther) c.wsrec }
  | _ => s1
/-- The DATA and SCHEDULE sections of a core are written (R67). -/
def State.loadData (s : State) (k : CoreId) (sec : Section) : State :=
  sec.data.foldl (fun s p =>
    match s.coreAt k with
    | none => s
    | some c => match s.locate c p.1 p.2.length with
      | .ok (pl, _) => s.putBytes c pl p.2
      | .error _ => s) s
/-! ### Room (R69, R104) -/

/-- Whether a context has a page reserve in a class at a home: a STAGE or HBM entry names that BF die (R104). -/
def Context.reserves (x : Context) (cls home : Nat) : Bool :=
  decide (cls < 2) && x.trans.any fun e => decide (e.cls < 2) && e.home == home
/-- Bytes of the page reserve that a context's loading takes. -/
def Context.reserveAt (x : Context) (cls home : Nat) : Nat := if x.reserves cls home then pageBytes * x.rec_.reserve else 0
/-- Bytes of die-shared scratch that a context holds at a site. -/
def Context.sharedAt (x : Context) (site : Nat) : Nat :=
  if x.cores.any fun k => k.toNat / 16 == site then
    x.share site + ((x.planes.filter fun d => d.shared && (x.members d.group).any fun k => k.toNat / 16 == site).map PlaneDesc.extra).sum
  else 0
/-- Whether contexts have room beside one another in every memory: exact ranges apart, and enough bytes for the rest. -/
def roomFor (x : Context) (others : List Context) : Bool :=
  ((List.range 3).all fun cls => (List.range 8).all fun h =>
    let mine := x.ranges cls h
    let rest := others.flatMap fun y => y.holds cls h
    let more := (if cls = 0 then ((x :: others).map fun y => y.extraAt h).sum else 0) + x.reserveAt cls h
    (mine.all fun r => decide (r.1 + r.2 ≤ classBytes cls) && rest.all fun q => !overlaps r.1 r.2 q.1 q.2) &&
      decide (covered (mine ++ rest) + more ≤ classBytes cls)) &&
  (List.range 50).all fun site => decide (((x :: others).map fun y => y.sharedAt site).sum ≤ Config.dieSharedBytes)
/-- A context with the pages of its reserve found, in each class at each home (R104); none where a page finds no place. -/
def State.withReserve (s : State) (x : Context) : Option Context :=
  ((List.range 16).flatMap fun i => List.replicate (if x.reserves (i / 8) (i % 8) then x.rec_.reserve else 0) (i / 8, i % 8)).foldl
    (fun x q => x.bind fun x => (s.freePage x q.1 q.2 pageBytes).map fun o => { x with spare := x.spare ++ [(q.1, q.2, o, pageBytes)] })
    (some x)
/-- A variant fits (R69): its sites read good, or routing-only where that suffices, no memory is too small, and it names no memory of a BF
die that is not good, its saves included (R22). -/
def State.fits (s : State) (x : Context) : Bool :=
  (s.deadBf.all fun h => x.extraAt h == 0 && x.saveLen h == 0 && x.trans.all fun e => decide (2 < e.cls) || e.home != h) &&
  (x.need.all fun h => s.siteStatus h == 0) && (x.route.all fun h => s.siteStatus h == 0 || s.siteStatus h == 3) && roomFor x []
/-- Contexts that hold cores and slots. -/
def State.holders (s : State) : List Context := s.ctxs.filter fun y => !y.released
/-- Whether a context holds a core or a slot that another needs. -/
def Context.blocks (y x : Context) : Bool :=
  (y.cores.any fun k => x.cores.contains k) || y.claims.any fun q => x.claims.any q.meets
/-- A variant is placeable (R69). -/
def State.placeable (s : State) (x : Context) : Bool :=
  s.fits x && (s.holders.all fun y => !y.blocks x) && roomFor x s.ctxs && (s.withReserve x).isSome
/-- The lowest free CTXID from 1 to 7 (R20, R320). -/
def State.freeId (s : State) : Option CtxId :=
  ((List.range 7).map fun i => BitVec.ofNat 3 (i + 1)).find? fun x => s.ctxs.all fun y => y.id != x

/-- A variant is installed for a kernel; loading takes a time that the manual does not fix (R67). -/
def State.install (s : State) (l : Launch) (i : Nat) (img : Image) (v : Variant) (xid : CtxId) : State :=
  let x0 := { mkCtx s.deadBf l i img v xid with frozeAt := s.clock + Config.freeDelay s.free }
  let x := (s.withReserve x0).getD x0
  let s1 := ({ s with free := s.free + 1, ctxs := s.ctxs ++ [x] }.zeroFor x).addCores (v.binds.map fun (b : Binding) => b.start l.rec_ img v xid)
  let s2 := v.binds.foldl (fun s b => s.loadData b.core (img.sections.getD b.sect {})) s1
  s2.setLaunch { l with state := l.state.set i .running }

/-! ### The sequencer (R69, R70, R320, R321) -/

/-- What a cycle of the sequencer does. -/
inductive Pick where
  | resume (x : Context)
  | place (l : Launch) (i : Nat) (img : Image) (v : Variant) (x : CtxId)
  /-- A variant fails the scan of step 5 and is excluded. -/
  | exclude (img : Image) (v : Nat)
  /-- No variant fits, or each that does is excluded. -/
  | refuse (l : Launch) (scan : Bool)
  | preempt (xs : List Context)
  deriving DecidableEq, Repr
/-- Insert a variant by rank, then id (R69). -/
def insertVariant (v : Variant) : List Variant → List Variant
  | [] => [v]
  | w :: t => if v.rank < w.rank ∨ (v.rank = w.rank ∧ v.id < w.id) then v :: w :: t else w :: insertVariant v t
/-- A context that stands in the way and is on its way out already: told to freeze for a pre-emption or a kill, being saved, or killed. -/
def Context.leaving (x : Context) : Bool :=
  x.phase == .saving || x.phase == .killed || x.freeze.any fun f => f.1 == .preempt || f.1 == .kill
/-- The contexts that a variant has to pre-empt, lowest PRIO first and the latest placed first, but for those that leave already: none
where the variant is not taken, since one that stands in its way is not of lower PRIO, or its memory finds no room (R321). -/
def State.victimsOf (s : State) (prio : Nat) (x : Context) : Option (List Context) :=
  let bs := s.holders.filter fun y => y.blocks x
  if s.fits x && roomFor x s.ctxs && (s.withReserve x).isSome && !bs.isEmpty && bs.all fun y => decide (y.rec_.prio < prio) then
    some ((List.range 8).flatMap fun p => (bs.filter fun y => y.rec_.prio == p && !y.leaving).reverse)
  else none
/-- What the sequencer can do for a kernel that is queued (R67, R69, R320, R321). -/
def State.tryKernel (s : State) (l : Launch) (i : Nat) (n : GNode) : Option Pick :=
  match s.host.images.find? fun g => g.id == n.image with
  | none => some (.refuse l false)
  | some img =>
    let all := img.variants.foldl (fun t v => insertVariant v t) []
    let fit := all.filter fun v => s.fits (mkCtx s.deadBf l i img v 1)
    let open_ := fit.filter fun v => !img.excluded.contains v.id
    if open_.isEmpty then some (.refuse l (!fit.isEmpty))
    else match s.freeId with
      | none => none
      | some x =>
        match open_.find? fun v => s.placeable (mkCtx s.deadBf l i img v x) with
        | some v => if v.scanOk img.sections then some (.place l i img v x) else some (.exclude img v.id)
        | none =>
          if l.rec_.preempt then
            (open_.findSome? fun v => s.victimsOf l.rec_.prio (mkCtx s.deadBf l i img v x)).bind fun vs =>
              if vs.isEmpty then none else some (.preempt vs)
          else none
/-- The kernels of a launch that are queued. -/
def Launch.queued (l : Launch) : List (Nat × GNode) :=
  l.nodes.zipIdx.filterMap fun (p : GNode × Nat) => if l.state[p.2]? = some .queued then some (p.2, p.1) else none
/-- The context of a list that was frozen last, and the first of those frozen together: of equal PRIO the latest placed was pre-empted
first, so an earlier one stands before it in their queue (R321). -/
def lastFrozen (l : List Context) : Option Context :=
  l.foldl (fun b x => match b with
    | some y => if y.frozeAt < x.frozeAt then some x else b
    | none => some x) none
/-- What the sequencer finds in a queue: pre-empted contexts stand at its head, the latest first (R320, R321). -/
def State.pickIn (s : State) (prio : Nat) : Option Pick :=
  match lastFrozen (s.ctxs.filter fun x => x.rec_.prio == prio && s.canResume x) with
  | some x => some (.resume x)
  | none => (s.host.launches.filter fun l => l.rec_.prio == prio).findSome? fun l => l.queued.findSome? fun p => s.tryKernel l p.1 p.2
/-- What the sequencer does next: queue 7 first (R320). It runs on SW0, and a die that is not good executes nothing (R22): where SW0 is not
good no launch is placed and no context is resumed. DEDUCED (log entry 100). -/
def State.pick (s : State) : Option Pick :=
  if s.host.boot = .running ∧ s.siteStatus Config.sequencerSite = 0 then [7, 6, 5, 4, 3, 2, 1, 0].findSome? s.pickIn else none
/-- LAUNCH_PLACE (R320): the first ready kernel with a placeable variant is placed, or a kernel is refused, or victims are told
to freeze. -/
def execLaunchPlace (s : State) : Out :=
  match s.pick with
  | some (.place l i img v x) => ok (s.install l i img v x)
  | some (.exclude img v) => ok { s with host := { s.host with
      images := s.host.images.map fun g => if g.id = img.id then { g with excluded := v :: g.excluded } else g } }
  | some (.refuse l scan) => ok ((s.notice (if scan then .refusal l.seq 4 else .mix l.id)).nodeFault l.id)
  | some (.preempt xs) => ok (xs.foldl (fun s x => s.modCtx x.id fun y => y.ask .preempt s.clock) s)
  | _ => ok s
/-- An uncorrectable error in a save is logged (R352): of HBM4E, at the save home of the context's first core, where the manual fixes none
of its detail; `lost` says that it ends the context. DESIGN CHOICE (log entry 93). -/
def State.noteSave (s : State) (x : Context) (lost : Bool) : State :=
  let site := Config.bfSite (saveHome x.dead ((x.cores.headD 0).toNat / 16))
  { s with free := s.free + 3 }.logAt site {
    time := s.clock, kind := 6, site := site, unit := (Config.freeEval s.free).setWidth 16, ctx := x.id
    action := if lost then 3 else 0, lost := 0, addr := Config.freeEval (s.free + 1), synd := Config.freeEval (s.free + 2) }
/-- CONTEXT_RESUME (R322, R323): the first pre-empted context whose cores and slots are free is restored; a save that cannot be
read, nor its mirror, loses the context. Each save that cannot be read is an error of its memory (R352). -/
def execContextResume (bad mirrorBad : Bool) (s : State) : Out :=
  match s.pick with
  | some (.resume x) =>
    let lost := bad && (mirrorBad || !x.rec_.mirror)
    let s1 := if bad then s.noteSave x lost else s
    let s2 := if bad && mirrorBad && x.rec_.mirror then s1.noteSave x lost else s1
    ok (if lost then s2.loseCtx x else s2.restoreCtx x)
  | _ => ok s

end Sys2Proof.Machine
end

