-- ==== Sys2Proof/Machine/Host.lean ====
section
/-! DEFINITION. Host.lean: boot, the Sirade Launch Protocol, launch records, memory windows, keys, quotes and fid commands (R317,
R318, R324, R328 to R330, R342 to R348, R352, R355). -/
namespace Sys2Proof.Machine

/-! ### Boot (R342, R343, R345, R347) -/

/-- The key of slot 0 signs a firmware copy (R347). The signature block of an image, at the end of the copy, is PRESUMED for
firmware (log entry 77); the copy of the factory verifies. -/
def fwVerifies (c : FwCopy) : Bool :=
  match c with
  | none => true
  | some (m, n) =>
    let b := Memory.readBytes m 0 n
    let so := n - 520
    decide (520 ≤ n) && zeros b so 8 && sigVerifies Config.siradeKey (b.take so) (b.drop (so + 8))
/-- The outcome of a step at the last boot (R343); a record that was reset reads as passed. -/
def HostUnit.lastRes (u : HostUnit) (n : Nat) : StepRes := (u.record.getD (n - 1) {}).res
/-- The outcome of an optional step, by its last outcome, for what works as usual and what works by the alternate (R343): a step that
passed runs as usual, one that needed its alternate runs that first, and one that failed runs the alternate alone. -/
def stepEnds (last : StepRes) (usual alt : Bool) : StepRes :=
  match last with
  | .pass => if usual then .pass else if alt then .alternate else .fail
  | .alternate => if alt then .alternate else if usual then .pass else .fail
  | .fail => if alt then .alternate else .fail
/-- The outcome of a required step (R342, R343): one that failed last time is run once more. DEDUCED: once more than usual (log
entry 80). -/
def requiredEnds (last : StepRes) (r : Bool × Bool) : StepRes := if r.1 || (last == .fail && r.2) then .pass else .fail
/-- The outcome of a step over all its parts: the worst. -/
def worstOf (l : List StepRes) : StepRes := if l.contains .fail then .fail else if l.contains .alternate then .alternate else .pass
/-- The outcomes of a step's parts: one for every part that is not listed, all of which work, and one for each listed part. -/
def partEnds (last : StepRes) (l : List (Bool × Bool)) : StepRes := worstOf (stepEnds last true true :: l.map fun p => stepEnds last p.1 p.2)
/-- Whether a part of a step fails at last. -/
def partFails (last : StepRes) (p : Bool × Bool) : Bool := stepEnds last p.1 p.2 == .fail
/-- Edges that no training brings up (step 4). -/
def deadEdges (last : StepRes) (r : BootRes) : List (Nat × Nat) :=
  (r.edges.filter fun e => partFails last e.2.2).map fun e => (e.1.toNat, e.2.1.toNat)
/-- Good edges of a die: those to its neighbours on the grid (R16) but for the dead ones; the express modules and links between SW dies
are no edges (R17). -/
def goodEdges (dead : List (Nat × Nat)) (site : Nat) : Nat :=
  ((List.range 4).filter fun n => match linkTo site n with
    | some t => !(dead.any fun e => e == (site, t) || e == (t, site))
    | none => false).length
/-- The die of a dead edge that is marked failed: the one with fewer good edges, the higher site on a tie (Table 15-1). -/
def deadDie (dead : List (Nat × Nat)) (e : Nat × Nat) : Nat :=
  let a := goodEdges dead e.1
  let b := goodEdges dead e.2
  if a < b then e.1 else if b < a then e.2 else max e.1 e.2
/-- The memory parts of step 5 or 6: whether training passes, and whether an alternate does. -/
def memParts (l : List (BitVec 3 × Bool × Bool × Bool)) : List (Bool × Bool) := l.map fun p => (p.2.1, p.2.2.1 || p.2.2.2)
/-- BF dies of which a memory part fails at last. -/
def deadMem (last : StepRes) (l : List (BitVec 3 × Bool × Bool × Bool)) : List Nat :=
  (l.filter fun p => partFails last (p.2.1, p.2.2.1 || p.2.2.2)).map fun p => Config.bfSite p.1.toNat
/-- Dies that boot marks, each with its status: 1 failed, 3 routing-only (Table 15-1). -/
def bootMarks (u : HostUnit) (r : BootRes) : List (Nat × Nat) :=
  let dead := deadEdges (u.lastRes 4) r
  (r.dies.map fun p => (p.1.toNat, if p.2 then 3 else 1)) ++ (dead.map fun e => (deadDie dead e, 1)) ++
  ((deadMem (u.lastRes 5) r.hbm ++ deadMem (u.lastRes 6) r.lpddr).map fun h => (h, 1)) ++
  (((r.mesh.map BitVec.toNat).filter fun h => Config.swSites.contains h).map fun h => (h, 1))
/-- The status of a site (Table 15-2): a fuse stands, and a failed die is no routing-only one. -/
def statusOf (u : HostUnit) (marks : List (Nat × Nat)) (site : Nat) : Nat :=
  if u.fuses.any fun f => f.toNat == site then 2 else if marks.contains (site, 1) then 1 else if marks.contains (site, 3) then 3 else 0
/-- MIX0..MIX6 as step 7 leaves them (R345). -/
def mixOf (status : Nat → Nat) : Vector Dword 7 :=
  Vector.ofFn fun k => dw (((List.range 8).map fun i =>
    let site := 8 * k.val + i
    if site < 50 then ((Config.siteType site).code.toNat + 8 * status site) * 256 ^ i else 0).sum)
/-- The alternate of a memory step: retraining with reduced patterns, at the lower rate where those fail too; a die that is marked. -/
def memAlt (res : StepRes) (l : List (BitVec 3 × Bool × Bool × Bool)) : Option BootAlt :=
  match res with
  | .pass => none
  | .alternate => some (if l.any fun p => !p.2.2.1 then .rate else .patterns)
  | .fail => some .marked
/-- The alternate that an optional step used in this boot, or else the one that the record holds as last used (R343). -/
def HostUnit.altOf (u : HostUnit) (n : Nat) (now : Option BootAlt) : Option BootAlt :=
  now.orElse fun _ => (u.record.getD (n - 1) {}).alt
/-- A step whose alternate is to mark dies (steps 3 and 7): it passes where there is none to mark, and marking always works; after a boot
that needed the alternate it runs that first (R343). The record does not say which dies were marked, so the test names them each
time. -/
def HostUnit.markStep (u : HostUnit) (n : Nat) (none_ : Bool) : BootStep :=
  let e := stepEnds (u.lastRes n) none_ true
  { res := e, alt := u.altOf n (if e = .pass then none else some .marked) }
/-- The eight steps of a boot (Table 15-1). A step whose alternate is to mark a die has needed it where it marks one. -/
def bootSteps (u : HostUnit) (r : BootRes) : List BootStep :=
  let edge := partEnds (u.lastRes 4) (r.edges.map fun e => e.2.2)
  let hbm := partEnds (u.lastRes 5) (memParts r.hbm)
  let lp := partEnds (u.lastRes 6) (memParts r.lpddr)
  let fw := stepEnds (u.lastRes 8) (fwVerifies u.fwA) (fwVerifies u.fwB)
  [{ res := requiredEnds (u.lastRes 1) r.rails }, { res := requiredEnds (u.lastRes 2) r.timing },
   u.markStep 3 r.dies.isEmpty,
   { res := edge, alt := u.altOf 4 (if edge = .pass then none else some (if edge = .fail then .marked else .patterns)) },
   { res := hbm, alt := u.altOf 5 (memAlt hbm r.hbm) }, { res := lp, alt := u.altOf 6 (memAlt lp r.lpddr) },
   u.markStep 7 (r.mesh.all fun h => !Config.swSites.contains h.toNat),
   { res := fw, alt := u.altOf 8 (if fw = .alternate then some .copyB else none) }]
/-- The step at which a boot moors, if it does: a required step that fails, or step 8 when both copies fail (Table 15-1). -/
def moorsAt (l : List BootStep) : Option Nat := [1, 2, 8].find? fun n => (l.getD (n - 1) {}).res == .fail
/-- BOOT (R342, R343): firmware runs the boot steps as the boot record says, as far as one that moors the module; it records them,
fills the mix registers at the end of step 7, and starts or moors. Bring-up sets the package id (R92). -/
def execBoot (r : BootRes) (s : State) : Out :=
  let u := s.host
  if u.boot ≠ .off then ok s
  else
    let steps := bootSteps u r
    let stop := moorsAt steps
    let done := stop.getD 8
    ok { s with
      mix := if 7 ≤ done then mixOf (statusOf u (bootMarks u r)) else s.mix
      pkgid := if 7 ≤ done then r.pkg else s.pkgid
      host := { u with
        boot := if stop.isSome then .moored else .running
        record := steps.take done ++ u.record.drop done
        copyB := if stop.isSome then u.copyB else (steps.getD 7 {}).res == .alternate } }

/-! ### Sessions (R344, R346) -/

/-- A reply leaves for the host. -/
def State.reply (s : State) (r : Reply) : State := { s with host := { s.host with replies := s.host.replies ++ [r] } }
/-- The ACK of a message, when it asks for an answer. -/
def State.ackTo (s : State) (h : MsgHdr) (result : Byte) : State :=
  if h.answer then s.reply (.ack h.session h.seq result) else s
/-- A message is refused: a refusal notice, and the ACK carries the reason. -/
def State.refuse (s : State) (h : MsgHdr) (reason : Byte) : State := (s.notice (.refusal h.seq reason)).ackTo h reason
/-- A session by its id; a new one begins at the message's SEQ. -/
def HostUnit.session (u : HostUnit) (h : MsgHdr) : Session :=
  (u.sessions.find? fun x => x.id == h.session).getD { id := h.session, next := h.seq.toNat, done := [], held := [] }
/-- Put a session. -/
def State.putSession (s : State) (x : Session) : State :=
  { s with host := { s.host with sessions := x :: s.host.sessions.filter fun y => y.id != x.id } }
/-- A message is processed: its result is stored and acknowledged; the message held behind it comes next. -/
def State.process (s : State) (h : MsgHdr) (act : State → State × Byte) : State :=
  let x := s.host.session h
  let p := act s
  let s1 := if p.2 = 0 then p.1.ackTo h 0 else p.1.refuse h p.2
  let y : Session := { x with
    next := x.next + 1, done := x.done ++ [(h.seq, p.2)]
    held := x.held.filter fun m => m.1.toNat != x.next + 1 }
  let next := x.held.find? fun m => m.1.toNat == x.next + 1
  let s2 := s1.putSession y
  { s2 with agenda := (next.map fun m => (s2.clock, m.2)).toList ++ s2.agenda }
/-- A message that the module reads (R346): from a host of the installation table, with the header of Table 15-3 and at most 8,960
bytes. The manual does not say what becomes of a header that breaks Table 15-3: it is dropped like a stranger's. DESIGN CHOICE, log
entry 81. -/
def HostUnit.reads (u : HostUnit) (h : MsgHdr) : Bool :=
  u.hosts.contains h.src && h.ver == 1 && decide (h.flags.toNat < 4) && decide (h.len + 16 ≤ 8960)
/-- Whether the module answers a message: the CL die of the host port works (R18, R22), and it is a message that the module reads. That
nothing of the host port runs on a die that executes nothing is DEDUCED (log entry 100). -/
def State.reads (s : State) (h : MsgHdr) : Bool := s.siteStatus Config.hostSite == 0 && s.host.reads h
/-- A message in its session (R346): processed in its turn, answered again, held behind a gap, or refused; dropped where it is no
message that the module reads, or its payload is not of LEN bytes. `heard` says that its way into the module works. -/
def messageIf (heard : Bool) (h : MsgHdr) (payload : Bool) (i : Instr) (moored : Bool) (act : State → State × Byte) (s : State) : Out :=
  if s.host.boot = .off ∨ !heard ∨ !payload then ok s
  else
    let x := s.host.session h
    match x.done.find? fun d => d.1 == h.seq with
    | some d => ok (s.ackTo h d.2)
    | none =>
      if h.seq.toNat = x.next then
        ok (s.process h fun s => if s.host.boot = .moored ∧ !moored then (s, 1) else act s)
      else if x.next < h.seq.toNat ∧ x.held.length < 64 then ok (s.putSession { x with held := x.held ++ [(h.seq, i)] })
      else ok (s.refuse h 2)
/-- A message on the host port. -/
def message (h : MsgHdr) (payload : Bool) (i : Instr) (moored : Bool) (act : State → State × Byte) (s : State) : Out :=
  messageIf (s.reads h) h payload i moored act s
/-- Whether the payload that a message has beside fields of no stated width is held by its LEN (R346): Table 15-4 does not lay the
payloads of KILL, MEMWR, NOTIFY, KEYSET and FWUPD out, so LEN has to hold at least the bytes that they name. DEDUCED (log entry 81). -/
def lenHolds (h : MsgHdr) (n : Nat) : Bool := decide (n ≤ h.len)
/-- ACK (R346): a host of the installation table acknowledges a notice. It is no request: it takes no turn in its session and is
answered by nothing. DESIGN CHOICE (log entry 81). -/
def execAck (h : MsgHdr) (seq : BitVec 32) (result : Byte) (s : State) : Out :=
  let _ := result
  if s.host.boot = .off ∨ !s.reads h ∨ h.len ≠ 5 then ok s
  else ok { s with host := { s.host with notices := s.host.notices.filter fun n => n.1 != seq } }

/-! ### Images and launches (R67, R318) -/

/-- IMGPUT (R67, Table 15-4): a fragment of an image; after the last one the image is checked. -/
def execImgput (h : MsgHdr) (img : BitVec 32) (off : Nat) (bytes : List Byte) (s : State) : Out :=
  message h (h.len == 12 + bytes.length) (.imgput h img off bytes) false (fun s =>
    let old := ((s.host.uploads.find? fun u => u.1 == img).map Prod.snd).getD ([], 0)
    let mem : Memory := Memory.writeBytes old.1 off bytes
    let len := max old.2 (off + bytes.length)
    let rest := s.host.uploads.filter fun u => u.1 != img
    if h.last then
      let s1 := { s with host := { s.host with uploads := rest } }
      match s.host.checkImage img (Memory.readBytes mem 0 len) with
      | .error k => (s1.notice (.refusal h.seq k), 0)
      | .ok g => ({ s1 with host := { s1.host with images := g :: s1.host.images.filter fun x => x.id != img } }, 0)
    else ({ s with host := { s.host with uploads := (img, mem, len) :: rest } }, 0)) s
/-- The launch record of a byte string, as far as NODES (Table 14-7). -/
def recordOf (b : List Byte) : LaunchRec := {
  image := BitVec.ofNat 32 (le b 0 4), prio := le b 4 1, preempt := (le b 5 1).testBit 0, mirror := (le b 5 1).testBit 1
  plevel := BitVec.ofNat 4 (le b 6 1), reserve := le b 7 1, key := BitVec.ofNat 16 (le b 8 2), nnode := le b 10 2
  splsz := le b 12 4, ovfpb := dw (le b 16 8), save := dw (le b 24 8), deleg := dw (le b 32 8), garea := dw (le b 40 8) }
/-- A node of 64 bytes (Table 14-8). -/
def nodeOf (b : List Byte) : GNode := {
  kind := le b 0 1, npred := le b 2 2, image := BitVec.ofNat 32 (le b 4 4), word := le b 8 8, arg := le b 16 8
  succ := (List.range 8).map fun i => le b (24 + 2 * i) 2 }
/-- The limits of Table 14-8. -/
def nodeOk (count gbytes : Nat) (b : List Byte) : Bool :=
  let n := nodeOf b
  decide (1 ≤ n.kind) && decide (n.kind ≤ 5) && decide (le b 1 1 ≤ 8) && zeros b 40 24 &&
  (n.succ.all fun j => j == noNode || decide (j < count)) &&
  (n.kind == nodeKernel || (n.word % 8 == 0 && decide (n.word + 8 ≤ gbytes))) &&
  (if n.kind = nodeLoop then decide (1 ≤ n.arg) && decide (n.arg ≤ 2 ^ 32) else n.kind == nodeWait || n.arg == 0)
/-- The limits of Table 14-7. -/
def recordOk (b : List Byte) : Bool :=
  let n := le b 10 2
  let g := dw (le b 40 8)
  decide (48 ≤ b.length) && decide (le b 4 1 ≤ 7) && decide (le b 5 1 < 4) && decide (le b 6 1 ≤ 15) && le b 8 2 != 0 &&
  decide (n ≤ 4096) && b.length == 48 + 64 * n && le b 12 4 % 4096 == 0 && decide (le b 24 8 < 2 ^ 36) &&
  le b 24 8 % pageBytes == 0 && field g 63 48 == 0 &&
  decide (field g 28 0 + 65536 * field g 47 32 ≤ Config.stageBytes) &&
  (records (b.drop 48) 64 n).all (nodeOk n (65536 * field g 47 32))
/-- The nodes of a record; a plain launch is one kernel. -/
def nodesOf (b : List Byte) : List GNode :=
  if le b 10 2 = 0 then
    [{ kind := nodeKernel, npred := 0, image := BitVec.ofNat 32 (le b 0 4), word := 0, arg := 0, succ := List.replicate 8 noNode }]
  else (records (b.drop 48) 64 (le b 10 2)).map nodeOf
/-- A launch record is posted, or refused by a reason (R318, Table 15-5). One with a node that reads a word of a graph area on a BF die
that is not good names no memory (R22): it is refused with reason 0x05. DESIGN CHOICE, log entry 82. -/
def State.postLaunch (s : State) (seq : BitVec 32) (b : List Byte) : State × Byte :=
  let ns := nodesOf b
  if !recordOk b ∨ (!s.bfGood (field (recordOf b).garea 31 29) && ns.any fun n => n.kind != nodeKernel) then (s, 5)
  else
    let runs (n : GNode) : Bool := n.kind == nodeKernel || n.kind == nodeLoop
    if !(ns.all fun n => !runs n || s.host.images.any fun g => g.id == n.image) then (s, 6)
    else ({ s with host := { s.host with
      launches := s.host.launches ++ [{
        id := s.host.nlaunch, seq := seq, rec_ := recordOf b, nodes := ns, state := ns.map fun _ => .waiting 0
        iters := ns.map fun _ => 0 }]
      nlaunch := s.host.nlaunch + 1 } }, 0)
/-- LAUNCH (R318, Table 15-4): one launch record, in fragments if longer. -/
def execLaunch (h : MsgHdr) (bytes : List Byte) (s : State) : Out :=
  message h (h.len == bytes.length) (.launch h bytes) false (fun s =>
    let old := ((s.host.frag.find? fun f => f.1 == h.session).map Prod.snd).getD []
    let rest := s.host.frag.filter fun f => f.1 != h.session
    if h.last then { s with host := { s.host with frag := rest } }.postLaunch h.seq (old ++ bytes)
    else ({ s with host := { s.host with frag := (h.session, old ++ bytes) :: rest } }, 0)) s

/-! ### Contexts (R317, R324) -/

/-- A resident context by the byte that names it. -/
def State.named (s : State) (x : Byte) : Option Context := if x.toNat < 8 then s.ctxOf (x.setWidth 3) else none
/-- KILL (R324). -/
def execKill (h : MsgHdr) (x : Byte) (s : State) : Out :=
  message h (lenHolds h 1) (.kill h x) false (fun s => match s.named x with
    | some y => (s.askKill y.id, 0)
    | none => (s, 7)) s
/-- Cause 0x24 at one core; a notice that meets one still pending merges, and the host is told (R317). -/
def State.notifyCore (s : State) (x : CtxId) (k : CoreId) (w : Dword) : State :=
  s.forOwner k (fun c => c.within x) fun s =>
    match s.coreAt k with
    | some c =>
      if !c.within x then s
      else if c.trap.pend.any fun p => p.cause == 0x24 then s.notice (.merged x k w)
      else s.modCore k fun c => c.post 0x24 0 w
    | none => s
/-- NOTIFY (R317): cause 0x24 at every core named, or the message is refused whole. -/
def execNotify (h : MsgHdr) (x : Byte) (cores : List CoreId) (w : Dword) (s : State) : Out :=
  message h (lenHolds h 9) (.notify h x cores w) false (fun s => match s.named x with
    | some y =>
      if cores.all fun k => y.cores.contains k then (cores.foldl (fun s k => s.notifyCore y.id k w) s, 0) else (s, 7)
    | none => (s, 7)) s
/-- STATUS (R346): the mix registers, the boot record, the resident contexts and the depth of each queue. -/
def execStatus (h : MsgHdr) (s : State) : Out :=
  message h true (.status h) true (fun s =>
    let depth (p : Nat) : Nat := ((s.host.launches.filter fun l => l.rec_.prio == p).map fun l => l.queued.length).sum +
      (s.ctxs.filter fun x => x.phase == .saved && x.rec_.prio == p).length
    (s.reply (.status h.session h.seq s.mix.toList s.host.record (s.ctxs.map fun x => x.id) ((List.range 8).map depth)), 0)) s

/-! ### Memory windows (R355) -/

/-- Whether a window is one that the module serves (Table 15-5, reason 0x08). PRESUMED: the codes of the spaces (log entry 45). -/
def windowOk (space bf : Byte) (off len : Nat) : Bool :=
  decide (space.toNat < 3) && decide (bf.toNat < 8) && decide (8 ≤ len) && decide (len ≤ 8192) &&
    decide (off + len ≤ classBytes space.toNat)
/-- The memory of a class. -/
def State.classMem (s : State) (cls : Nat) : Memory := if cls = 0 then s.stage else if cls = 1 then s.hbm else s.tier2
/-- Replace the memory of a class. -/
def State.setClass (s : State) (cls : Nat) (m : Memory) : State :=
  if cls = 0 then { s with stage := m } else if cls = 1 then { s with hbm := m } else { s with tier2 := m }
/-- The memory of a window's space. -/
def windowMem (space : Byte) : EccMem := if space = 0 then .stage else if space = 1 then .hbm else .tier2
/-- The data of a window crosses the package between the host port and the window's BF die, as a copy of context 0, which counts as core 0:
beats of 64 bytes in the residue (R293, Table 15-4). The access itself acts whole when its message is processed: DESIGN CHOICE (log
entry 87). -/
def State.windowTraffic (s : State) (bf len : Nat) (toHost : Bool) : State :=
  let works (h : Nat) : Bool := s.siteStatus h == 0 || s.siteStatus h == 3
  let hops := ((if toHost then routeOf works (Config.bfSite bf) Config.hostSite else routeOf works Config.hostSite (Config.bfSite bf))).getD []
  { s with flights := s.flights ++ List.replicate (if hops.isEmpty then 0 else (len + 63) / 64) {
      cargo := .beat, core := 0, eng := 7, pos := 0, addr := 0, hops := hops, owned := false, due := s.clock + 1, bad := false } }
/-- MEMRD (R355): the present plane where a planed range lies in the window. The memory of a BF die that is not good is out of range (R22;
DESIGN CHOICE, log entry 82). A word that the scrub has poisoned, or that the memory's own ECC cannot correct, is read with an error, which
is logged (R351, R352). -/
def execMemrd (h : MsgHdr) (space bf : Byte) (off len : Nat) (s : State) : Out :=
  message h true (.memrd h space bf off len) false (fun s =>
    if windowOk space bf off len && s.bfGood bf.toNat then
      let k := classBytes space.toNat * bf.toNat + off
      let s1 := (s.windowTraffic bf.toNat len true).reply (.bytes h.session h.seq ((s.classMem space.toNat).readBytes k len))
      (s1.loneError { wr := false, mem := windowMem space, key := k, len := len }, 0)
    else (s, 8)) s
/-- MEMWR (R355): a write of context 0 to present planes; no metadata changes. -/
def execMemwr (h : MsgHdr) (space bf : Byte) (off : Nat) (bytes : List Byte) (s : State) : Out :=
  message h (lenHolds h bytes.length) (.memwr h space bf off bytes) false (fun s =>
    if windowOk space bf off bytes.length && s.bfGood bf.toNat then
      let k := classBytes space.toNat * bf.toNat + off
      let s1 := (s.windowTraffic bf.toNat bytes.length false).setClass space.toNat ((s.classMem space.toNat).writeBytes k bytes)
      (s1.cleared [{ wr := true, mem := windowMem space, key := k, len := bytes.length }], 0)
    else (s, 8)) s

/-! ### Logs, quotes, keys, firmware, reset (R342, R343, R346 to R348, R352) -/

/-- `count` records of a log from `first` on count as read. -/
def ErrLog.take (l : ErrLog) (first count : Nat) : ErrLog :=
  { l with recs := l.recs.take first ++ ((l.recs.drop first).take count).map (fun r => { r with read := true }) ++
      (l.recs.drop first).drop count }
/-- LOGRD (R352): records from `first` on, oldest first; those returned count as read. -/
def execLogrd (h : MsgHdr) (bf : Byte) (first count : Nat) (s : State) : Out :=
  message h true (.logrd h bf first count) true (fun s =>
    let l := s.host.log bf.toNat
    ({ s with host := { s.host with logs := s.host.logs.setIfInBounds bf.toNat (l.take first count) } }.reply
      (.records h.session h.seq ((l.recs.drop first).take count)), 0)) s
/-- The bytes of the firmware copy in use. -/
def HostUnit.firmware (u : HostUnit) : List Byte :=
  match if u.copyB then u.fwB else u.fwA with
  | none => Config.factoryFirmware
  | some (m, n) => Memory.readBytes m 0 n
/-- A step of the boot record as a byte of a quote: its outcome in [3:0], the alternate last used in [7:4]. PRESUMED (log entry 56). -/
def stepByte (p : BootStep) : Byte :=
  (match p.res with
    | .pass => 0
    | .alternate => 1
    | .fail => 2) +
  (match p.alt with
    | none => 0
    | some .marked => 16
    | some .patterns => 32
    | some .rate => 48
    | some .copyB => 64)
/-- What a quote is taken over, in order (R348). -/
def State.quoted (s : State) (nonce : List Byte) : List Byte :=
  s.host.firmware ++ (List.range 8).flatMap s.host.keyAt ++ s.mix.toList.flatMap (fun v => toBytes 8 v.toNat) ++
    s.host.record.map stepByte ++ s.host.images.flatMap (fun g => g.digest) ++ nonce
/-- The digest that a quote is: one over all that it is taken over (R348). DEDUCED (log entry 56). -/
def State.quote (s : State) (nonce : List Byte) : List Byte := sha512 (s.quoted nonce)
/-- The signature of a quote: RSASSA-PSS over its digest by the module's identity key, with a salt of 64 free bytes (R68, R348). -/
def State.quoteSig (s : State) (nonce : List Byte) : List Byte :=
  pssSign Config.identityKey (s.quote nonce) ((List.range 64).map fun i => Config.freeByte (s.free + i))
/-- QUOTE (R348): with the certificate of the key that signs. -/
def execQuote (h : MsgHdr) (nonce : List Byte) (s : State) : Out :=
  message h (h.len == 32 && nonce.length == 32) (.quote h nonce) true (fun s =>
    ({ s with free := s.free + 64 }.reply (.quote h.session h.seq (s.quote nonce) (s.quoteSig nonce) Config.certificate), 0)) s
/-- KEYSET (R347): signed by the key of slot 0, or by the slot's own; slot 0 never changes, and a slot holds an RSA-4096 key or nothing. -/
def execKeyset (h : MsgHdr) (slot : Byte) (key sig : List Byte) (s : State) : Out :=
  message h (lenHolds h (1 + key.length + sig.length)) (.keyset h slot key sig) false (fun s =>
    let own := s.host.keyAt slot.toNat
    let good (k : List Byte) : Bool := !k.isEmpty && sigVerifies k (slot :: key) sig
    if slot = 0 ∨ 7 < slot.toNat ∨ !(key.isEmpty || rsa4096 (Config.rsaKey key)) ∨ !(good (s.host.keyAt 0) || good own) then (s, 3)
    else ({ s with host := { s.host with keys := s.host.keys.setIfInBounds slot.toNat key } }, 0)) s
/-- FWUPD (R346): a fragment of the firmware copy that is not in use. -/
def execFwupd (h : MsgHdr) (off : Nat) (bytes : List Byte) (s : State) : Out :=
  message h (lenHolds h bytes.length) (.fwupd h off bytes) true (fun s =>
    let put (c : FwCopy) : FwCopy :=
      let (m, n) := c.getD ([], 0)
      some (Memory.writeBytes m off bytes, if h.last then off + bytes.length else max n (off + bytes.length))
    (if s.host.copyB then { s with host := { s.host with fwA := put s.host.fwA } }
      else { s with host := { s.host with fwB := put s.host.fwB } }, 0)) s
/-- CLEARBOOT (R343): the boot record is reset. -/
def execClearboot (h : MsgHdr) (s : State) : Out :=
  message h true (.clearboot h) false (fun s => ({ s with host := { s.host with record := [] } }, 0)) s
/-- The module after a reset (R342): what module flash holds stays, and so do the bytes of the memories. -/
def State.resetModule (s : State) : State :=
  { State.reset with
    pkgid := s.pkgid, stage := s.stage, hbm := s.hbm, tier2 := s.tier2, gsram := s.gsram, agenda := s.agenda, podIn := s.podIn, free := s.free
    host := {
      keys := s.host.keys, fwA := s.host.fwA, fwB := s.host.fwB, copyB := s.host.copyB, record := s.host.record
      fuses := s.host.fuses, hosts := s.host.hosts } }
/-- RESET (R342): the module is reset, and answers nothing until it has booted. -/
def execReset (h : MsgHdr) (s : State) : Out :=
  match message h true (.reset h) true (fun s => (s, 0)) s with
  | .next t =>
    if s.host.boot ≠ .off ∧ s.reads h ∧ (s.host.session h).next = h.seq.toNat then
      ok { t.resetModule with host := { t.resetModule.host with replies := t.host.replies } }
    else ok t
  | o => o

/-! ### Fid (R42, R155, R328 to R330) -/

/-- Whether the fid may read and write a core: its context is halted, or its die is. -/
def State.fidCore (s : State) (k : CoreId) : Bool :=
  match s.coreAt k with
  | some c => c.live && (c.halted || (s.ctxOf c.ctx).any fun x => x.phase == .halted)
  | none => false
/-- The engines of a die stop; every core of a context that has cores there loses its determinism (R329). -/
def State.haltDie (s : State) (site : Nat) : State :=
  let hit := (s.allCores.filter fun c => c.live && c.site == site).map fun c => c.ctx
  let f (c : Core) : Core :=
    let c1 := if c.live && c.site == site && !c.halted then { c with halted := true, haltAt := s.clock } else c
    if c.live && hit.contains c.ctx then { c1 with trap := { c1.trap with detlost := true } } else c1
  { s with core := f s.core, others := s.others.map f }
/-- The engines of a halted die go on at the same frame position, and cause 0x23 is raised at each core (R330). -/
def State.resumeDie (s : State) (site : Nat) : State :=
  let f (c : Core) : Core :=
    if c.live && c.site == site && c.halted then
      let r := resumeCycle (s.clock + Config.freeDelay s.free) c.haltAt
      { c with halted := false, delay := r - s.clock }.post 0x23 0 (haltEval (r - c.haltAt))
    else c
  { s with core := f s.core, others := s.others.map f, free := s.free + 1 }
/-- A level of the nest with its word f set. -/
def NestLevel.fid (l : NestLevel) (f : Nat) (v : Dword) : NestLevel :=
  match f with
  | 0 => { l with count := v.setWidth 32, drn := v.getLsbD 32 }
  | 1 => { l with astr := v }
  | 2 => { l with bstr := v }
  | _ => { l with cstr := v }
/-- A handle with its field f set (R93). -/
def Handle.fid (h : Handle) (f : Nat) (v : Dword) : Handle :=
  match f with
  | 0 => { h with defined := v.getLsbD 0 }
  | 1 => { h with base := v.setWidth 24 }
  | 2 => { h with lsz := v.setWidth 4 }
  | 3 => { h with cntm1 := v.setWidth 6 }
  | 4 => { h with fill := v.toNat }
  | 5 => { h with pidx := v.toNat }
  | _ => { h with cidx := v.toNat }
/-- A channel with its word f set: geometry, layout and status address (R156). -/
def Channel.fid (h : Channel) (f : Nat) (v : Dword) : Channel :=
  let l := h.geo.getD (f / 3) {}
  let m := if f % 3 = 0 then { l with count := v.setWidth 32 } else if f % 3 = 1 then { l with ss := v } else { l with ds := v }
  if f = 18 then { h with l0 := v } else if f = 19 then { h with l1 := v } else if f = 20 then { h with status := v }
  else { h with geo := h.geo.setIfInBounds (f / 3) m }
/-- The matrix unit with its word f set: CFW, MTHR, MKS, the four words of the key, the counter. -/
def MtxUnit.fid (u : MtxUnit) (f : Nat) (v : Dword) : MtxUnit :=
  match f with
  | 0 => { u with cfw := v }
  | 1 => { u with thr := v.setWidth 32 }
  | 2 => { u with ks := v.setWidth 32 }
  | 7 => { u with cb := (u.cb >>> 64).setWidth 64 ++ v }
  | 8 => { u with cb := v ++ u.cb.setWidth 64 }
  | f => { u with key := u.key.setIfInBounds (f - 3) (v.setWidth 32) }
/-- An optional part of MTX from its words: none without words. -/
def dcfgOf (vs : List Dword) : Option DCfg :=
  if vs.isEmpty then none else some {
    kind := (vs.getD 0 0).setWidth 2, idx := (vs.getD 1 0).setWidth 4, shape := vs.getD 2 0, clr := (vs.getD 3 0).getLsbD 0 }
def rcfgOf (vs : List Dword) : Option RCfg :=
  if vs.isEmpty then none else some { base := vs.getD 0 0, pitch := (vs.getD 1 0).setWidth 16, bf := (vs.getD 2 0).getLsbD 0 }
/-- The progress of an MGO with its field f set: the pass, the pending drain, the handle, the slots, the release. -/
def Prog.fid (p : Prog) (f : Nat) (v : Dword) : Prog :=
  match f with
  | 0 => { p with pass := v.toNat }
  | 1 => { p with drain := some v }
  | 2 => { p with drain := none }
  | 3 => { p with h := v.setWidth 4 }
  | 4 => { p with w := v.toNat }
  | _ => { p with rel := v.getLsbD 0 }
/-- The progress of an MGVR with its field f set: next token, row, the record's first token, the output and its row, the total, the rows, the
handle, the slots, the release, the open group's weight and last position, the groups and the positions of the row. -/
def Gvp.fid (p : Gvp) (f : Nat) (v : Dword) : Gvp :=
  match f with
  | 0 => { p with tok := v.toNat }
  | 1 => { p with row := v.toNat }
  | 2 => { p with start := v.toNat }
  | 3 => { p with out := v.toNat }
  | 4 => { p with orow := v.toNat }
  | 5 => { p with total := v.toInt }
  | 6 => { p with rows := v.toNat }
  | 7 => { p with h := v.setWidth 4 }
  | 8 => { p with w := v.toNat }
  | 9 => { p with rel := v.getLsbD 0 }
  | 10 => { p with st := { p.st with group := some (v.toInt, none) } }
  | 11 => { p with st := { p.st with group := p.st.group.map fun g => (g.1, some v.toNat) } }
  | 12 => { p with st := { p.st with groups := v.toNat } }
  | 13 => { p with st := { p.st with seen := p.st.seen ++ [v.toNat] } }
  | _ => { p with st := {} }
/-- The check status and the flags of MTX with their word f set (Table 9-1). -/
def MtxUnit.fidCheck (u : MtxUnit) (f : Nat) (v : Dword) : MtxUnit :=
  match f with
  | 0 => { u with mism := v.getLsbD 0 }
  | 1 => { u with mismCnt := v.toNat % 256 }
  | 2 => { u with mpass := v.toNat }
  | 3 => { u with mcol := v.toNat % 128 }
  | 4 => { u with amax := v.setWidth 32 }
  | 5 => { u with nan := v.getLsbD 0 }
  | 6 => { u with sat := v.getLsbD 0 }
  | 7 => { u with stalls := v.toNat }
  | _ => { u with passes := v.toNat }
/-- A gather table with its field f set (R304). -/
def GTable.fid (t : GTable) (f : Nat) (v : Dword) : GTable :=
  match f with
  | 0 => { t with valid := v.getLsbD 0 }
  | 1 => { t with base := v }
  | 2 => { t with g := v.getLsbD 0 }
  | 3 => { t with fmt := v.setWidth 3 }
  | 4 => { t with rb := v.toNat }
  | _ => { t with nrow := v.toNat }
/-- An engine with its word f set: its copies of FPC, LATE, LATEMAX and LASTCAUSE, and of the bounds, three words each. -/
def Engine.fid (x : Engine) (f : Nat) (v : Dword) : Engine :=
  let k := (f - 4) / 3
  let b := x.bnd.getD k {}
  match f with
  | 0 => { x with mode := v.setWidth 4 }
  | 1 => { x with late := v.setWidth 16 }
  | 2 => { x with lateMax := v.toNat }
  | 3 => { x with lastCause := v.setWidth 8 }
  | f => { x with bnd := x.bnd.setIfInBounds k (
      if f % 3 = 1 then { b with low := v.setWidth 32 } else if f % 3 = 2 then { b with high := v.setWidth 32 }
      else { b with act := v.setWidth 2 }) }
/-- The entries of a write log, three words each: the register and in bit 8 its flag, the value, the position (R36). -/
def logOf : List Dword → List LogEntry
  | a :: v :: p :: t => { reg := a.setWidth 5, val := v, df := a.getLsbD 8, pos := p.toNat, tag := none } :: logOf t
  | _ => []
/-- The vector unit with its word f set: the four words of the key, the counter, rows, columns, the slots' halves, AMAX, the flags. -/
def VecUnit.fid (u : VecUnit) (f : Nat) (v : Dword) : VecUnit :=
  if f < 4 then { u with key := u.key.setIfInBounds f (v.setWidth 32) }
  else if f = 4 then { u with ctr := (u.ctr >>> 64).setWidth 64 ++ v }
  else if f = 5 then { u with ctr := v ++ u.ctr.setWidth 64 }
  else if f = 6 then { u with rows := v.toNat }
  else if f = 7 then { u with cols := v.toNat }
  else if f = 40 then { u with amax := v.setWidth 32 }
  else if f = 41 then { u with nan := v.getLsbD 0 }
  else if f = 42 then { u with sat := v.getLsbD 0 }
  else
    let x := u.slots.getD (f / 2 - 4) {}
    let y : Slot := { bits := if f % 2 = 0 then (x.bits >>> 64).setWidth 64 ++ v else v ++ x.bits.setWidth 64, valid := true }
    { u with slots := u.slots.setIfInBounds (f / 2 - 4) y }
/-- The fid writes a part of a core (R328). -/
def Core.fidUnit (c : Core) (i : Nat) (vs : List Dword) (u : FidUnit) : Core :=
  let v := vs.getD 0 0
  let bs : List Byte := vs.map fun x => x.setWidth 8
  match u with
  | .acc => c.modMtx fun u => { u with acc := Store.set 0 u.acc (i % 16384) (v.setWidth 32) }
  | .tile => c.modMtx fun u => { u with tile := Store.set 0 u.tile (i % 131072) (v.setWidth 32) }
  | .tileExp => c.modMtx fun u => { u with texp := u.texp.setIfInBounds i (v.setWidth 8) }
  | .nest => c.modMtx fun u => { u with nest := u.nest.setIfInBounds (i / 4) ((u.nest.getD (i / 4) {}).fid (i % 4) v) }
  | .base => c.modMtx fun u => if i = 0 then { u with abase := v } else if i = 1 then { u with bbase := v } else { u with cbase := v }
  | .mtx => c.modMtx fun u => u.fid i v
  | .vreg => { c with vec := { c.vec with v := Store.set 0 c.vec.v (i % 16384) (v.setWidth 32) } }
  | .vec => { c with vec := c.vec.fid i v }
  | .handle => { c with handles := c.handles.setIfInBounds (i / 7) ((c.handles.getD (i / 7) {}).fid (i % 7) v) }
  | .channel => c.modCh (i / 21) fun h => h.fid (i % 21) v
  | .fq => c.modMtx fun u => { u with fq := vs.take 16 }
  | .dq => { c with vec := { c.vec with dq := if vs.isEmpty then [] else c.vec.dq ++ [{ coord := i, vals := vs.map fun x => x.setWidth 32 }] } }
  | .loadQueue => { c with vec := { c.vec with lq := c.vec.lq.setIfInBounds i bs } }
  | .storeQueue => { c with vec := { c.vec with sq := c.vec.sq.setIfInBounds i bs } }
  | .outcomes => c.modEng i fun x => { x with outcomes := (vs.take 64).map fun o => if o.getLsbD 16 then .notTaken else .taken (o.setWidth 16) }
  | .sched => c.modEng i fun x => { x with sched := v.toNat }
  | .twc => c.modMtx fun u => { u with twc := if vs.isEmpty then none else twcOf v (vs.getD 1 0) ((vs.getD 2 0).getLsbD 0) }
  | .gvc => c.modMtx fun u => { u with gvc := if vs.isEmpty then none else gvcOf v (vs.getD 1 0) }
  | .dcfg => c.modMtx fun u => { u with dcfg := dcfgOf vs }
  | .rcfg => c.modMtx fun u => { u with rcfg := rcfgOf vs }
  | .prog => c.modMtx fun u => { u with prog := if vs.isEmpty then none else u.prog.map fun p => p.fid i v }
  | .gvp => c.modMtx fun u => { u with gvp := if vs.isEmpty then none else u.gvp.map fun p => p.fid i v }
  | .check => c.modMtx fun u => u.fidCheck i v
  | .gtable => { c with gtab := c.gtab.setIfInBounds (i / 6) ((c.gtab.getD (i / 6) {}).fid (i % 6) v) }
  | .bind => c.modCh i fun h => { h with
      sched := if vs.isEmpty then none else some { addr := v, count := (vs.getD 1 0).toNat, next := (vs.getD 2 0).toNat }
      pendq := List.replicate ((vs.getD 3 0).toNat % 256) (c.engOf 3).lastPos, fetched := false, entry := [] }
  | .engine => c.modEng (i / 32) fun x => x.fid (i % 32) v
  | .log => { c with ctl := { c.ctl with log := logOf vs } }
  | .count => { c with stepRel := v.toNat }
/-- The words of registers, queues and DQ that the fid writes with a part of a core (R351). -/
def fidSpans (k : CoreId) (i n : Nat) : FidUnit → List Span
  | .acc => [{ wr := true, mem := .regs k 1, key := 8 * 65536 + 4 * (i % 16384), len := 4 }]
  | .tile => [{ wr := true, mem := .regs k 1, key := 4 * (i % 131072), len := 4 }]
  | .vreg => [{ wr := true, mem := .regs k 2, key := 4 * (i % 16384), len := 4 }]
  | .fq => [{ wr := true, mem := .queue k 6, key := 0, len := 8 * 16 }]
  | .dq => [{ wr := true, mem := .dq k, key := 0, len := if n = 0 then 2 ^ 24 else 0 }]
  | .loadQueue => [{ wr := true, mem := .queue k i, key := 0, len := 8192 }]
  | .storeQueue => [{ wr := true, mem := .queue k (4 + i), key := 0, len := 8192 }]
  | .outcomes => [{ wr := true, mem := .queue k (8 + i), key := 0, len := 8 * 64 }]
  | _ => []
/-- A halted core is read or written by the fid, else the command is refused (R328). What it shows of its CSRs follows. -/
def State.fidMod (s : State) (k : CoreId) (l : List Span) (f : Core → Core) : State × Byte :=
  if s.fidCore k then
    let s1 := (s.cleared l).modCore k f
    (s1.modCore k fun c => { c with shown := s1.csrView c }, 0)
  else (s, 7)
/-- The fid reads something of a halted core (R328); in a package halt, which freezes the context, its VEC words have retired (R258). -/
def State.fidRead (s : State) (k : CoreId) (f : Core → Reply) : State × Byte :=
  match s.coreAt k with
  | some c => if s.fidCore k then (s.reply (f (if c.frozen then c.vecDone else c)), 0) else (s, 7)
  | none => (s, 7)
/-- A memory access of the fid as a halted core addresses it (R328); an address that the core does not reach is no window. -/
def State.fidMem (s : State) (k : CoreId) (a : Dword) (n : Nat) (f : Core → Place → State) : State × Byte :=
  match s.coreAt k with
  | some c =>
    if !s.fidCore k then (s, 7)
    else match s.locate c a.toNat n with
      | .ok (p, _) => (f c p, 0)
      | .error _ => (s, 8)
  | none => (s, 7)
/-- The POD barriers of a context carry HOLD while its package halt lasts (R328). -/
def State.carriesHold (s : State) (x : CtxId) : Bool := (s.ctxOf x).any fun y => y.phase == .halted
/-- What a fid command does: the state after, and the result. The manual does not give the size of the trace buffer of R155 or say what a
read leaves in it: here it has no bound, and a read empties it. DESIGN CHOICE, log entry 83. -/
def State.fidDo (s : State) : FidCmd → State × Byte
  | .session on => ({ s with host := { s.host with fid := on } }, 0)
  | .haltCtx x => match s.ctxOf x with
    | some y => (s.modCtx y.id fun z => z.ask .halt s.clock, 0)
    | none => (s, 7)
  | .haltDie site => (s.haltDie site.toNat, 0)
  | .resumeCtx x => match s.ctxOf x with
    | some y => (if y.phase = .halted then s.thaw y (some (0x23, haltEval)) else s, 0)
    | none => (s, 7)
  | .resumeDie site => (s.resumeDie site.toNat, 0)
  | .killCtx x => match s.ctxOf x with
    | some y => (s.askKill y.id, 0)
    | none => (s, 7)
  | .readG k r => s.fidRead k fun c => .word k (c.g r)
  | .writeG k r v => s.fidMod k [{ wr := true, mem := .regs k 0, key := 8 * r.toNat, len := 8 }] fun c => { c with ctl := { c.ctl with g := if r = 0 then c.ctl.g else c.ctl.g.setIfInBounds r.toNat v } }
  | .readCsr k n => s.fidRead k fun c => .word k (s.csrRead c n.toNat)
  | .writeCsr k n v => s.fidMod k [] fun c => c.fidCsr n.toNat v
  | .readMem k a n => s.fidMem k a n fun c p => s.reply (.memory k a (toBytes n (s.readAt c p n)))
  | .writeMem k a bs => s.fidMem k a bs.length fun c p => s.putBytes c p bs
  | .readCore k => s.fidRead k fun c => .core k c
  | .writePc k e a => s.fidMod k [] fun c => c.fidPc e.toNat a
  | .writeUnit k u i vs => s.fidMod k (fidSpans k i vs.length u) fun c => c.fidUnit i vs u
  | .patchText k a w => s.fidMod k [{ wr := true, mem := .text k, key := a.toNat / 2 * 2, len := 1 }] fun c => { c with text := Store.set 0 c.text a.toNat w }
  | .readTrace k => match s.coreAt k with
    | some c => ((s.reply (.trace k c.trace)).modCore k fun c => { c with trace := [] }, 0)
    | none => (s, 7)
  | .trace k on => match s.coreAt k with
    | some _ => (s.modCore k fun c => { c with tracing := on }, 0)
    | none => (s, 7)
/-- FID (R328 to R330): its sideband connector does not need the host port's die (R328). -/
def execFid (h : MsgHdr) (c : FidCmd) (s : State) : Out :=
  messageIf (s.host.reads h) h (lenHolds h c.payload) (.fid h c) false (fun s => s.fidDo c) s

end Sys2Proof.Machine
end

