-- ==== Sys2Proof/Machine/Poison.lean ====
section
/-! DEFINITION. Poison.lean: what the reads and writes of a step do to poisoned words (R351). -/
namespace Sys2Proof.Machine

/-- Bytes of an element of a copy side. -/
def State.copySpan (s : State) (c : Core) (wr g : Bool) (a n : Nat) : List Span :=
  if g then [{ wr := wr, mem := .gtable, key := Config.gatherBytes * c.site + a, len := n }]
  else match s.copyPlace c g a n with
    | some p => p.span c wr n
    | none => []
/-- Bytes of an access. -/
def MemOp.spans (c : Core) (op : MemOp) (p : Place) (n : Nat) : List Span :=
  match op with
  | .store _ _ => p.span c true n
  | .amo _ _ _ _ _ _ => p.span c false n ++ p.span c true n
  | _ => p.span c false n
/-- Bytes of tile m from a byte on that are written (R203). -/
def Core.tileSpan (c : Core) (m at_ n : Nat) : Span := { wr := true, mem := .regs c.id 1, key := 65536 * m + at_, len := n }
/-- The first n accumulators, behind the tiles in their register file. -/
def Core.accSpan (c : Core) (wr : Bool) (n : Nat) : Span := { wr := wr, mem := .regs c.id 1, key := 8 * 65536, len := 4 * n }
/-- The slot that a push fills as it lands (R290). -/
def Core.arriveSpan (c : Core) (h : HReg) (n : Nat) : List Span :=
  let x := c.ringNow h
  if x.takes n then (Place.scratch (x.slotAt x.pidx)).span c true n else []
/-- What takes effect at the end of the cycle writes: the slot that a push fills only then, the entry of FQ that a format word fills. -/
def Core.eocSpans (c : Core) : Eoc → List Span
  | .arrive _ h bs _ =>
    let x := c.hnd h
    if x.takes bs.length then (Place.scratch (x.slotAt x.pidx)).span c true bs.length else []
  | .fqPush _ => [{ wr := true, mem := .queue c.id 6, key := 8 * ((c.mtx.fqHead.toNat + c.mtx.fq.length) % 16), len := 8 }]
  | _ => []
/-- The bytes of memory that the collective which ends touches; none where it still waits for one before it. -/
def State.collSpans (s : State) (c : Core) (g : BitVec 3) : List Span :=
  match c.colls.find? fun k => k.group == g with
  | none => []
  | some k =>
    if !s.collFirst g c then []
    else (if k.form.sourced k.members (field k.src 12 0) s.pkgid then s.copySpan c false false k.srcAddr k.srcBytes else []) ++
      s.copySpan c true false k.dst.toNat k.dstBytes
/-- Bytes that an effect in scratch touches. -/
def LocalEff.spans (s : State) (c : Core) : LocalEff → List Span
  | .ctl op sh k _ =>
    let n := match op with
      | .load _ _ n _ => n
      | .store n _ => n
      | .amo _ _ _ w _ _ => amoBytes w
      | _ => 4
    op.spans c (if sh then .shared k else .scratch k) n
  | .write sh k bs => (if sh then Place.shared k else .scratch k).span c true bs.length
  | .beat _ k => (Place.scratch k).span c false 64
  | .row ks _ _ => ks.flatMap fun k => (Place.scratch k).span c false 4
  | .trnRow i => match c.mtx.trn with
    | some j => (Place.scratch (j.src + i * shPitch j.shape)).span c false (trnSize j.conv * shCols j.shape) ++
        [c.tileSpan j.m (512 * i) (if i + 1 = shRows j.shape then 65536 - 512 * i else 512)]
    | none => []
  | .resid k n => (Place.scratch k).span c false n
  | .acts xs => xs.flatMap fun x => match x with
    | .add _ a => (Place.scratch a).span c false 1
    | .endRow => []
  | .copy _ g a bs => s.copySpan c true g a bs.length
  | .status k _ => (Place.scratch k).span c true 8
  | .beats k n => (Place.scratch k).span c false n
  | .podData k n => (Place.scratch k).span c false n
  | .members _ a j m => (Place.scratch (a + 64 * j)).span c false (2 * min 32 (m - 32 * j))
  | .tile m at_ bs => [c.tileSpan m at_ bs.length]
  | .enter q bs => [{ wr := true, mem := .queue c.id q.toNat, key := (c.vec.lq.getD q.toNat []).length, len := bs.length }]
  | .arrive _ h bs => c.arriveSpan h bs.length
  | .collEnd g _ => s.collSpans c g
  | _ => []
/-- Bytes that the elements of a copy read from element j on. -/
def State.readSpans (s : State) (c : Core) (x : Snap) (j n : Nat) : List Span :=
  if x.fill then [] else (List.range n).flatMap fun i => s.copySpan c false x.sg (x.addr false (j + i)) (2 ^ x.e)
/-- The A and B bytes of the pass that runs now; none where it stalls. -/
def Core.passSpans (c : Core) : List Span :=
  match c.progDue false with
  | some p => if c.passStalls p then [] else
      (Place.scratch (c.mtx.passA p.pass).toNat).span c false (128 * fmtBytes (fwAfmt c.mtx.cfw)) ++
        (Place.wstack (c.mtx.passB p.pass).toNat).span c false (128 * fmtBytes (fwBfmt c.mtx.cfw))
  | none => []
/-- The token bytes that the chunk read now takes of its stream's slots. -/
def Core.chunkSpans (c : Core) : List Span :=
  match c.chunkDue with
  | some (p, _) => (List.range (4 - p.tok % 4)).flatMap fun i =>
      let t := p.tok + i
      if 2 * t < p.slot * p.srcs.length then
        (Place.scratch (p.srcs.getD (2 * t / p.slot) 0 + 2 * t % p.slot)).span c false 2 else []
  | none => []
/-- The bytes that a gather reads now: the words of its stream, and the rows of a beat of gather table SRAM. -/
def GJob.spans (j : GJob) (c : Core) : List Span :=
  let words := (List.range 32).filter fun i => decide (j.start + 2 + (j.k + i) / 32 ≤ c.now) && decide (4 * (j.k + i) + 4 ≤ j.w * j.slot)
  let lo := 64 * j.beat / j.tab.rb
  (if j.more then words.flatMap fun i =>
    let o := 4 * (j.k + i)
    (Place.scratch (j.srcs.getD (o / j.slot) 0 + o % j.slot)).span c false 4 else []) ++
  (if j.tab.g && (j.beatReady c.now || j.partReady c.now) then
    ((j.rows.drop lo).take ((64 * j.beat + 63) / j.tab.rb + 1 - lo)).filterMap fun r => r.1.map fun i =>
      { wr := false, mem := .gtable, key := Config.gatherBytes * c.site + j.rowAddr i, len := j.tab.rb } else [])
/-- The bytes that the gathers of a core read in GTH's turn. -/
def Core.gatherSpans (c : Core) : List Span := (c.gtail ++ c.gjob.toList).flatMap fun j => j.spans c
/-- Bytes that an event of the moving core touches. -/
def State.eventSpans (s : State) (i : Instr) : List Span :=
  let c := s.core
  match i with
  | .copyElement ch => match (c.ch ch.toNat).snap with
    | some x => s.readSpans c x x.nread 1
    | none => []
  | .copyPiece ch => match (c.ch ch.toNat).asks with
    | some x => s.readSpans c x x.nread x.pieceLen
    | none => []
  | .pageMove ch false => match s.nextPage ch.toNat with
    | some (e, _, _, dst) => [{ wr := true, mem := if e.cls = 0 then .stage else .hbm, key := dst, len := e.pageLen }]
    | none => []
  | .scheduleEntryStart => match c.entryDue with
    | some ch =>
      let h := c.ch ch
      match h.sched with
      | some b =>
        if !h.entry.isEmpty || (isTranslated b.addr.toNat && !h.fetched) then []
        else s.copySpan c false false (b.addr.toNat + 32 * b.next) 32
      | none => []
    | none => []
  | .mgoPass => c.passSpans ++ (if c.passSpans.isEmpty then [] else [c.accSpan false 16384, c.accSpan true 16384])
  | .mgvrChunk => c.chunkSpans
  | _ => []
/-- The elements that a swap writes (R117). -/
def State.swapSpans (s : State) : List Span :=
  match s.swapDue with
  | none => []
  | some p => match (s.ctxOf p.1).bind fun x => (x.planes[p.2.1]?).map fun d => (x, d) with
    | none => []
    | some (x, d) =>
      let base : List (EccMem × Nat) := match x.regionPlace d p.2.2.1 with
        | .shared k => [(.shared, k)]
        | .stage _ k => [(.stage, k)]
        | _ => []
      base.flatMap fun b =>
        if d.clear then [{ wr := true, mem := b.1, key := b.2, len := d.units * 65536 }]
        else (s.planes.filter fun y => y.ctx == x.id && y.reg == p.2.1 && y.site == (if d.shared then p.2.2.1 else 0) && !y.cl).map fun y =>
          { wr := true, mem := b.1, key := b.2 + y.elem * d.elem, len := d.elem }
/-- The bytes of scratch that an answer of the fabric writes (R299, R301). -/
def Core.answerSpans (c : Core) (pkg : BitVec 13) (r : PodAns) : List Span :=
  match r, c.lnk.podq.find? fun p => p.pkg == pkg with
  | .ok bs, some p => match p.kind with
    | .get dst _ => (Place.scratch (dst + p.off)).span c true (bs.take p.part).length
    | .atomic _ w dst _ _ => (Place.scratch dst).span c true (bs.take (amoBytes w)).length
    | _ => []
  | _, _ => []
/-- Bytes that the access of a flight touches as it acts; a push, and a piece that its core writes, are effects of the core's cycle. -/
def State.flightSpans (s : State) (f : Flight) : List Span :=
  match f.cargo, s.coreAt f.core with
  | .req op, some c => match s.locate c f.addr.toNat op.bytes with
    | .ok (p, _) => op.spans c p op.bytes
    | .error _ => []
  | .piece _ g ws, some c => if s.onDieNow c g ws then [] else ws.flatMap fun w => s.copySpan c true g w.1 w.2.length
  | .podAns pkg r, some c => if s.runsCycle c then [] else c.answerSpans pkg r
  | .rowAsk n, some c => s.copySpan c false false f.addr.toNat n
  | .collAns g _, some c => if s.runsCycle c then [] else s.collSpans c g
  | _, _ => []
/-- Bytes that a flight touches in the cycle in which it acts, also as an effect of a core's cycle. -/
def State.cycleSpans (s : State) (f : Flight) : List Span :=
  match f.cargo with
  | .push dst h bs => match s.coreAt dst with
    | some c => c.arriveSpan h bs.length
    | none => []
  | .piece _ g ws => match s.coreAt f.core with
    | some c => ws.flatMap fun w => s.copySpan c true g w.1 w.2.length
    | none => []
  | .podAns pkg r => match s.coreAt f.core with
    | some c => c.answerSpans pkg r
    | none => []
  | .collAns g _ => match s.coreAt f.core with
    | some c => s.collSpans c g
    | none => []
  | _ => s.flightSpans f
/-- The poisoned words that a read of a range meets. -/
def State.poisonIn (s : State) (p : Span) : List EccLoc := if p.wr then [] else s.poisoned p.mem.has p.key p.len
/-- The columns of B in which a pass meets poisoned words: one for each word, the first that it reaches into. -/
def State.badColumns (s : State) : List Nat :=
  s.core.passSpans.flatMap fun p => match p.mem with
    | .wstack _ => (s.poisonIn p).map fun l => (eccKey l - p.key) / fmtBytes (fwBfmt s.core.mtx.cfw)
    | _ => []
/-- A pass that reads an uncorrectable word of A or B is a mismatch of that pass as well (R207): in the lowest column whose word of B it
is, and in a column that the manual leaves open where it is a word of A. -/
def State.passMismatch (s : State) : State :=
  match s.core.progDue false with
  | some p =>
    if s.core.passSpans.all fun q => (s.poisonIn q).isEmpty then s else
      let far := s.core.passSpans.any fun q => (match q.mem with
        | .scratch _ => true
        | _ => false) && !(s.poisonIn q).isEmpty
      let cols := s.badColumns ++ (if far then [(Config.freeEval s.free).toNat % 128] else [])
      { s with free := s.free + 1 }.mapCore fun c => c.mismatch p.pass (cols.min?.getD 0)
  | none => s
/-- An engine reads the word it comes to: one in a poisoned word of instruction SRAM is an uncorrectable error of the fetch (R351). -/
def State.fetch (s : State) (e : Nat) : State :=
  let x := s.core.engOf e
  let k := s.core.id
  if s.poison.isEmpty || x.reached != s.core.now then s else
    match s.poison.find? fun l => match l with
      | .text i a => i == k && a / 2 == x.pc.toNat / 2
      | _ => false with
    | some l => { s with free := s.free + 1 }.consume k {
        kind := 2, site := BitVec.ofNat 6 (eccSite l), unit := BitVec.ofNat 16 (k.toNat % 16), addr := dw (eccKey l)
        synd := Config.freeEval s.free }
    | none => s
/-- Reads of poisoned words are uncorrectable errors of core k; writes clear the marks they cover (R351). -/
def State.touch (s : State) (k : CoreId) (l : List Span) : State :=
  l.foldl (fun s p => if p.wr then s.unpoison p.mem.has p.key p.len else s.readPoison k p.mem.has p.key p.len) s
/-- The same, where any word is poisoned at all. -/
def State.touchIf (s : State) (k : CoreId) (l : State → List Span) : State := if s.poison.isEmpty then s else s.touch k (l s)

end Sys2Proof.Machine
end

