-- ==== Sys2Proof/Machine/RegEcc.lean ====
section
/-! DEFINITION. RegEcc.lean: what a word does to poisoned words of the register files, of queues and of DQ (R235, R258, R351). The manual
numbers none of these words: the general registers, the registers of MTX and those of VEC are files 0, 1 and 2, and a word of a queue or of
DQ goes by its distance from the head. DESIGN CHOICE (log entry 40). -/
namespace Sys2Proof.Machine

/-- A register of file 0, elements of a vector register, elements of a tile. -/
def gSpan (k : CoreId) (wr : Bool) (r : GReg) : Span := { wr := wr, mem := .regs k 0, key := 8 * r.toNat, len := 8 }
def vSpan (k : CoreId) (wr : Bool) (r : VReg) (e n : Nat) : Span := { wr := wr, mem := .regs k 2, key := 4096 * r.toNat + 4 * e, len := 4 * n }
def tSpan (k : CoreId) (m : BitVec 3) (n : Nat) : Span := { wr := false, mem := .regs k 1, key := 65536 * m.toNat, len := 4 * n }

/-- The elements of vector registers that a word reads. -/
def Core.vecReads (c : Core) (i : Instr) : List Span :=
  let u := c.vec
  let v (a : VReg) (n : Nat) : Span := vSpan c.id false a 0 n
  match i with
  | .vstq a _ _ _ _ | .vneg _ a | .vabs _ a | .vrcp _ a | .vrsq _ a | .vsqrt _ a | .vexp2 _ a | .vlog2 _ a | .vsinp _ a | .vfloor _ a
  | .vcvt _ a _ _ | .vqbx _ a _ _ | .vpack _ a _ _ | .vredSumRow _ a | .vredMaxRow _ a | .vredMinRow _ a | .vredSumCol _ a
  | .vredMaxCol _ a | .vredMinCol _ a | .vredSumAll _ a | .vredMaxAll _ a | .vredMinAll _ a | .vtrn _ a => [v a u.n]
  | .vadd _ a b | .vsub _ a b | .vmul _ a b | .vmin _ a b | .vmax _ a b | .viadd _ a b | .visub _ a b | .vimul _ a b | .vand _ a b
  | .vor _ a b | .vxor _ a b | .vshl _ a b | .vshr _ a b | .vcmp _ a b _ _ => [v a u.n, v b u.n]
  | .vfma _ a b k | .vsel _ a b k _ => [v a u.n, v b u.n, v k u.n]
  | .vdqbx _ a f => [v a (u.rows * (fmtW f.toNat + 1))]
  | .vunpk _ a _ k => [v a ((packSize k * u.n + 3) / 4)]
  | .vbcast _ a m => [v a (if m = 0 then u.rows else if m = 1 then u.cols else 1)]
  | .vperm _ a b => v b u.n :: (u.els b u.n).map fun x => vSpan c.id false a (x.toNat % 1024) 1
  | .vexpr _ x => (slotRegs (u.slots.getD x.toNat {}).bits).map fun r => v r u.n
  | .vdefer a b k => (a :: regRun b k.toNat).map fun r => v r u.n
  | .vdret _ a b => [v a 1024, v b 1024]
  | .vgrpc _ a _ _ _ => [v a u.n]
  | _ => []
/-- The elements of vector registers that a word writes. -/
def Core.vecWrites (c : Core) (i : Instr) : List Span :=
  let u := c.vec
  let v (d : VReg) (n : Nat) : Span := vSpan c.id true d 0 n
  match i with
  | .vredSumRow d _ | .vredMaxRow d _ | .vredMinRow d _ => [v d u.rows]
  | .vredSumCol d _ | .vredMaxCol d _ | .vredMinCol d _ => [v d u.cols]
  | .vredSumAll d _ | .vredMaxAll d _ | .vredMinAll d _ => [v d 1]
  | .vqbx d _ _ f => [v d (u.rows * (fmtW f.toNat + 1))]
  | .vpack d _ _ k => [v d ((packSize k * u.n + 3) / 4)]
  | .vdrain d a k => (a :: regRun d k.toNat).map fun r => v r 1024
  | .vdret d _ b => (u.els b 1024).filterMap fun x => if x.toNat < 1024 then some (vSpan c.id true d x.toNat 1) else none
  | .vgrpc d _ b k _ => [v d 1024, v b 1024, v k u.rows]
  | .vrngkSave d => [v d 8]
  | .vldq d _ _ | .vadd d _ _ | .vsub d _ _ | .vmul d _ _ | .vmin d _ _ | .vmax d _ _ | .viadd d _ _ | .visub d _ _ | .vimul d _ _
  | .vand d _ _ | .vor d _ _ | .vxor d _ _ | .vshl d _ _ | .vshr d _ _ | .vcmp d _ _ _ _ | .vfma d _ _ _ | .vsel d _ _ _ _ | .vneg d _
  | .vabs d _ | .vrcp d _ | .vrsq d _ | .vsqrt d _ | .vexp2 d _ | .vlog2 d _ | .vsinp d _ | .vfloor d _ | .vcvt d _ _ _ | .vdqbx d _ _
  | .vunpk d _ _ _ | .vbcast d _ _ | .vperm d _ _ | .vtrn d _ | .vexpr d _ | .vrng d _ | .viota d _ => [v d u.n]
  | _ => []
/-- The word at the head of FQ, which goes by its entry (R186). -/
def Core.fqSpan (c : Core) : List Span := if c.mtx.fq.isEmpty then [] else [{ wr := false, mem := .queue c.id 6, key := 8 * c.mtx.fqHead.toNat, len := 8 }]
/-- The elements of tiles and accumulators that an MTX word reads and writes at its issue, and the format word it removes; what it reads row by
row is `lookSpans`, and what it writes later is an effect of its own. -/
def Core.mtxSpans (c : Core) (i : Instr) : List Span :=
  match i with
  | .mdrev _ m _ => [tSpan c.id m 16384]
  | .mclra => [c.accSpan true 16384]
  | .mgo _ _ k _ => if c.mtx.prog.isSome then [] else c.fqSpan ++ (if k = 1 then [c.accSpan true 16384] else [])
  | .mgvr _ _ _ _ _ => if c.mtx.gvp.isSome then [] else c.fqSpan
  | _ => []
/-- The rows of tiles and accumulators that MTX reads, and clears, in this cycle: those of a word that reads one a cycle, and those of a drain
(R213, R223, R235; Tables 9-5, 10-7). -/
def Core.lookSpans (c : Core) : List Span :=
  let at_ (wr : Bool) (k n : Nat) : Span := { wr := wr, mem := .regs c.id 1, key := k, len := n }
  (match c.mtx.look with
    | some l =>
      let i := c.now - l.start
      if c.now < l.start ∨ l.rows ≤ i then [] else
        (match l.drev with
          | none => [at_ false (l.key + 512 * i) 512]
          | some t => (List.range 128).map fun k => at_ false (l.key + 4 * t.perm false (128 * i + k)) 4) ++
        (if l.clr then [at_ true (l.key + 512 * i) 512] else [])
    | none => []) ++
  (match c.mtx.job with
    | some j =>
      (if c.now < j.start + shRows j.shape then [{ c.accSpan false (shCols j.shape) with key := 8 * 65536 + 512 * (c.now - j.start) }] else []) ++
      (if c.drainDue.isSome && j.clr && (firstTrap (c.drainChecks j)).isNone then [c.accSpan true 16384] else [])
    | none => [])
/-- The fault that engine e has taken as it ran its word: c is the core before it and d after. -/
def Core.tookFault (c d : Core) (e : Nat) : Option Byte :=
  if e = 0 then (if d.trap.tl && !c.trap.tl then some d.trap.cause else none)
  else match (c.engOf e).stop, (d.engOf e).stop with
    | none, some x => some x.cause
    | _, _ => none
/-- What a word has read that faults as it comes to issue: its general registers, but where it fails decode; the register of a VSTQ that
fails its bound and the conditions of a VDEFER that finds DQ full; the format word that an MGO or MGVR cannot take (R258). -/
def Core.faultReads (c : Core) (e : Nat) (i : Instr) (cause : Byte) : List Span :=
  (if cause.toNat ≤ 3 then [] else (regsOf e i).map (gSpan c.id false)) ++
  match i with
  | .vstq _ _ _ _ _ => if cause = 0x10 then c.vecReads i else []
  | .vdefer a _ _ => if cause = 0x17 then [vSpan c.id false a 0 c.vec.n] else []
  | .mgo _ _ _ _ => if c.mtx.prog.isNone ∧ (cause = 0x0E ∨ cause = 4 ∨ cause = 5) then c.fqSpan else []
  | .mgvr _ _ _ _ _ => if c.mtx.gvp.isNone ∧ c.mtx.gvc.isSome ∧ (cause = 0x0E ∨ cause = 4 ∨ cause = 5) then c.fqSpan else []
  | _ => []
/-- The general registers that a word has written, or waits for a load of. -/
def Core.gWrites (c d : Core) : List Span :=
  ((List.range 32).map (BitVec.ofNat 5)).filterMap fun r =>
    if c.g r != d.g r || c.ctl.ready.getD r.toNat 0 != d.ctl.ready.getD r.toNat 0 || c.pendTag r != d.pendTag r then some (gSpan c.id true r)
    else none
/-- The words of a queue that have left it are read, and its other words come nearer to the head. -/
def State.leaves (s : State) (m : EccMem) (n : Nat) : State :=
  if n = 0 then s else
    let t := s.touch s.core.id [{ wr := false, mem := m, key := 0, len := n }]
    { t with poison := (t.poison.filter fun l => !(m.has l && decide (eccKey l < n))).map fun l =>
        if m.has l then (match l with
          | .queue k e i => .queue k e (i - n)
          | .dq k i => .dq k (i - n / 8)
          | x => x) else l }
/-- What a word of engine e does to the poison of registers and queues: c is the core before it and t the state after. A word that waits
does nothing, and one that faults has read. -/
def State.regTouch (t : State) (c : Core) (e : Nat) (i : Instr) : State :=
  let d := t.core
  if t.poison.isEmpty || d.id != c.id then t else
  match c.tookFault d e with
  | some k => t.touch c.id (c.faultReads e i k)
  | none =>
  if (d.engOf e).passAt != c.now + 1 then t else
    let l := (regsOf e i).map (gSpan c.id false) ++ c.vecReads i ++ c.mtxSpans i ++ c.gWrites d ++ c.vecWrites i
    let t1 := t.touch c.id l
    let t2 := (List.range 4).foldl (fun t q => t.leaves (.queue c.id q) ((c.vec.lq.getD q []).length - (d.vec.lq.getD q []).length)) t1
    let t3 := (List.range 2).foldl (fun t q => t.leaves (.queue c.id (4 + q)) ((c.vec.sq.getD q []).length - (d.vec.sq.getD q []).length)) t2
    if c.vec.dq.length < d.vec.dq.length then
      t3.touch c.id [{ wr := true, mem := .dq c.id, key := 8 * c.vec.dq.length, len := 8 * (d.vec.dq.length - c.vec.dq.length) }]
    else t3.leaves (.dq c.id) (8 * (c.vec.dq.length - d.vec.dq.length))
/-- An own word runs, with the poison of the registers and queues that it reads and writes. -/
def withRegs (run : Instr → State → Out) (e : Nat) (i : Instr) (s : State) : Out :=
  if s.poison.isEmpty then run i s else
    match run i s with
    | .next t => ok (t.regTouch s.core e i)
    | o => o
/-- The bytes that enter the store queues at the end of this cycle. -/
def Core.enterSpans (c : Core) : List Span :=
  (c.vec.retq.filter fun r => decide (r.due ≤ c.now)).filterMap fun r => r.push.map fun p =>
    { wr := true, mem := .queue c.id (4 + bit p.1), key := (c.vec.sq.getD (bit p.1) []).length, len := p.2.length }
/-- The oldest outcome in the queue of engine e, which goes by its distance from the newest (R33). -/
def Core.outcomeSpan (c : Core) (e : Nat) : List Span :=
  [{ wr := false, mem := .queue c.id (8 + e), key := 8 * ((c.engOf e).outcomes.length - 1), len := 8 }]
/-- An outcome enters the queues of the other engines as a CTL word retires: those before it come further from the newest. -/
def State.shiftOutcomes (s : State) : State :=
  let c := s.core
  if s.poison.isEmpty || !(c.retireDue.any fun r => r.outc.isSome) then s else
    { s with poison := s.poison.map fun l => match l with
        | .queue k e i => if k = c.id ∧ 8 ≤ e.toNat ∧ !(c.engOf (e.toNat - 8)).exited then .queue k e (i + 8) else l
        | _ => l }
/-- The local reads of a waiting LWSIG or WEV in this cycle meet the poison of their words, until the error of one is to cancel the
step (R302, R351). -/
def State.touchWaits (s : State) : State :=
  let c := s.core
  if s.poison.isEmpty || s.ctx.any (fun x => x.cancels.contains (c.step.map fun t => t.1)) then s
  else s.touch c.id ((waitPorts c.now c.lnk.wsig ++ waitPorts c.now c.ctl.wev).map fun p =>
    { wr := false, mem := .scratch c.id, key := p.2.2.1, len := p.2.2.2 })

end Sys2Proof.Machine
end

