-- ==== Sys2Proof/Machine/Cycle.lean ====
section
/-! DEFINITION. Cycle.lean: what one step does: the events of the package, the events of a core, the turn of an engine at its
word, and the end of a core's cycle (R3, R31 to R36, R109, R128 to R133, R140, R313). Step.lean calls it with the meanings of
Dispatch.lean. -/
namespace Sys2Proof.Machine

/-- What runs an instruction or an event. -/
abbrev Run := Instr → State → Out
/-- Go on from the state that a first part leaves. -/
def andThen (o : Out) (f : State → Out) : Out :=
  match o with
  | .next s => f s
  | .fault r => .fault r
  | .refused r => .refused r
/-- One part after another. -/
def inOrder : List (State → Out) → State → Out
  | [], s => ok s
  | f :: t, s => andThen (f s) (inOrder t)
/-- Repeat a part while an event is due, at most n times. -/
def whileDue (run : Run) (due : State → Option Instr) : Nat → State → Out
  | 0, s => ok s
  | n + 1, s => match due s with
    | some i => andThen (run i s) (whileDue run due n)
    | none => ok s
/-- An event runs if it is due. -/
def ifDue (run : Run) (due : State → Bool) (i : Instr) (s : State) : Out := if due s then run i s else ok s

/-! ### Events of the package -/

/-- Whether the moving core is the first of the package's cores. -/
def State.firstCore (s : State) : Bool := s.others.all fun c => decide (s.core.id < c.id)
/-- The error that a core has consumed and not yet reported. -/
def State.errDue (s : State) : Option Instr :=
  s.allCores.findSome? fun c => if c.live then c.err.map fun e => Instr.uncorrectableError c.id e else none
/-- The freeze that takes place now. -/
def State.freezeEvent (s : State) : Option Instr :=
  (s.frozenNext fun _ => true).map fun p => if p.2 == .cancel then Instr.stepCancel else Instr.preemptFreeze
/-- The first of several events that is due. -/
def firstOf : List (Bool × Instr) → Option Instr
  | [] => none
  | (b, i) :: t => if b then some i else firstOf t
/-- What the launch sequencer does now (R320). -/
def State.sequence (s : State) : Option Instr :=
  s.pick.map fun p => match p with
    | .resume _ => Instr.contextResume false false
    | _ => Instr.launchPlace
/-- The bytes that the page moves of a core which can go on now write. -/
def State.moveSpans (s : State) (c : Core) : List Span :=
  c.chan.toList.flatMap fun h => match h.page, s.ctxOf c.ctx with
    | some j, some x => if c.now < j.next then [] else match x.nextPage j with
      | some (e, _, _, dst) => [{ wr := true, mem := if e.cls = 0 then .stage else .hbm, key := dst, len := e.pageLen }]
      | none => []
    | _, _ => []
/-- Whether a plane swap of this cycle was made in the memory of a word. -/
def State.swapMade (s : State) (l : EccLoc) : Bool :=
  match l with
  | .dshared h _ => s.swapped.contains (true, h.toNat)
  | .stage b _ => s.swapped.contains (false, b.toNat)
  | _ => false
/-- Whether no write of this cycle takes the write port of the memory of a word. The manual gives no bank layout: a memory is taken as one
bank here (R350; DESIGN CHOICE, log entry 57). -/
def State.portIdle (s : State) (l : EccLoc) : Bool :=
  let free (ps : List Span) : Bool := ps.all fun p => !(p.wr && p.mem.has l)
  !s.swapMade l && (s.allCores.all fun c => free (s.moveSpans c)) &&
  (s.flights.all fun f => !s.lands f || free (s.cycleSpans f)) &&
    s.allCores.all fun c => c.frozen || c.halted || c.fly.all fun o => decide (c.now < o.due) || free (o.eff.spans s c)
/-- Whether the oldest corrected word can be written back (R350). -/
def State.wbackDue (s : State) : Bool :=
  match s.wback with
  | [] => false
  | p :: _ => s.portIdle p.1
/-- The event of the package that is due, of those that come before the traffic of the cycle. -/
def State.earlyEvent (s : State) : Option Instr :=
  match s.errDue with
  | some i => some i
  | none =>
    if s.killDone.isSome then some .killComplete else
      match s.freezeEvent with
      | some i => some i
      | none => firstOf [(s.saveDue.isSome, .preemptFreeze), (s.swapDue.isSome, .planeSwap), (s.wbackDue, .scrubWriteback)]
/-- The event of the package that is due, of those that come after the traffic of the cycle. -/
def State.lateEvent (s : State) : Option Instr :=
  match firstOf [(s.ctxDone.isSome && !s.exitDue, .coreExitRetire), ((s.nodeDue Launch.readyNode).isSome, .graphNodeReady),
      ((s.nodeDue fun l => l.pollNode s.clock).isSome, .graphWaitPoll)] with
  | some i => some i
  | none =>
    match s.sequence with
    | some i => some i
    | none => firstOf [(s.startDue.isSome, .contextStart)]
/-- A flight comes to its end and acts (R108, R161, R292, R296, R304): what it reads and writes meets the poison of its words (R351). -/
def land (run : Run) (f : Flight) (r : List Flight) (s : State) : Out :=
  let s0 := s.touchIf f.core fun s => s.flightSpans f
  let s1 := { s0 with flights := r }
  match f.cargo with
  | .piece ch g ws => ok (s1.landPiece f ch g ws)
  | .hawser pkg cl => ok (s1.leave f.core pkg cl)
  | .podAns pkg a => run (.podAnswer f.core pkg a) s1
  | .collAns g a => run (.collectiveDone f.core g a) s1
  | .rowAsk n => ok (s1.landRowAsk f n)
  | .row bs => ok (s1.landRow f bs)
  | x => match x.event with
    | some i => run i s0
    | none => ok s1
/-- Nothing of the package is due in this cycle. -/
def State.packageIdle (s : State) : Bool := s.earlyEvent.isNone && s.overtaken.isNone && s.landing.isNone && s.lateEvent.isNone
/-- What is due of the package: a swap comes before the accesses of its cycle (R149). -/
def packageMove (run : Run) (s : State) : Option Out :=
  match s.earlyEvent with
  | some i => some (run i (if i = .planeSwap then s.touchIf s.core.id State.swapSpans else s))
  | none =>
    match s.overtaken with
    | some t => some (ok t)
    | none => match s.landing with
      | some (f, r) => some (land run f r s)
      | none => s.lateEvent.map fun i => run i s

/-! ### Events of a core -/

/-- The first channel that a test admits. -/
def Core.channel (c : Core) (p : Channel → Bool) : Option (BitVec 3) :=
  ((List.range 8).find? fun ch => p (c.ch ch)).map fun ch => BitVec.ofNat 3 ch
/-- Whether a waiting word of stage memory is to be read again (R302). -/
def State.rereadDue (s : State) : Bool := (s.rereads s.core.lnk.wsig).isSome || (s.rereads s.core.ctl.wev).isSome
/-- Whether the continue cycle of a barrier has come (R149, R150). -/
def Core.continueDue (c : Core) : Bool :=
  match c.bar with
  | some b => (match b.rel with
    | some (_, cont) => decide (cont ≤ c.now)
    | none => false)
  | none => false
/-- The copy event that is due. -/
def State.copyEvent (s : State) : Option Instr :=
  let c := s.core
  match if c.cpyReads < 4 then c.channel fun h => h.readDue c.now else none with
  | some ch => some (.copyElement ch)
  | none =>
    match s.pieceDue with
    | some ch => some (.copyPiece (BitVec.ofNat 3 ch))
    | none =>
      if c.entryDue.isSome then some .scheduleEntryStart else
        s.pageDue.map fun ch => .pageMove (BitVec.ofNat 3 ch) (!(s.pageBad ch).isEmpty)
/-- The event of the moving core that is due at the start of its cycle. -/
def State.coreEvent (s : State) : Option Instr :=
  let c := s.core
  match s.copyEvent with
  | some i => some i
  | none => firstOf [(c.rowDue.isSome, .gatherRowArrive), (c.departDue.isSome, .pushBeatDepart), (s.rereadDue, .waitPeriodicRead),
      (c.continueDue, .stepContinue), (s.releaseAt.isSome, .cleatRelease), (s.grantDue, .powerGrant),
      ((c.progDue false).isSome, .mgoPass), ((c.progDue true).isSome, .autoDrain), (c.chunkDue.isSome, .mgvrChunk)]
/-- What another effect of this cycle has written where a push has put its bytes already is what comes back should the push have to leave
its slot again (R140, R290). -/
def State.keepBelow (s : State) (l : List Span) : State :=
  let kept (a : Nat) (was : List Byte) : List Byte := was.zipIdx.map fun p =>
    if l.any fun q => q.wr && q.mem == .scratch s.core.id && decide (q.key ≤ a + p.2) && decide (a + p.2 < q.key + q.len) then
      Store.get 0 s.core.scratch (a + p.2) else p.1
  if s.core.eoc.isEmpty then s else s.mapCore fun c => { c with eoc := c.eoc.map fun x => match x with
    | .arrive k h bs (some (a, was)) => .arrive k h bs (some (a, kept a was))
    | x => x }
/-- The next effect of the moving core that is due in scratch performs (R140, R143). -/
def State.localStep (s : State) : Option State :=
  (firstDue s.core.now s.core.fly).map fun p =>
    match s.core.writesBefore p.1 with
    | some t => { s with core := { s.core with fly := p.2 ++ [{ p.1 with due := t }] } }
    | none =>
    let s1 := s.touchIf s.core.id fun s => p.1.eff.spans s s.core
    let s2 := { s1 with core := { s1.core with fly := p.2 } }
    match p.1.eff with
    | .collEnd g r => s2.collDone s2.core.id g r
    | _ => (s2.doHeld p.1).keepBelow (p.1.eff.spans s s.core)

/-! ### The turn of an engine -/

/-- The turn passes on; a gather moves before GTH's turn (R304). -/
def State.nextTurn (s : State) : State :=
  let t : BitVec 3 := if s.core.tail then 7 else s.core.turn + 1
  let s1 := s.mapCore fun c => { c with turn := t }
  if t = 5 then (s1.touchIf s1.core.id fun s => s.core.gatherSpans).gatherTurn else s1
/-- The engine waits under a code, and the turn passes on. -/
def passWait (s : State) (e : Nat) (code : Byte) : Out := ok (s.mapCore fun c => c.noteWait e code).nextTurn
/-- One more word of the cycle is passed; after the eighth the engine stands at its word from the next cycle on (R32). -/
def Engine.pastOne (x : Engine) (now : Nat) : Engine :=
  { x with passed := x.passed + 1, came := if 8 ≤ x.passed + 1 then now + 1 else x.came }
/-- A word of another engine is passed (R32). -/
def Core.skip (c : Core) (e : Nat) : Core :=
  (c.goTo e ((c.engOf e).pc + 1)).modEng e fun x => x.pastOne c.now
/-- An engine follows an outcome of a steering word (R33); a taken one costs it a cycle (R32), after the cycle it comes to an end with where it
is its eighth word (R40). -/
def Core.follow (c : Core) (e : Nat) (o : Outc) (rest : List Outc) : Core :=
  let f (x : Engine) : Engine := { x.pastOne c.now with outcomes := rest, eaten := x.eaten ++ [o] }
  match o with
  | .notTaken => (c.goTo e ((c.engOf e).pc + 1)).modEng e f
  | .taken t => (c.goTo e t).modEng e fun x =>
    { f x with passAt := c.now + 1, came := if 8 ≤ x.passed + 1 then c.now + 2 else x.came }
/-- What an engine does at a word that is not its own (R31 to R33, R40). -/
def passWord (s : State) (e : Nat) (w : Word) : Out :=
  let c := s.core
  if e = 0 then
    if c.has (engField w).toNat then ok (s.mapCore fun c => c.skip 0)
    else andThen (decodeTrap s w 2 0) fun s => ok s.nextTurn
  else if isSteer w then
    match (c.engOf e).outcomes with
    | [] => passWait s e 3
    | o :: t => ok ((s.touchIf s.core.id fun s => s.core.outcomeSpan e).mapCore fun c => c.follow e o t)
  else ok (s.mapCore fun c => c.skip e)
/-- The lowest wait code of a word that a shared wait of code k holds: what its own entry would make it wait for, where that can
be told before its registers are ready. -/
def lowestWait (run : Run) (s : State) (e : Nat) (i : Instr) (k : Byte) : Byte :=
  match run i s with
  | .next t =>
    let x := t.core.engOf e
    if x.pos = (s.core.engOf e).pos ∧ x.stop.isNone ∧ t.core.trap.tl = s.core.trap.tl ∧ 0 < x.wait.toNat ∧ x.wait.toNat < k.toNat ∧
      (k ≠ 4 ∨ x.wait.toNat ≤ 3) then x.wait else k
  | _ => k
/-- The decode check that a word fails (R38): cause and reason. -/
def wordFault (s : State) (w : Word) : Option (Byte × Nat) :=
  match decode w with
  | .error .badSelector => some (1, 1)
  | .error .reservedNonzero => some (1, 2)
  | .ok i => decodeFault s i
/-- Whether the scheduled cycle of the own word of engine e has not come. -/
def Core.early (c : Core) (e : Nat) : Bool := !c.unscheduled e && decide (c.now < c.schedOf e)
/-- Engine e other than CTL comes to an ALL word that CTL has not gone past: one that fails decode stops it as it comes (R40). -/
def Core.meetsAll (c : Core) (e : Nat) (w : Word) : Bool :=
  e != 0 && engField w == 7 && decide ((c.engOf 0).pos ≤ (c.engOf e).pos)
/-- An own word before it can issue: a decode fault comes before every wait (R38 to R40, R129, R130). -/
def ownWord (run : Run) (s : State) (e : Nat) (w : Word) : Out :=
  match wordFault s w with
  | some f =>
    if s.core.early e && !s.core.meetsAll e w then ok s else decodeTrap s w f.1 f.2
  | none =>
    if s.core.early e then ok s else
      match decode w with
      | .error _ => ok s
      | .ok i =>
        if s.deviates e i then run .deviationTrap s
        else match sharedWait s e i with
          | some k => waitAt s e (lowestWait run s e i k)
          | none => withRegs run e i s
/-- The supervisor handler of the firmware, by its effect (R312, R316): within 2,048 cycles of its entry it returns, asks for a
halt, or asks for the kill of the context. DEDUCED (log entry 10). -/
def firmware (run : Run) (s : State) : Out :=
  let t := s.core.trap
  if s.core.now < t.snapAt + 1 + (Config.handlerCycles (1024 * t.snapAt + s.core.id.toNat)).val then waitAt s 0 0x0F
  else if t.cause = 0x19 then
    if t.pend.any fun p => p.cause == 0x23 then run .sret s
    else if s.host.fid then waitAt s.askHalt 0 0x0F
    else ok (s.mapCore fun c => { c with dying := true })
  else if t.cause = 0x20 ∨ t.cause = 0x21 ∨ (0x23 ≤ t.cause.toNat ∧ t.cause.toNat ≤ 0x25) then run .sret s
  else ok (s.mapCore fun c => { c with dying := true })
/-- Whether engine e may not pass its word yet, because the trailing engine is too far behind (R35). -/
def Core.windowed (c : Core) (e : Nat) : Bool :=
  !c.unscheduled e && (match c.low with
    | some p => decide (p + c.spr.twin.toNat < (c.engOf e).pos)
    | none => false)
/-- Whether user code has run into the firmware bank (R312). -/
def Core.bankFault (c : Core) (e : Nat) : Bool :=
  decide (63488 ≤ (c.engOf e).pc.toNat) && (if e = 0 then !c.trap.mode else c.userPath)
/-- Whether engine e stands at a word that fails a decode check of its own. Such a word is stopped at as the engine comes to it, though the
text window would still hold it: the window is a wait of the word, and R39 evaluates none. DEDUCED (log entry 89). -/
def State.faultsAt (s : State) (e : Nat) : Bool :=
  let c := s.core
  let w := Store.get 0 c.text (c.engOf e).pc.toNat
  let n := engField w
  if n = 7 ∨ n.toNat = e then (wordFault s w).isSome else e == 0 && !c.has n.toNat
/-- Whether CTL, held by a WEV, has come to what would stop it with a trap: no cycle of the hold is an instruction boundary, so the trap waits
until the WEV has ended (R39, R313, R338). -/
def State.trapHeld (s : State) (e : Nat) : Bool :=
  let c := s.core
  let x := c.engOf e
  e == 0 && x.held && (c.bankFault 0 || s.faultsAt 0 || (decide (63488 ≤ x.pc.toNat) && Store.get 0 c.text x.pc.toNat == 0))
/-- An engine at its word. A word of the firmware bank whose contents are not listed stands for the handler. -/
def wordStep (run : Run) (s0 : State) (e : Nat) : Out :=
  let s := s0.fetch e
  let c := s.core
  let x := c.engOf e
  let w := Store.get 0 c.text x.pc.toNat
  if s.trapHeld e then passWait s e 0x0F
  else if c.bankFault e then andThen (trapAt s e 5 (zextD x.pc)) fun s => ok s.nextTurn
  else if decide (63488 ≤ x.pc.toNat) && w == 0 then
    andThen (if e = 0 ∧ c.trap.tl then firmware run s else waitAt s e 0x0F) fun s => ok s.nextTurn
  else if engField w = 7 ∨ (engField w).toNat = e then andThen (ownWord run s e w) fun s => ok s.nextTurn
  else passWord s e w
/-- The core as engine e will stand at its next own word: past the words of other engines, on the path that the outcomes it
holds give; none while that path is not known (R33). -/
def Core.ahead (c : Core) (e : Nat) : Nat → Option Core
  | 0 => none
  | n + 1 =>
    let w := Store.get 0 c.text (c.engOf e).pc.toNat
    if engField w = 7 ∨ (engField w).toNat = e then some c
    else if e ≠ 0 ∧ isSteer w then
      match (c.engOf e).outcomes with
      | [] => none
      | o :: t => (c.follow e o t).ahead e n
    else (c.skip e).ahead e n
/-- The lowest wait code that an engine meets which may not pass on, for a reason of code `held`, to its next own word i: the text window
and the word's own waits count with it (R130, Table 6-2). -/
def heldCode (run : Run) (t : State) (e : Nat) (i : Instr) (held : Byte) : Byte :=
  let k := if t.core.windowed e then 2 else held
  match sharedWait t e i with
  | some j => lowestWait run t e i (if j.toNat < k.toNat then j else k)
  | none => lowestWait run t e i k
/-- Engine e may not pass on in this cycle, under a code: its next own word is late all the same, and takes its deviation trap when
its window has passed (R129, R130). Where the path to that word is not known yet, the engine waits for an outcome as well. -/
def heldBack (run : Run) (s : State) (e : Nat) (code : Byte) : Out :=
  match s.core.ahead e (s.core.text.length + 1) with
  | some c =>
    let t := { s with core := c }
    match decode (Store.get 0 c.text (c.engOf e).pc.toNat) with
    | .ok i =>
      if (decodeFault t i).isSome then passWait s e code
      else if t.deviates e i then andThen (run .deviationTrap t) fun s => ok s.nextTurn
      else passWait s e (heldCode run t e i code)
    | .error _ => passWait s e code
  | none => passWait s e (if code.toNat < 3 then code else 3)
/-- An engine that waits at an ALL word for CTL to take its fault goes on once CTL has gone past the word (R40). -/
def Core.unwait (c : Core) (e : Nat) : Core :=
  match (c.engOf e).stop with
  | some x => if x.waits && !c.trap.tl && decide ((c.engOf e).pos < (c.engOf 0).pos) then c.modEng e fun y => { y with stop := none } else c
  | none => c
/-- The turn of engine e. -/
def slot (run : Run) (s0 : State) : Out :=
  let s := s0.mapCore fun c => c.unwait c.turn.toNat
  let c := s.core
  let e := c.turn.toNat
  let x := c.engOf e
  if !c.has e || x.stop.isSome || x.marked then ok s.nextTurn
  else if e = 0 ∧ (c.retired ∨ c.dying) then ok s.nextTurn
  else if e = 0 ∧ c.trapDue then andThen (run .trapEntry s) fun s => ok s.nextTurn
  else if x.exited then ok s.nextTurn
  else if c.now < x.passAt ∨ 8 ≤ x.passed then heldBack run s e 0x0D
  else if c.windowed e && !s.faultsAt e then heldBack run s e 2
  else wordStep run s e

/-! ### The end of a cycle -/

/-- CTL may arrive at its STEP or BAR after all in this cycle: the last marker came after its turn (R149, R150). -/
def Core.arriveDue (c : Core) : Bool :=
  !c.tail && !(c.engOf 0).marked && (c.engOf 0).wait == 0x0A && c.allMarked
/-- Whether the die of a core is halted, of a context. -/
def State.haltedSite (s : State) (x : CtxId) (site : Nat) : Bool :=
  s.allCores.any fun c => c.halted && c.within x && c.site == site
/-- Whether the moving core waits at a barrier for a halted member, or at a POD barrier under HOLD (R328, R329). -/
def State.heldAtBar (s : State) : Bool :=
  match s.core.bar, s.ctx with
  | some b, some x =>
    b.rel.isNone && ((s.podHold && b.scope == 5) ||
      (x.barMembers s.core.id b).any fun k => s.haltedSite x.id (k.toNat / 16) && ((s.coreAt k).map fun c => c.bar.isNone).getD false)
  | _, _ => false
/-- The handle whose fill a word waits for, and the slots it needs (R94). -/
def filled : Instr → Option (HReg × BitVec 6)
  | .hadvC h w => some (h, w)
  | .mgo h w _ _ => some (h, w)
  | .mgvr h w _ _ _ => some (h, w)
  | .lpush h w _ _ => some (h, w)
  | .gthr h w _ => some (h, w)
  | .gsum h w _ => some (h, w)
  | _ => none
/-- The ring whose fill holds engine e at its word. -/
def Core.ringAt (c : Core) (e : Nat) : Option HReg :=
  match decode (Store.get 0 c.text (c.engOf e).pc.toNat) with
  | .ok i => (filled i).bind fun p => if (c.hnd p.1).fill < p.2.toNat then some p.1 else none
  | .error _ => none
/-- Engine e waits for the fill of a ring that a halted die produces (R329). -/
def State.heldAtRing (s : State) (e : Nat) : Bool :=
  let c := s.core
  let x := c.engOf e
  x.wait == 1 && decide (c.schedOf e ≤ c.now) && x.stop.isNone && !x.exited && (match s.ctx with
    | some y => y.routes.any fun r => r.dst == c.id && c.ringAt e == some r.handle && s.haltedSite y.id (r.src.toNat / 16)
    | none => false)
/-- The die whose memory answers, of a request or an answer on its way: the home of a word in stage memory. -/
def State.answersFrom (s : State) (f : Flight) : Option Nat :=
  match f.cargo with
  | .req _ | .reply _ _ _ _ | .claim _ | .claimAns _ _ =>
    match s.locate s.core f.addr.toNat 1 with
    | .ok (.stage home _, _) => some (Config.bfSite home)
    | _ => none
  | _ => none
/-- The register and the tag that a load of stage memory, or its answer, is for. -/
def Cargo.loads : Cargo → Option (GReg × Nat)
  | .req (.load d t _ _) | .req (.own d t) | .req (.amo d t _ _ _ _) | .reply d t _ _ => some (d, t)
  | _ => none
/-- Engine e waits for an answer of the stage memory of a halted die, or of another package by way of a halted CL die (R329): CTL for a
register that the word reads, a claim, a fence, a step or barrier; another engine for the load that CTL is to retire next; LNK for LQUIET.
Memory agents serve through the halt (R330), so the hold ends with the answer. Which waits these are is DEDUCED (log entry 52). -/
def State.heldAtAnswer (s : State) (e : Nat) : Bool :=
  let c := s.core
  let x := c.engOf e
  let dead (n : Nat) : Bool := s.haltedSite c.ctx n
  let reads : List GReg := match decode (Store.get 0 c.text x.pc.toNat) with
    | .ok i => regsOf 0 i
    | .error _ => []
  let wants (p : GReg × Nat) : Bool :=
    if e = 0 then c.ctl.pend.contains p && reads.contains p.1 else (c.ctl.retq.head?.bind CtlRet.tag) == some p.2
  let asked (q : Cargo → Bool) : Bool := s.flights.any fun f => f.core == c.id && q f.cargo && (s.answersFrom f).any dead
  let pods (q : PodKind → Bool) : Bool := c.lnk.podq.any fun p => q p.kind && dead (clSite p.pkg.toNat)
  decide (c.schedOf e ≤ c.now) && x.stop.isNone && !x.exited && (match x.wait.toNat with
    | 4 => asked (fun g => g.loads.any wants) || pods fun k => match k with
      | .load d t => wants (d, t)
      | _ => false
    | 9 => asked fun g => match g with
      | .claim _ | .claimAns _ _ => true
      | _ => false
    | 0x0A | 0x0E => e == 0 && (asked (fun _ => true) || pods fun _ => true)
    | 0x0F => e == 4 && c.lnk.quiet.isSome && pods fun _ => true
    | _ => false)
/-- Lateness and the deadline count stand still in a debug-hold (R328, R329). -/
def State.hold (s : State) : State :=
  if !s.podHold && !(s.allCores.any Core.halted) then s else
    let es := (List.range 7).filter fun e => s.heldAtRing e || s.heldAtAnswer e
    let c1 := es.foldl (fun (c : Core) e => c.modEng e fun x => { x with excuse := x.excuse + 1 }) s.core
    { s with core := if s.heldAtBar || !es.isEmpty then { c1 with stepRel := c1.stepRel + 1 } else c1 }
/-- What takes effect at the end of the cycle, in its order (R90, R96, R290, R340). -/
def endEffects (run : Run) : Nat → State → Out
  | 0, s => ok s
  | n + 1, s =>
    match firstEoc s.core.eoc with
    | none => ok s
    | some (x, r) =>
      let s1 := s.mapCore fun c => { c with eoc := r }
      match x with
      | .event i => andThen (run i s1) (endEffects run n)
      | y => endEffects run n ((s1.touchIf s.core.id fun s => s.core.eocSpans y).mapCore fun c => c.applyEoc y)
/-- Pushes land in the rings of a halted die (R330). -/
def landAll : Nat → State → State
  | 0, s => s
  | n + 1, s =>
    match firstEoc s.core.eoc with
    | none => s
    | some (x, r) =>
      let s1 := s.mapCore fun c => { c with eoc := r }
      landAll n ((s1.touchIf s.core.id fun s => s.core.eocSpans x).mapCore fun c => c.applyEoc x)
/-- The throttle counter of a core (Table 14-12). -/
def Core.countThrottle (c : Core) : Core :=
  if c.spr.denies && Config.denied c.spr.denied.toNat c.now && c.spr.thrCyc != 0xFFFFFFFF then
    { c with spr := { c.spr with thrCyc := c.spr.thrCyc + 1 } }
  else c
/-- Whether a context waits for its cores to be ready (R322). -/
def Context.quiesces (x : Context) : Bool := x.freeze.any fun f => f.1 != .kill
/-- The last things of a cycle: what the next cycle sees of this one, and local time goes on. -/
def State.turnOver (s : State) : State :=
  let c := (s.holdCtl (s.core.now + 1)).holdCopies (s.core.now + 1)
  let rdy := c.ready || (((s.ctx.map Context.quiesces).getD false) && c.readyNow)
  { s with core := { c.countThrottle with
      ready := rdy, seen := s.seenNow { c with now := c.now + 1 }, shown := s.csrView c.countThrottle, low := c.lowNow
      spr := { c.countThrottle.spr with draw := c.drawAt c.now }
      eng := c.eng.map fun x => { x with passed := if x.passAt ≤ c.now then 0 else x.passed }
      vec := { c.vec with taken := Vector.replicate 2 0 }
      cpyReads := 0, tail := false, turn := 0, now := c.now + 1 } }
/-- The global cycle is over: what takes effect at its end does, and the package stands between two cycles (R295, R308, R355). -/
def State.wrap (s : State) : State := { s.wrapped with clock := s.clock + 1, beats := [], swapped := [], fresh := true }
/-- The next core moves; after the last one the residue carries its beats, and the global cycle ends (R108, R293). -/
def nextCore (run : Run) (s : State) : Out :=
  match s.others.find? fun c => decide (s.core.id < c.id) with
  | some c => ok { s with core := c, others := insertCore s.core (s.others.filter fun x => x.id != c.id) }
  | none =>
    let s1 := match s.others with
      | [] => s
      | c :: t => { s with core := c, others := if s.core.live then insertCore s.core t else t }
    andThen (whileDue run (fun s => s.beatDue.map fun _ => .residueBeat) s.flights.length s1) fun s => ok s.wrap
/-- The end of a core's cycle. -/
def endCycle (run : Run) (s : State) : Out :=
  if s.core.arriveDue then ok (s.mapCore fun c => { c with turn := 0, tail := true }) else
    inOrder [
      fun s => ok s.shiftOutcomes,
      ifDue run (fun s => s.core.retireDue.isSome) .ctlRetire,
      fun s => ok s.retireFence,
      fun s => ok s.touchWaits,
      ifDue run (fun s => s.core.lnk.wsig.isSome || s.core.ctl.wev.isSome) .waitWordRead,
      fun s => ok (s.mapCore Core.endQuiet),
      fun s => ok s.endCopies,
      whileDue run (fun s => s.core.stopDone.map fun _ => .copyStopComplete) 8,
      whileDue run (fun s => s.core.statusDue.map fun _ => .copyStatusWrite) 8,
      fun s => ok (s.mapCore Core.seeMarks),
      fun s => ok (s.mapCore Core.countFrom),
      fun s => ok s.hold,
      ifDue run (fun s => s.core.deadlineDue) .deadlineFault,
      ifDue run (fun s => s.core.maskDue) .pmaskTimeout,
      fun s => ok ((s.touchIf s.core.id fun s => s.core.lookSpans ++ s.core.enterSpans).mapCore fun c => c.mgoEnd.gvEnd.vecEnter),
      ifDue run (fun s => s.core.vecDue.isSome) .vecRetire,
      ifDue run (fun s => s.exitDue) .coreExitRetire,
      fun s => ok (s.mapCore fun c => { c with spr := { c.spr with heldWas := c.levelHeld } }),
      fun s => endEffects run s.core.eoc.length s,
      ifDue run (fun s => s.core.wevCut) .waitWordRead,
      fun s => nextCore run s.reportDying.turnOver] s

/-! ### One step -/

/-- What reaches the package from outside, between two global cycles: an answer of the fabric comes in at its CL die (R296). -/
def outside (run : Run) (i : Instr) (s : State) : Out :=
  match i with
  | .podAnswer k pkg a => ok (s.podBack k pkg a)
  | .collectiveDone k g r => ok (s.collBack k g (s.collEnds k g r) (s.collHops k g) s.clock)
  | _ => run i s
/-- An event of the moving core, with the poison of what it reads and writes (R207, R351). -/
def coreEventStep (run : Run) (i : Instr) (s : State) : Out :=
  let s1 := if i = .mgoPass ∧ !s.poison.isEmpty then s.passMismatch else s
  run i (s1.touchIf s.core.id fun t => t.eventSpans i)
/-- A step of the core that moves. The engines are off while the module is moored (R344). -/
def coreStep (run : Run) (s : State) : Out :=
  let c := s.core
  if !c.live || c.frozen then nextCore run s
  else if c.halted then
    match s.pieceDue with
    | some ch => coreEventStep run (.copyPiece (BitVec.ofNat 3 ch)) s
    | none => nextCore run (landAll c.eoc.length s)
  else if 0 < c.delay then nextCore run (s.mapCore fun c => { c with delay := c.delay - 1 })
  else if s.host.boot = .moored then nextCore run s
  else if c.turn = 7 then endCycle run s
  else if c.turn = 0 ∧ !c.tail then
    match s.localStep with
    | some t => ok t
    | none =>
      match s.coreEvent with
      | some i => coreEventStep run i s
      | none => slot run s
  else slot run s
/-- Whether the package moves before the core: at the start of a global cycle. -/
def State.cycleStart (s : State) : Bool := s.firstCore && (s.core.halted || (s.core.turn == 0 && !s.core.tail))
/-- A move within a global cycle: an event of the package, else a move of a core. -/
def move (run : Run) (s : State) : Out :=
  if s.cycleStart then (packageMove run s).getD (coreStep run s) else coreStep run s
/-- One step of the machine. Between two global cycles what reaches it from outside comes first, each in its cycle (R355). -/
def stepWith (run : Run) (s : State) : Out :=
  if s.fresh then
    match s.agenda with
    | p :: t => if p.1 ≤ s.clock then outside run p.2 { s with agenda := t } else move run { s with fresh := false }
    | [] => move run { s with fresh := false }
  else move run s

end Sys2Proof.Machine
end

