-- ==== Sys2Proof/Machine/Dispatch.lean ====
section
/-! DEFINITION. Dispatch.lean: one arm per constructor of Instr. -/
namespace Sys2Proof.Machine

/-- The meaning of one instruction or event. -/
def exec (i : Instr) (s : State) : Host.Outcome State Fault Refusal :=
  match i with
  | .ill n => Sys2Proof.Machine.execIll n s
  | .add d a b => Sys2Proof.Machine.execAdd d a b s
  | .sub d a b => Sys2Proof.Machine.execSub d a b s
  | .and d a b => Sys2Proof.Machine.execAnd d a b s
  | .or d a b => Sys2Proof.Machine.execOr d a b s
  | .xor d a b => Sys2Proof.Machine.execXor d a b s
  | .sll d a b => Sys2Proof.Machine.execSll d a b s
  | .srl d a b => Sys2Proof.Machine.execSrl d a b s
  | .sra d a b => Sys2Proof.Machine.execSra d a b s
  | .slt d a b => Sys2Proof.Machine.execSlt d a b s
  | .sltn d a b => Sys2Proof.Machine.execSltn d a b s
  | .min d a b => Sys2Proof.Machine.execMin d a b s
  | .max d a b => Sys2Proof.Machine.execMax d a b s
  | .minn d a b => Sys2Proof.Machine.execMinn d a b s
  | .maxn d a b => Sys2Proof.Machine.execMaxn d a b s
  | .mul d a b => Sys2Proof.Machine.execMul d a b s
  | .mulh d a b => Sys2Proof.Machine.execMulh d a b s
  | .mulhn d a b => Sys2Proof.Machine.execMulhn d a b s
  | .div d a b => Sys2Proof.Machine.execDiv d a b s
  | .divn d a b => Sys2Proof.Machine.execDivn d a b s
  | .rem d a b => Sys2Proof.Machine.execRem d a b s
  | .remn d a b => Sys2Proof.Machine.execRemn d a b s
  | .clz d a => Sys2Proof.Machine.execClz d a s
  | .ctz d a => Sys2Proof.Machine.execCtz d a s
  | .popc d a => Sys2Proof.Machine.execPopc d a s
  | .addi d a j => Sys2Proof.Machine.execAddi d a j s
  | .andi d a j => Sys2Proof.Machine.execAndi d a j s
  | .ori d a j => Sys2Proof.Machine.execOri d a j s
  | .xori d a j => Sys2Proof.Machine.execXori d a j s
  | .slli d a y => Sys2Proof.Machine.execSlli d a y s
  | .srli d a y => Sys2Proof.Machine.execSrli d a y s
  | .srai d a y => Sys2Proof.Machine.execSrai d a y s
  | .slti d a j => Sys2Proof.Machine.execSlti d a j s
  | .lui d j => Sys2Proof.Machine.execLui d j s
  | .sloi d a j => Sys2Proof.Machine.execSloi d a j s
  | .beq a b o => Sys2Proof.Machine.execBeq a b o s
  | .bne a b o => Sys2Proof.Machine.execBne a b o s
  | .blt a b o => Sys2Proof.Machine.execBlt a b o s
  | .bge a b o => Sys2Proof.Machine.execBge a b o s
  | .bltn a b o => Sys2Proof.Machine.execBltn a b o s
  | .bgen a b o => Sys2Proof.Machine.execBgen a b o s
  | .jal d o => Sys2Proof.Machine.execJal d o s
  | .jalr d a j => Sys2Proof.Machine.execJalr d a j s
  | .ldb d a j => Sys2Proof.Machine.execLdb d a j s
  | .ldbn d a j => Sys2Proof.Machine.execLdbn d a j s
  | .ldh d a j => Sys2Proof.Machine.execLdh d a j s
  | .ldhn d a j => Sys2Proof.Machine.execLdhn d a j s
  | .ldw d a j => Sys2Proof.Machine.execLdw d a j s
  | .ldwn d a j => Sys2Proof.Machine.execLdwn d a j s
  | .ldd d a j => Sys2Proof.Machine.execLdd d a j s
  | .ldo d a j => Sys2Proof.Machine.execLdo d a j s
  | .lds d a j => Sys2Proof.Machine.execLds d a j s
  | .chk a o => Sys2Proof.Machine.execChk a o s
  | .stb y a j => Sys2Proof.Machine.execStb y a j s
  | .sth y a j => Sys2Proof.Machine.execSth y a j s
  | .stw y a j => Sys2Proof.Machine.execStw y a j s
  | .std y a j => Sys2Proof.Machine.execStd y a j s
  | .aadd d a b w => Sys2Proof.Machine.execAadd d a b w s
  | .aswp d a b w => Sys2Proof.Machine.execAswp d a b w s
  | .acas d a b w => Sys2Proof.Machine.execAcas d a b w s
  | .amin d a b w => Sys2Proof.Machine.execAmin d a b w s
  | .amax d a b w => Sys2Proof.Machine.execAmax d a b w s
  | .aand d a b w => Sys2Proof.Machine.execAand d a b w s
  | .aor d a b w => Sys2Proof.Machine.execAor d a b w s
  | .axor d a b w => Sys2Proof.Machine.execAxor d a b w s
  | .ldq k q a j => Sys2Proof.Machine.execLdq k q a j s
  | .stq k q a j => Sys2Proof.Machine.execStq k q a j s
  | .csrr d c => Sys2Proof.Machine.execCsrr d c s
  | .csrw a c => Sys2Proof.Machine.execCsrw a c s
  | .csrs d a c => Sys2Proof.Machine.execCsrs d a c s
  | .csrc d a c => Sys2Proof.Machine.execCsrc d a c s
  | .csrWrite c v => Sys2Proof.Machine.execCsrWrite c v s
  | .dfmaskWrite v => Sys2Proof.Machine.execDfmaskWrite v s
  | .lateWrite v => Sys2Proof.Machine.execLateWrite v s
  | .budgetWrite v => Sys2Proof.Machine.execBudgetWrite v s
  | .twinWrite v => Sys2Proof.Machine.execTwinWrite v s
  | .statusWrite v => Sys2Proof.Machine.execStatusWrite v s
  | .rde d e => Sys2Proof.Machine.execRde d e s
  | .fpush a => Sys2Proof.Machine.execFpush a s
  | .hdef h c a y => Sys2Proof.Machine.execHdef h c a y s
  | .hadvC h w => Sys2Proof.Machine.execHadvC h w s
  | .hadvP h w => Sys2Proof.Machine.execHadvP h w s
  | .hrd h d => Sys2Proof.Machine.execHrd h d s
  | .pacq a j => Sys2Proof.Machine.execPacq a j s
  | .prel l => Sys2Proof.Machine.execPrel l s
  | .trap c => Sys2Proof.Machine.execTrap c s
  | .wev d a j => Sys2Proof.Machine.execWev d a j s
  | .adq d a => Sys2Proof.Machine.execAdq d a s
  | .brk c => Sys2Proof.Machine.execBrk c s
  | .step r g y => Sys2Proof.Machine.execStep r g y s
  | .bar f j y => Sys2Proof.Machine.execBar f j y s
  | .fenceM m => Sys2Proof.Machine.execFenceM m s
  | .fpcw o j r => Sys2Proof.Machine.execFpcw o j r s
  | .latew a m => Sys2Proof.Machine.execLatew a m s
  | .budg a => Sys2Proof.Machine.execBudg a s
  | .bndset n a b c => Sys2Proof.Machine.execBndset n a b c s
  | .mark v => Sys2Proof.Machine.execMark v s
  | .mnest a b r l => Sys2Proof.Machine.execMnest a b r l s
  | .mnestc a b l => Sys2Proof.Machine.execMnestc a b l s
  | .mbase d a b => Sys2Proof.Machine.execMbase d a b s
  | .mgo h w c r => Sys2Proof.Machine.execMgo h w c r s
  | .mdrain d a c j k => Sys2Proof.Machine.execMdrain d a c j k s
  | .mdrainAuto a c j k => Sys2Proof.Machine.execMdrainAuto a c j k s
  | .mldt a b v m => Sys2Proof.Machine.execMldt a b v m s
  | .mstt a b v m => Sys2Proof.Machine.execMstt a b v m s
  | .mtrn d a b x c m => Sys2Proof.Machine.execMtrn d a b x c m s
  | .mact c m => Sys2Proof.Machine.execMact c m s
  | .mtwc a b v => Sys2Proof.Machine.execMtwc a b v s
  | .mbfly d y t h => Sys2Proof.Machine.execMbfly d y t h s
  | .mdrev d y v => Sys2Proof.Machine.execMdrev d y v s
  | .mtexpSet a m => Sys2Proof.Machine.execMtexpSet a m s
  | .mtexpAdd a m => Sys2Proof.Machine.execMtexpAdd a m s
  | .mtexpSt a => Sys2Proof.Machine.execMtexpSt a s
  | .mgvcfg a b => Sys2Proof.Machine.execMgvcfg a b s
  | .mgvr h w a n r => Sys2Proof.Machine.execMgvr h w a n r s
  | .mchkr d c => Sys2Proof.Machine.execMchkr d c s
  | .mdropkKey a b => Sys2Proof.Machine.execMdropkKey a b s
  | .mdropkCtr a b => Sys2Proof.Machine.execMdropkCtr a b s
  | .mdropkThr a b => Sys2Proof.Machine.execMdropkThr a b s
  | .mres a b f => Sys2Proof.Machine.execMres a b f s
  | .vshape c r => Sys2Proof.Machine.execVshape c r s
  | .vldq d b q => Sys2Proof.Machine.execVldq d b q s
  | .vstq a n e b q => Sys2Proof.Machine.execVstq a n e b q s
  | .vadd d a b => Sys2Proof.Machine.execVadd d a b s
  | .vsub d a b => Sys2Proof.Machine.execVsub d a b s
  | .vmul d a b => Sys2Proof.Machine.execVmul d a b s
  | .vmin d a b => Sys2Proof.Machine.execVmin d a b s
  | .vmax d a b => Sys2Proof.Machine.execVmax d a b s
  | .viadd d a b => Sys2Proof.Machine.execViadd d a b s
  | .visub d a b => Sys2Proof.Machine.execVisub d a b s
  | .vimul d a b => Sys2Proof.Machine.execVimul d a b s
  | .vand d a b => Sys2Proof.Machine.execVand d a b s
  | .vor d a b => Sys2Proof.Machine.execVor d a b s
  | .vxor d a b => Sys2Proof.Machine.execVxor d a b s
  | .vshl d a b => Sys2Proof.Machine.execVshl d a b s
  | .vshr d a b => Sys2Proof.Machine.execVshr d a b s
  | .vfma d a b c => Sys2Proof.Machine.execVfma d a b c s
  | .vneg d a => Sys2Proof.Machine.execVneg d a s
  | .vabs d a => Sys2Proof.Machine.execVabs d a s
  | .vrcp d a => Sys2Proof.Machine.execVrcp d a s
  | .vrsq d a => Sys2Proof.Machine.execVrsq d a s
  | .vsqrt d a => Sys2Proof.Machine.execVsqrt d a s
  | .vexp2 d a => Sys2Proof.Machine.execVexp2 d a s
  | .vlog2 d a => Sys2Proof.Machine.execVlog2 d a s
  | .vsinp d a => Sys2Proof.Machine.execVsinp d a s
  | .vfloor d a => Sys2Proof.Machine.execVfloor d a s
  | .vcvt d a x o => Sys2Proof.Machine.execVcvt d a x o s
  | .vqbx d a x f => Sys2Proof.Machine.execVqbx d a x f s
  | .vdqbx d a f => Sys2Proof.Machine.execVdqbx d a f s
  | .vpack d a u k => Sys2Proof.Machine.execVpack d a u k s
  | .vunpk d a u k => Sys2Proof.Machine.execVunpk d a u k s
  | .vcmp d a b j c => Sys2Proof.Machine.execVcmp d a b j c s
  | .vsel d a b c j => Sys2Proof.Machine.execVsel d a b c j s
  | .vredSumRow d a => Sys2Proof.Machine.execVredSumRow d a s
  | .vredMaxRow d a => Sys2Proof.Machine.execVredMaxRow d a s
  | .vredMinRow d a => Sys2Proof.Machine.execVredMinRow d a s
  | .vredSumCol d a => Sys2Proof.Machine.execVredSumCol d a s
  | .vredMaxCol d a => Sys2Proof.Machine.execVredMaxCol d a s
  | .vredMinCol d a => Sys2Proof.Machine.execVredMinCol d a s
  | .vredSumAll d a => Sys2Proof.Machine.execVredSumAll d a s
  | .vredMaxAll d a => Sys2Proof.Machine.execVredMaxAll d a s
  | .vredMinAll d a => Sys2Proof.Machine.execVredMinAll d a s
  | .vbcast d a m => Sys2Proof.Machine.execVbcast d a m s
  | .vxdef x a b => Sys2Proof.Machine.execVxdef x a b s
  | .vexpr d x => Sys2Proof.Machine.execVexpr d x s
  | .vdefer a b k => Sys2Proof.Machine.execVdefer a b k s
  | .vdrain d a k => Sys2Proof.Machine.execVdrain d a k s
  | .vdret d a b => Sys2Proof.Machine.execVdret d a b s
  | .vrng d u => Sys2Proof.Machine.execVrng d u s
  | .vrngkKey a b => Sys2Proof.Machine.execVrngkKey a b s
  | .vrngkCtr a b => Sys2Proof.Machine.execVrngkCtr a b s
  | .vrngkAdd a b => Sys2Proof.Machine.execVrngkAdd a b s
  | .vrngkSave d => Sys2Proof.Machine.execVrngkSave d s
  | .vgrpc d a b c l => Sys2Proof.Machine.execVgrpc d a b c l s
  | .viota d m => Sys2Proof.Machine.execViota d m s
  | .vperm d a b => Sys2Proof.Machine.execVperm d a b s
  | .vtrn d a => Sys2Proof.Machine.execVtrn d a s
  | .cgeo d a b l c => Sys2Proof.Machine.execCgeo d a b l c s
  | .clay a b c => Sys2Proof.Machine.execClay a b c s
  | .cgo d a b y g e c => Sys2Proof.Machine.execCgo d a b y g e c s
  | .csched a b c => Sys2Proof.Machine.execCsched a b c s
  | .cadv c n => Sys2Proof.Machine.execCadv c n s
  | .cpage d a b f c => Sys2Proof.Machine.execCpage d a b f c s
  | .cstop m => Sys2Proof.Machine.execCstop m s
  | .cfill d a b g e c => Sys2Proof.Machine.execCfill d a b g e c s
  | .copyElement c => Sys2Proof.Machine.execCopyElement c s
  | .copyPiece c => Sys2Proof.Machine.execCopyPiece c s
  | .pageMove c err => Sys2Proof.Machine.execPageMove c err s
  | .lpush h w a r => Sys2Proof.Machine.execLpush h w a r s
  | .lslot a => Sys2Proof.Machine.execLslot a s
  | .lslotRel a => Sys2Proof.Machine.execLslotRel a s
  | .lput d a b => Sys2Proof.Machine.execLput d a b s
  | .lget d a b => Sys2Proof.Machine.execLget d a b s
  | .lsig a b => Sys2Proof.Machine.execLsig a b s
  | .laadd d a b w => Sys2Proof.Machine.execLaadd d a b w s
  | .laswp d a b w => Sys2Proof.Machine.execLaswp d a b w s
  | .lacas d a b w => Sys2Proof.Machine.execLacas d a b w s
  | .lamin d a b w => Sys2Proof.Machine.execLamin d a b w s
  | .lamax d a b w => Sys2Proof.Machine.execLamax d a b w s
  | .laand d a b w => Sys2Proof.Machine.execLaand d a b w s
  | .laor d a b w => Sys2Proof.Machine.execLaor d a b w s
  | .laxor d a b w => Sys2Proof.Machine.execLaxor d a b w s
  | .lwsig d a j => Sys2Proof.Machine.execLwsig d a j s
  | .podAnswer k pkg r => Sys2Proof.Machine.execPodAnswer k pkg r s
  | .gtab d a b g f t => Sys2Proof.Machine.execGtab d a b g f t s
  | .gthr h w a => Sys2Proof.Machine.execGthr h w a s
  | .gsum h w a => Sys2Proof.Machine.execGsum h w a s
  | .cgrp a b g => Sys2Proof.Machine.execCgrp a b g s
  | .cred d a b o t g => Sys2Proof.Machine.execCred d a b o t g s
  | .crsc d a b o t g => Sys2Proof.Machine.execCrsc d a b o t g s
  | .callg d a b t g => Sys2Proof.Machine.execCallg d a b t g s
  | .cbc d a b t g => Sys2Proof.Machine.execCbc d a b t g s
  | .collectiveDone k g r => Sys2Proof.Machine.execCollectiveDone k g r s
  | .planedStore x k a v => Sys2Proof.Machine.execPlanedStore x k a v s
  | .fecFailure k => Sys2Proof.Machine.execFecFailure k s
  | .contextResume bad mirrorBad => Sys2Proof.Machine.execContextResume bad mirrorBad s
  | .uncorrectableError k e => Sys2Proof.Machine.execUncorrectableError k e s
  | .throttleStart site share => Sys2Proof.Machine.execThrottleStart site share s
  | .throttleEnd site => Sys2Proof.Machine.execThrottleEnd site s
  | .throttleEscalate site share => Sys2Proof.Machine.execThrottleEscalate site share s
  | .energyAccount x uj => Sys2Proof.Machine.execEnergyAccount x uj s
  | .boot r => Sys2Proof.Machine.execBoot r s
  | .imgput h img off bytes => Sys2Proof.Machine.execImgput h img off bytes s
  | .launch h bytes => Sys2Proof.Machine.execLaunch h bytes s
  | .kill h x => Sys2Proof.Machine.execKill h x s
  | .status h => Sys2Proof.Machine.execStatus h s
  | .memrd h space bf off len => Sys2Proof.Machine.execMemrd h space bf off len s
  | .memwr h space bf off bytes => Sys2Proof.Machine.execMemwr h space bf off bytes s
  | .notify h x cores w => Sys2Proof.Machine.execNotify h x cores w s
  | .fid h c => Sys2Proof.Machine.execFid h c s
  | .logrd h bf first count => Sys2Proof.Machine.execLogrd h bf first count s
  | .quote h nonce => Sys2Proof.Machine.execQuote h nonce s
  | .keyset h slot key sig => Sys2Proof.Machine.execKeyset h slot key sig s
  | .fwupd h off bytes => Sys2Proof.Machine.execFwupd h off bytes s
  | .clearboot h => Sys2Proof.Machine.execClearboot h s
  | .reset h => Sys2Proof.Machine.execReset h s
  | .ack h seq result => Sys2Proof.Machine.execAck h seq result s
  | .scrubRead l r => Sys2Proof.Machine.execScrubRead l r s
  | .droopInjection site quad => Sys2Proof.Machine.execDroopInjection site quad s
  | .unassignedOpcode w => Sys2Proof.Machine.execUnassignedOpcode w s
  | .podRequestArrival r => Sys2Proof.Machine.execPodRequestArrival r s
  | .podBarrierHold on => Sys2Proof.Machine.execPodBarrierHold on s
  | .keyRevocation key => Sys2Proof.Machine.execKeyRevocation key s
  | .lowerDieBudgets budgets => Sys2Proof.Machine.execLowerDieBudgets budgets s
  | .sret => Sys2Proof.Machine.execSret s
  | .exit => Sys2Proof.Machine.execExit s
  | .mgoPass => Sys2Proof.Machine.execMgoPass s
  | .autoDrain => Sys2Proof.Machine.execAutoDrain s
  | .mclra => Sys2Proof.Machine.execMclra s
  | .mgvrChunk => Sys2Proof.Machine.execMgvrChunk s
  | .vamxr => Sys2Proof.Machine.execVamxr s
  | .vecRetire => Sys2Proof.Machine.execVecRetire s
  | .copyStatusWrite => Sys2Proof.Machine.execCopyStatusWrite s
  | .copyStopComplete => Sys2Proof.Machine.execCopyStopComplete s
  | .scheduleEntryStart => Sys2Proof.Machine.execScheduleEntryStart s
  | .pushBeatDepart => Sys2Proof.Machine.execPushBeatDepart s
  | .pushLanding => Sys2Proof.Machine.execPushLanding s
  | .lquiet => Sys2Proof.Machine.execLquiet s
  | .waitWordRead => Sys2Proof.Machine.execWaitWordRead s
  | .signalNotify => Sys2Proof.Machine.execSignalNotify s
  | .waitPeriodicRead => Sys2Proof.Machine.execWaitPeriodicRead s
  | .gatherRowArrive => Sys2Proof.Machine.execGatherRowArrive s
  | .ctlRetire => Sys2Proof.Machine.execCtlRetire s
  | .stageAccessPerform => Sys2Proof.Machine.execStageAccessPerform s
  | .stageReply => Sys2Proof.Machine.execStageReply s
  | .claimArrival => Sys2Proof.Machine.execClaimArrival s
  | .claimAnswer => Sys2Proof.Machine.execClaimAnswer s
  | .residueBeat => Sys2Proof.Machine.execResidueBeat s
  | .deviationTrap => Sys2Proof.Machine.execDeviationTrap s
  | .deadlineFault => Sys2Proof.Machine.execDeadlineFault s
  | .cleatRelease => Sys2Proof.Machine.execCleatRelease s
  | .podBarrierExchange => Sys2Proof.Machine.execPodBarrierExchange s
  | .stepContinue => Sys2Proof.Machine.execStepContinue s
  | .planeSwap => Sys2Proof.Machine.execPlaneSwap s
  | .coreExitRetire => Sys2Proof.Machine.execCoreExitRetire s
  | .trapEntry => Sys2Proof.Machine.execTrapEntry s
  | .contextStart => Sys2Proof.Machine.execContextStart s
  | .launchPlace => Sys2Proof.Machine.execLaunchPlace s
  | .graphNodeReady => Sys2Proof.Machine.execGraphNodeReady s
  | .graphWaitPoll => Sys2Proof.Machine.execGraphWaitPoll s
  | .preemptFreeze => Sys2Proof.Machine.execPreemptFreeze s
  | .pmaskTimeout => Sys2Proof.Machine.execPmaskTimeout s
  | .killComplete => Sys2Proof.Machine.execKillComplete s
  | .stepCancel => Sys2Proof.Machine.execStepCancel s
  | .powerGrant => Sys2Proof.Machine.execPowerGrant s
  | .scrubWriteback => Sys2Proof.Machine.execScrubWriteback s
  | .thermalTrip => Sys2Proof.Machine.execThermalTrip s

end Sys2Proof.Machine
end

