-- ==== Sys2Proof/Machine/Step.lean ====
section
/-! DEFINITION. Step.lean: one step of the machine, and a program of one word for the word a reader asks about. -/
namespace Sys2Proof.Machine

/-- One step: an event, or a move of one engine of one core (R3). -/
def step (s : State) : Out := stepWith exec s

/-- A site whose cores have engine e (Tables 1-1 and 1-3). -/
def siteOf (e : Nat) : Nat := if e = 2 then 12 else if e = 5 then 4 else if e = 6 then 20 else 1
/-- A context of one core, as LAUNCH_PLACE and CONTEXT_START leave it. -/
def oneCore (k : CoreId) : Context := {
  id := 1, rec_ := {}, launch := 0, node := none, variant := 0, phase := .running, cores := [k], trans := [], planes := []
  shares := [], groups := [], claims := [], routes := [], need := [], route := [], pages := [], pods := [], energy := 0
  preempts := 0, frozeAt := 0, freeze := [], held := [] }
/-- The machine with a word loaded where the engine that it belongs to stands, in a context of one core that has started: what
the host brings about by IMGPUT and LAUNCH (R67, R126, R318). An ALL word stands before CTL. DESIGN CHOICE (log entry 4). -/
def State.withFetchWord (s : State) (nbits w : Nat) : State :=
  let word : Word := BitVec.ofNat 32 (w % 2 ^ nbits)
  let e := if engField word = 7 then 0 else (engField word).toNat
  let k : CoreId := BitVec.ofNat 10 (16 * siteOf e)
  { s with
    agenda := [], fresh := false, atWrap := []
    ctxs := oneCore k :: s.ctxs.filter fun x => x.id != 1
    core := { s.core with
      id := k, ctx := 1, live := true, frozen := false, halted := false, retired := false, delay := 0, tail := false
      turn := BitVec.ofNat 3 e
      text := Store.set 0 s.core.text (s.core.engOf e).pc.toNat word
      spr := { s.core.spr with level := 15, req := 15 } } }

end Sys2Proof.Machine
end

