-- ==== Sys2Proof/Safety.lean ====
section
/-! DEFINITION. Safety.lean: the words that the claims share: bytes of the memories, frames, issue, traps, sound states. -/
namespace Sys2Proof.Machine

/-! ### Memories -/

/-- The memories of the machine: those of the package, and those of the core that moves. -/
inductive MemName where
  | stage
  | hbm
  | tier2
  | gsram
  | dsh
  | scratch
  | wstack
  deriving DecidableEq, Repr

/-- A memory by its name. -/
def State.memOf (s : State) : MemName → Memory
  | .stage => s.stage
  | .hbm => s.hbm
  | .tier2 => s.tier2
  | .gsram => s.gsram
  | .dsh => s.dsh
  | .scratch => s.core.scratch
  | .wstack => s.core.wstack
/-- One byte of a memory. -/
def State.byteOf (s : State) (m : MemName) (a : Nat) : Byte := (s.memOf m).byte a
/-- Every byte of every memory reads as before. -/
def sameBytes (s t : State) : Prop := ∀ m a, t.byteOf m a = s.byteOf m a
/-- Every byte reads as before, but for n bytes of one memory from a on. -/
def sameBytesBut (s t : State) (m : MemName) (a n : Nat) : Prop :=
  ∀ m' k, (m' = m → k < a ∨ a + n ≤ k) → t.byteOf m' k = s.byteOf m' k
/-- n bytes of a memory from a on hold a number, the lowest byte first (R2). -/
def holds (s : State) (m : MemName) (a n v : Nat) : Prop := ∀ k, k < n → s.byteOf m (a + k) = BitVec.ofNat 8 (v / 256 ^ k)

/-! ### Frames of a word -/

/-- The word passes the checks that all words share (Tables 2-6 and 6-2): decode, marked registers, and for an engine other than CTL the
power level. -/
def clears (s : State) (e : Nat) (i : Instr) : Prop :=
  decodeFault s i = none ∧ s.core.firstMarked e (regsOf e i) = none ∧ (e ≠ 0 → s.core.excess (addedDraw e i) = none)
/-- A value can be overwritten now: the write log has room, or already holds it (R36). -/
def logFits (s : State) (d : GReg) : Prop := d = 0 ∨ s.core.loggedHere d = true ∨ s.core.logRoom 1 = true
/-- The registers after a word that writes v, with mark m, to d: g0 takes nothing (R30, R75, R76). -/
def wrote (s t : State) (d : GReg) (v : Dword) (m : Bool) : Prop :=
  ∀ r, t.core.g r = (if r = d ∧ d ≠ 0 then v else s.core.g r) ∧ t.core.df r = (if r = d ∧ d ≠ 0 then m else s.core.df r)
/-- Every general register and its mark stand. -/
def sameRegs (s t : State) : Prop := ∀ r, t.core.g r = s.core.g r ∧ t.core.df r = s.core.df r
/-- Engine e goes on to pc'; its modes, bounds and window stand, it is not stopped by this, and the other engines stand. -/
def wentOn (s t : State) (e : Nat) (pc' : TextAddr) : Prop :=
  let x := s.core.engOf e
  let y := t.core.engOf e
  y.pc = pc' ∧ y.mode = x.mode ∧ y.bnd = x.bnd ∧ y.late = x.late ∧ y.stop = x.stop ∧ y.exited = x.exited ∧
  y.lastCause = x.lastCause ∧ y.outcomes = x.outcomes ∧ ∀ n, n ≠ e → t.core.engOf n = s.core.engOf n
/-- The engine goes on to the next word. -/
def wentNext (s t : State) (e : Nat) : Prop := wentOn s t e ((s.core.engOf e).pc + 1)
/-- CTL goes on to the next word, in a handler, and no register and no memory changes. -/
def wentPc (s t : State) : Prop := (t.core.engOf 0).pc = (s.core.engOf 0).pc + 1 ∧ sameRegs s t ∧ sameBytes s t
/-- Nothing changed but CTL's registers and the engines: no memory, no special or trap register, no other unit. -/
def onlyCtl (s t : State) : Prop :=
  t = { s with core := { s.core with ctl := t.core.ctl, eng := t.core.eng } } ∧ sameBytes s t
/-- Nothing changed but CTL's registers, the engines, and what is to take effect at the end of the cycle. -/
def onlyCtlEoc (s t : State) : Prop :=
  t = { s with core := { s.core with ctl := t.core.ctl, eng := t.core.eng, eoc := t.core.eoc } } ∧ sameBytes s t

/-! ### Traps -/

/-- CTL stands in a handler that it entered for a synchronous cause of its own word, or of an ALL word
that fails decode, whose raising engine is 7 (R40, R313): what the entry saves and sets. -/
def tookTrap (s t : State) (cause : Byte) (eval : Dword) (eng : BitVec 3 := 0) : Prop :=
  let h := s.core.trap.handler cause
  t.core.trap.cause = cause ∧ t.core.trap.ceng = eng ∧ t.core.trap.async = false ∧ t.core.trap.eval = eval ∧
  t.core.trap.tl = true ∧ t.core.trap.pmode = s.core.trap.mode ∧ t.core.trap.mode = h.1 ∧
  t.core.trap.epc.getD 0 0 = (s.core.engOf 0).pc ∧ t.core.trap.stopped.getLsbD 0 = true ∧
  (t.core.engOf 0).pc = h.2 ∧ (eng = 0 → (t.core.engOf 0).lastCause = cause) ∧
  t.core.g 31 = s.core.trap.tscr ∧ t.core.trap.tscr = s.core.g 31 ∧
  (∀ r, r ≠ 31 → t.core.g r = s.core.g r ∧ t.core.df r = s.core.df r) ∧ sameBytes s t

/-- A steering word has entered the retire queue with its outcome; one of a handler posts none (R33, R73, R314). -/
def steers (s t : State) (o : Outc) : Prop :=
  ∃ r, t.core.ctl.retq = s.core.ctl.retq ++ [r] ∧ r.outc = if s.core.trap.tl then none else some o
/-- Engine e other than CTL stands stopped at its word with a cause (R39, R313), and nothing else of the machine changed. -/
def stopped (s t : State) (e : Nat) (cause : Byte) (eng : BitVec 3) (eval : Dword) : Prop :=
  (t.core.engOf e).stop = some {
    cause := cause, eng := eng, eval := eval, pc := (s.core.engOf e).pc, cycle := s.core.now, taken := false, waits := false } ∧
  (t.core.engOf e).pc = (s.core.engOf e).pc ∧ (t.core.engOf e).lastCause = cause ∧ (∀ n, n ≠ e → t.core.engOf n = s.core.engOf n) ∧
  sameRegs s t ∧ sameBytes s t

/-! ### Accesses to memory -/

/-- No wait of R107 and R108 holds an access back: no copy under way over its bytes, no page that moves, room for a request. -/
def accessFree (s : State) (x : Access) (n : Nat) : Prop := ∀ run : Out, accessWaits s 0 x n run = run
/-- The request of an access leaves for the memory it names: an effect due in local scratch at issue + 2 or in die-shared scratch at
issue + 6 (Table 5-4), a request on its way to stage memory, or an operation in the pod queue with its requests on their way to the CL die
(R108, R296). -/
def sent (s t : State) (x : Access) (op : MemOp) : Prop :=
  let at_ (n : Nat) (sh : Bool) (k : Nat) : LocalOp :=
    { due := s.core.now + n, eng := 0, pos := (s.core.engOf 0).pos, eff := .ctl op sh k (BitVec.ofNat 64 x.addr) }
  match x.place with
  | .scratch k => t.core.fly = s.core.fly ++ [at_ 2 false k] ∧ t.flights = s.flights ∧ t.core.lnk = s.core.lnk
  | .shared k => t.core.fly = s.core.fly ++ [at_ 6 true k] ∧ t.flights = s.flights ∧ t.core.lnk = s.core.lnk
  | .stage _ _ => t.core.fly = s.core.fly ∧ t.core.lnk = s.core.lnk ∧
      ∃ f, t.flights = s.flights ++ [f] ∧ f.cargo = .req op ∧ f.core = s.core.id ∧ f.eng = 0 ∧ f.addr = BitVec.ofNat 64 x.addr
  | .pod pkg _ => t.core.fly = s.core.fly ∧
      (∃ fs, t.flights = s.flights ++ fs ∧ ∀ f ∈ fs, f.cargo = .hawser (BitVec.ofNat 13 pkg) (clSite (BitVec.ofNat 13 pkg).toNat) ∧ f.core = s.core.id ∧ f.eng = 0) ∧
      ∃ r, t.core.lnk.podq = s.core.lnk.podq ++ [r] ∧ r.pkg = BitVec.ofNat 13 pkg ∧ r.remote = BitVec.ofNat 64 x.addr
  | _ => True
/-- Nothing changed but CTL's registers, the engines, and the traffic of an access. -/
def onlyTraffic (s t : State) : Prop :=
  t = { s with
    flights := t.flights
    core := { s.core with ctl := t.core.ctl, eng := t.core.eng, fly := t.core.fly, lnk := t.core.lnk } } ∧ sameBytes s t
/-- A register waits for the answer of the access that takes tag (R119), its mark cleared (R76); g0 waits for nothing. -/
def awaits (s t : State) (d : GReg) : Prop :=
  t.core.ctl.tags = s.core.ctl.tags + 1 ∧ (d ≠ 0 → (d, s.core.ctl.tags) ∈ t.core.ctl.pend) ∧ t.core.df d = false ∧
  ∀ r, t.core.g r = s.core.g r ∧ (r ≠ d → t.core.df r = s.core.df r)
/-- A register that waited takes its answer; no mark and no other register changes. -/
def tookAnswer (s t : State) (d : GReg) (v : Dword) : Prop := ∀ r, t.core.g r = (if r = d then v else s.core.g r) ∧ t.core.df r = s.core.df r

/-! ### The matrix and vector engines -/

/-- Nothing changed but the matrix engine's state, the engines, and effects in scratch that are due. -/
def onlyMtx (s t : State) : Prop :=
  t = { s with core := { s.core with mtx := t.core.mtx, eng := t.core.eng, fly := t.core.fly } } ∧ sameRegs s t ∧ sameBytes s t
/-- Nothing changed but the vector engine's state and the engines. -/
def onlyVec (s t : State) : Prop :=
  t = { s with core := { s.core with vec := t.core.vec, eng := t.core.eng } } ∧ sameRegs s t ∧ sameBytes s t
/-- Elements 0 to n - 1 of vector register d took values of f; every other element of every register stands. -/
def vecWrote (s t : State) (d : VReg) (n : Nat) (f : Nat → Elem) : Prop :=
  ∀ (r : VReg) e, e < 1024 → t.core.vec.el r e = if r = d ∧ e < n then f e else s.core.vec.el r e
/-- Every vector register but those of a list stands. -/
def vecKeeps (s t : State) (ds : List VReg) : Prop := ∀ (r : VReg) e, e < 1024 → r ∉ ds → t.core.vec.el r e = s.core.vec.el r e
/-- A shape that VSHAPE can set (R255). -/
def shapeOk (c : Core) : Prop := 1 ≤ c.vec.rows ∧ c.vec.rows ≤ 32 ∧ 1 ≤ c.vec.cols ∧ c.vec.cols ≤ 32

/-! ### The copy engine and the link engine -/

/-- Nothing changed but the channels of the copy engine, the engines, and the count of free values. -/
def onlyChan (s t : State) : Prop :=
  t = { s with free := t.free, core := { s.core with chan := t.core.chan, eng := t.core.eng } } ∧ sameRegs s t ∧ sameBytes s t
/-- Channel ch is now h; every other channel stands. -/
def chanIs (s t : State) (ch : Nat) (h : Channel) : Prop := ∀ k, t.core.ch k = if k = ch then h else s.core.ch k
/-- Nothing changed but the state of the link engine, the engines, effects that are due, and traffic under way. -/
def onlyLnk (s t : State) : Prop :=
  t = { s with
    flights := t.flights
    core := { s.core with
      lnk := t.core.lnk, eng := t.core.eng, fly := t.core.fly, eoc := t.core.eoc
      ctl := { s.core.ctl with tags := t.core.ctl.tags } } } ∧
  sameRegs s t ∧ sameBytes s t
/-- A verb enters the pod queue of the core, as its last entry, for a package, a remote address and what its answer does. -/
def enters (s t : State) (e : Nat) (pkg : BitVec 13) (remote : Dword) (k : PodKind) : Prop :=
  t.core.lnk.podq = s.core.lnk.podq ++ [{
    num := s.core.lnk.next, eng := BitVec.ofNat 3 e, pos := (s.core.engOf e).pos, pkg := pkg, remote := remote, kind := k, off := 0, failed := false }] ∧
  t.core.lnk.next = s.core.lnk.next + 1

/-! ### Messages of the host -/

/-- A message is the next of its session, on a module that runs, with nothing held behind it (R346). -/
def inTurn (s : State) (h : MsgHdr) : Prop :=
  let x := s.host.session h
  s.host.boot = .running ∧ (∀ d ∈ x.done, d.1 ≠ h.seq) ∧ h.seq.toNat = x.next ∧ x.held = []
/-- A message that the module reads over its host port is the next of its session (R18, R346). -/
def heard (s : State) (h : MsgHdr) : Prop := s.reads h = true ∧ inTurn s h
/-- A message has been processed: its result is kept, acknowledged when asked for, and a reason of refusal is posted (R346). -/
def answered (s t : State) (h : MsgHdr) (result : Byte) : Prop :=
  (t.host.session h).next = (s.host.session h).next + 1 ∧ (h.seq, result) ∈ (t.host.session h).done ∧
  (h.answer = true → .ack h.session h.seq result ∈ t.host.replies) ∧
  (result ≠ 0 → ∃ n ∈ t.host.notices, n.2 = .refusal h.seq result)
/-- Nothing changed but what the host attachment keeps. -/
def onlyHost (s t : State) : Prop := t = { s with host := t.host } ∧ sameBytes s t

/-! ### The turn of an engine -/

/-- It is the turn of engine e of a running core, with nothing due before it. -/
def standsAt (s : State) (e : Nat) : Prop :=
  s.fresh = false ∧ s.host.boot ≠ .moored ∧ s.core.live = true ∧ s.core.frozen = false ∧ s.core.halted = false ∧ s.core.delay = 0 ∧
  s.core.turn.toNat = e ∧ e < 7 ∧
  (e = 0 → s.core.tail = false → s.localStep = none ∧ s.coreEvent = none ∧ (s.firstCore = true → s.packageIdle = true))
/-- Engine e can act at the word it stands at: it is on the die, runs, has not ended, may pass (R32, R35), and is not on its way into
the firmware bank (R312). -/
def mayAct (s : State) (e : Nat) : Prop :=
  let x := s.core.engOf e
  s.core.has e = true ∧ x.stop = none ∧ x.marked = false ∧ x.exited = false ∧ x.passAt ≤ s.core.now ∧ x.passed < 8 ∧
  s.core.windowed e = false ∧ x.pc.toNat < 63488 ∧
  (e = 0 → s.core.retired = false ∧ s.core.dying = false ∧ s.core.trapDue = false)
/-- The word that engine e stands at. -/
def wordAt (s : State) (e : Nat) : Word := Store.get 0 s.core.text (s.core.engOf e).pc.toNat
/-- The turn passes on after what a word did. -/
def thenTurn : Out → Out
  | .next t => .next t.nextTurn
  | o => o

/-! ### Sound states -/

/-- Every memory of the package and of its cores is in its canonical form. -/
def Core.memWf (c : Core) : Prop := Memory.wf c.scratch = true ∧ Memory.wf c.wstack = true
def State.memWf (s : State) : Prop :=
  Memory.wf s.stage = true ∧ Memory.wf s.hbm = true ∧ Memory.wf s.tier2 = true ∧ Memory.wf s.gsram = true ∧ Memory.wf s.dsh = true ∧
  s.core.memWf ∧ (∀ c ∈ s.others, c.memWf) ∧ (∀ c ∈ s.saved, c.memWf)

end Sys2Proof.Machine
end

