-- ==== Sys2Proof/Certificates/Slice0/Obligations.lean ====
section
/-! DEFINITION. Obligations.lean: what the model is claimed to do, by the numbered rules of the manual. -/
open Sys2Proof Sys2Proof.Machine

/-! ### Chapter 4: the control core -/

/-- R79 with Table 4-4, R36, R75, R76 and the latencies of R72: a register form of the arithmetic computes its row of the table
into d, and nothing else of the machine changes. The functions are written here from the table's words. -/
def Obligations.AluRegisterForms : Prop :=
  let rows : List ((GReg → GReg → GReg → Instr) × (Dword → Dword → Dword) × Nat) := [
    (.add, fun x y => x + y, 1), (.sub, fun x y => x - y, 1), (.and, fun x y => x &&& y, 1), (.or, fun x y => x ||| y, 1),
    (.xor, fun x y => x ^^^ y, 1), (.sll, fun x y => x <<< (y.toNat % 64), 1), (.srl, fun x y => x >>> (y.toNat % 64), 1),
    (.sra, fun x y => BitVec.sshiftRight x (y.toNat % 64), 1),
    (.slt, fun x y => if x.toInt < y.toInt then 1 else 0, 1), (.sltn, fun x y => if x.toNat < y.toNat then 1 else 0, 1),
    (.min, fun x y => if y.toInt < x.toInt then y else x, 1), (.max, fun x y => if x.toInt < y.toInt then y else x, 1),
    (.minn, fun x y => if y.toNat < x.toNat then y else x, 1), (.maxn, fun x y => if x.toNat < y.toNat then y else x, 1),
    (.mul, fun x y => x * y, 3), (.mulh, fun x y => BitVec.ofInt 64 (x.toInt * y.toInt / 2 ^ 64), 3),
    (.mulhn, fun x y => BitVec.ofNat 64 (x.toNat * y.toNat / 2 ^ 64), 3)]
  ∀ s d a b, ∀ p ∈ rows, s.core.has 0 = true → logFits s d →
    ∃ t, exec (p.1 d a b) s = .next t ∧ wrote s t d (p.2.1 (s.core.g a) (s.core.g b)) (s.core.df a || s.core.df b) ∧
      (d ≠ 0 → t.core.ctl.ready.getD d.toNat 0 = s.core.now + p.2.2) ∧ wentNext s t 0 ∧ onlyCtl s t

/-- R80, R82 with Table 4-5: the immediate forms, the extension of each immediate, and SLOI. -/
def Obligations.ImmediateForms : Prop :=
  let short : List ((GReg → GReg → BitVec 13 → Instr) × (Dword → BitVec 13 → Dword)) := [
    (.addi, fun x i => x + i.signExtend 64), (.andi, fun x i => x &&& i.setWidth 64), (.ori, fun x i => x ||| i.setWidth 64),
    (.xori, fun x i => x ^^^ i.setWidth 64), (.slti, fun x i => if x.toInt < i.toInt then 1 else 0),
    (.sloi, fun x i => (x <<< 13) ||| i.setWidth 64)]
  let shifts : List ((GReg → GReg → BitVec 6 → Instr) × (Dword → BitVec 6 → Dword)) := [
    (.slli, fun x n => x <<< n.toNat), (.srli, fun x n => x >>> n.toNat), (.srai, fun x n => x.sshiftRight n.toNat)]
  ∀ s d a, s.core.has 0 = true → logFits s d →
    (∀ p ∈ short, ∀ i, ∃ t, exec (p.1 d a i) s = .next t ∧ wrote s t d (p.2 (s.core.g a) i) (s.core.df a) ∧
      wentNext s t 0 ∧ onlyCtl s t) ∧
    (∀ p ∈ shifts, ∀ n, ∃ t, exec (p.1 d a n) s = .next t ∧ wrote s t d (p.2 (s.core.g a) n) (s.core.df a) ∧
      wentNext s t 0 ∧ onlyCtl s t)

/-- R81: LUI. -/
def Obligations.LuiValue : Prop :=
  ∀ s d (i : BitVec 18), s.core.has 0 = true → logFits s d →
    ∃ t, exec (.lui d i) s = .next t ∧ wrote s t d (BitVec.ofInt 64 (i.toInt * 2 ^ 13)) false ∧ wentNext s t 0 ∧ onlyCtl s t

/-- R79 with Table 4-4, R72: the divider's forms, their corners, and the cycles for which the divider is busy. -/
def Claims.DividerForms : Prop :=
  let lo : Int := -(2 ^ 63)
  let rows : List ((GReg → GReg → GReg → Instr) × (Dword → Dword → Dword)) := [
    (.div, fun x y => if y = 0 then -1 else if x.toInt = lo ∧ y.toInt = -1 then x else BitVec.ofInt 64 (x.toInt.tdiv y.toInt)),
    (.divn, fun x y => if y = 0 then -1 else BitVec.ofNat 64 (x.toNat / y.toNat)),
    (.rem, fun x y => if y = 0 then x else if x.toInt = lo ∧ y.toInt = -1 then 0 else BitVec.ofInt 64 (x.toInt.tmod y.toInt)),
    (.remn, fun x y => if y = 0 then x else BitVec.ofNat 64 (x.toNat % y.toNat))]
  ∀ s d a b, ∀ p ∈ rows, s.core.has 0 = true → logFits s d →
    ∃ t, exec (p.1 d a b) s = .next t ∧ wrote s t d (p.2 (s.core.g a) (s.core.g b)) (s.core.df a || s.core.df b) ∧
      t.core.ctl.divFree = s.core.now + 34 ∧ wentNext s t 0 ∧ onlyCtl s t

/-- R79 with Table 4-4: CLZ, CTZ and POPC, said by the bits of the operand. -/
def Claims.BitCounts : Prop :=
  ∀ s d a, s.core.has 0 = true → logFits s d →
    let x := s.core.g a
    (∃ t n, exec (.clz d a) s = .next t ∧ wrote s t d (BitVec.ofNat 64 n) (s.core.df a) ∧ n ≤ 64 ∧
      (∀ k, k < n → x.getLsbD (63 - k) = false) ∧ (n < 64 → x.getLsbD (63 - n) = true) ∧ wentNext s t 0 ∧ onlyCtl s t) ∧
    (∃ t n, exec (.ctz d a) s = .next t ∧ wrote s t d (BitVec.ofNat 64 n) (s.core.df a) ∧ n ≤ 64 ∧
      (∀ k, k < n → x.getLsbD k = false) ∧ (n < 64 → x.getLsbD n = true) ∧ wentNext s t 0 ∧ onlyCtl s t) ∧
    (∃ t, exec (.popc d a) s = .next t ∧ wrote s t d (BitVec.ofNat 64 ((List.range 64).countP x.getLsbD)) (s.core.df a) ∧
      wentNext s t 0 ∧ onlyCtl s t)

/-- R88: ADQ adds the pair a into the pair d, modulo 2^128; both results take the marks of all four sources. -/
def Claims.AdqPairs : Prop :=
  ∀ s d a, s.core.has 0 = true → d.toNat % 2 = 0 → d ≠ 0 → a.toNat % 2 = 0 → a ≠ 0 → s.core.logRoom 2 = true →
    let x := (s.core.g (d + 1)).toNat * 2 ^ 64 + (s.core.g d).toNat + ((s.core.g (a + 1)).toNat * 2 ^ 64 + (s.core.g a).toNat)
    let m := s.core.df d || s.core.df (d + 1) || s.core.df a || s.core.df (a + 1)
    ∃ t, exec (.adq d a) s = .next t ∧
      (t.core.g (d + 1)).toNat * 2 ^ 64 + (t.core.g d).toNat = x % 2 ^ 128 ∧ t.core.df d = m ∧ t.core.df (d + 1) = m ∧
      (∀ r, r ≠ d → r ≠ d + 1 → t.core.g r = s.core.g r ∧ t.core.df r = s.core.df r) ∧ wentNext s t 0 ∧ onlyCtl s t

/-- R79, R72, R88, Table 4-4: the divider's forms, the bit counts, and the sum of register pairs. -/
def Obligations.DividersCountsPairs : Prop := Claims.DividerForms ∧ Claims.BitCounts ∧ Claims.AdqPairs

/-- R84, R33, R314: JAL writes the address of the word after it and goes to its target; it enters the retire queue with its outcome, which is
always taken, or at trap level with none. -/
def Obligations.JalLinks : Prop :=
  ∀ s d (o : BitVec 18), s.core.has 0 = true → logFits s d → s.core.steerRoom = true →
    let tgt := (s.core.engOf 0).pc + BitVec.ofInt 16 o.toInt
    (tgt.toNat < 63488 ∨ s.core.trap.mode = true) →
    ∃ t, exec (.jal d o) s = .next t ∧ wentOn s t 0 tgt ∧ wrote s t d (((s.core.engOf 0).pc + 1).setWidth 64) false ∧
      steers s t (.taken tgt) ∧ onlyCtl s t

/-- R83, R33, R312, R314: a conditional branch goes to its target when its condition holds, else to the next word; its outcome enters
the retire queue for the other engines, at trap level with none, and no register changes. One that user code takes into the firmware bank is cause 0x05 with the
target as detail. -/
def Claims.ConditionalBranches : Prop :=
  let rows : List ((GReg → GReg → BitVec 13 → Instr) × (Dword → Dword → Bool)) := [
    (.beq, fun x y => decide (x = y)), (.bne, fun x y => decide (x ≠ y)), (.blt, fun x y => decide (x.toInt < y.toInt)),
    (.bge, fun x y => decide (y.toInt ≤ x.toInt)), (.bltn, fun x y => decide (x.toNat < y.toNat)),
    (.bgen, fun x y => decide (y.toNat ≤ x.toNat))]
  ∀ s a b o, ∀ p ∈ rows, s.core.has 0 = true → s.core.df a = false → s.core.df b = false → s.core.steerRoom = true →
    let taken := p.2 (s.core.g a) (s.core.g b)
    let tgt := (s.core.engOf 0).pc + BitVec.ofInt 16 o.toInt
    (taken = true → tgt.toNat < 63488 ∨ s.core.trap.mode = true) →
    ∃ t, exec (p.1 a b o) s = .next t ∧ wentOn s t 0 (if taken then tgt else (s.core.engOf 0).pc + 1) ∧ sameRegs s t ∧
      steers s t (if taken then .taken tgt else .notTaken) ∧ onlyCtl s t

/-- R83, R84, R312: a branch or JAL that would take user code into the firmware bank is cause 0x05 with the target as detail. -/
def Claims.BankTargets : Prop :=
  ∀ s (d a b : GReg) (o : BitVec 13) (j : BitVec 18), s.core.has 0 = true → s.core.df a = false → s.core.df b = false → s.core.trap.tl = false →
    s.core.trap.mode = false →
    let near := (s.core.engOf 0).pc + BitVec.ofInt 16 o.toInt
    let far := (s.core.engOf 0).pc + BitVec.ofInt 16 j.toInt
    let x := s.core.g a
    let y := s.core.g b
    let rows : List (Instr × Bool) := [(.beq a b o, decide (x = y)), (.bne a b o, decide (x ≠ y)), (.blt a b o, decide (x.toInt < y.toInt)),
      (.bge a b o, decide (y.toInt ≤ x.toInt)), (.bltn a b o, decide (x.toNat < y.toNat)), (.bgen a b o, decide (y.toNat ≤ x.toNat))]
    (63488 ≤ near.toNat → ∀ p ∈ rows, p.2 = true → ∃ t, exec p.1 s = .next t ∧ tookTrap s t 5 (near.setWidth 64)) ∧
    (63488 ≤ far.toNat → ∃ t, exec (.jal d j) s = .next t ∧ tookTrap s t 5 (far.setWidth 64))

/-- R85, R33, R312, R314: JALR goes to its target when that lies in text, and its outcome, always taken, enters the retire queue for the other
engines, at trap level with none; a target outside text, or one in the firmware bank in user mode, is cause 0x05 with the target as detail. -/
def Claims.JalrTargets : Prop :=
  ∀ s d a (i : BitVec 13), s.core.has 0 = true → s.core.df a = false →
    let tgt : Int := (s.core.g a).toInt + i.toInt
    (0 ≤ tgt → tgt ≤ 65535 → (tgt < 63488 ∨ s.core.trap.mode = true) → logFits s d → s.core.steerRoom = true →
      ∃ t, exec (.jalr d a i) s = .next t ∧ wentOn s t 0 (BitVec.ofInt 16 tgt) ∧
        wrote s t d (((s.core.engOf 0).pc + 1).setWidth 64) false ∧
        steers s t (.taken (BitVec.ofInt 16 tgt)) ∧ onlyCtl s t) ∧
    (tgt < 0 ∨ 65535 < tgt ∨ 63488 ≤ tgt ∧ s.core.trap.mode = false → s.core.trap.tl = false →
      ∃ t, exec (.jalr d a i) s = .next t ∧ tookTrap s t 5 (BitVec.ofInt 64 tgt))

/-- R83 to R85, R33, R312, R314: the conditional branches and the computed jump, their outcomes, and their traps at the firmware bank. -/
def Obligations.BranchesAndJalr : Prop := Claims.ConditionalBranches ∧ Claims.BankTargets ∧ Claims.JalrTargets

/-- R86, R33, R312, R314: CHK branches on the mark of a register, enters the retire queue with its outcome, at trap level with none, and
changes no register and no mark; one that names g0 is never taken, and one that would take user code into the firmware bank is cause 0x05
with the target as detail. -/
def Obligations.ChkBranches : Prop :=
  ∀ s a o, s.core.has 0 = true →
    let tgt := (s.core.engOf 0).pc + BitVec.ofInt 16 o.toInt
    (s.core.steerRoom = true → (s.core.df a = true → tgt.toNat < 63488 ∨ s.core.trap.mode = true) →
      ∃ t, exec (.chk a o) s = .next t ∧ wentOn s t 0 (if s.core.df a then tgt else (s.core.engOf 0).pc + 1) ∧ sameRegs s t ∧
        steers s t (if s.core.df a then .taken tgt else .notTaken) ∧ (a = 0 → s.core.df a = false) ∧ onlyCtl s t) ∧
    (s.core.df a = true → s.core.trap.mode = false → s.core.trap.tl = false → 63488 ≤ tgt.toNat →
      ∃ t, exec (.chk a o) s = .next t ∧ tookTrap s t 5 (tgt.setWidth 64))

/-! ### Illegal words, marked registers, handles, status -/

/-- R44, R38, R40, R45, Tables 2-6 and 2-7: ILL and a word of CTL with an unassigned OP take cause 0x01 with reason 0 and the word in EVAL,
and so does CTL at an ALL word with a reserved opcode, with engine 7; an unassigned word of another engine on the die stops that engine. -/
def Claims.UnassignedWords : Prop :=
  (∀ s (n : BitVec 23), s.core.has 0 = true → s.core.trap.tl = false →
    ∃ t, exec (.ill n) s = .next t ∧ tookTrap s t 1 (n.setWidth 64)) ∧
  (∀ s (w : Word), engField w = 0 → s.core.has 0 = true → s.core.trap.tl = false →
    ∃ t, exec (.unassignedOpcode w) s = .next t ∧ tookTrap s t 1 (w.setWidth 64)) ∧
  (∀ s (w : Word), let e := (engField w).toNat
    1 ≤ e → e ≤ 6 → s.core.has e = true →
    ∃ t, exec (.unassignedOpcode w) s = .next t ∧
      stopped s t e 1 (engField w) (BitVec.ofNat 64 (w.toNat + e * 2 ^ 36))) ∧
  (∀ s (w : Word), engField w = 7 → s.core.turn = 0 → s.core.trap.tl = false →
    ∃ t, exec (.unassignedOpcode w) s = .next t ∧ tookTrap s t 1 (BitVec.ofNat 64 (w.toNat + 7 * 2 ^ 36)) 7)

/-- R38, R39, Table 2-6: a step at a word of its own that the decoder refuses, for an unassigned selector (reason 1) or a set reserved bit
(reason 2), raises cause 0x01 with the word and the reason in EVAL once its scheduled cycle has come; CTL at a word whose engine the die
does not have takes cause 0x02 as it comes there. While a WEV holds CTL no cycle is an instruction boundary (R313, R338): such a word waits.
The fetch meets no poisoned word (R351), as in StepRunsDecodedWord. -/
def Claims.RefusedWordsStep : Prop :=
  ∀ s e, standsAt s e → mayAct s e → (s.poison = [] ∨ (s.core.engOf e).reached ≠ s.core.now) →
    let w := wordAt s e
    let n := (engField w).toNat
    let ev (k : Nat) : Dword := BitVec.ofNat 64 (w.toNat + k * 2 ^ 32 + n * 2 ^ 36)
    (∀ k, (decode w = .error .badSelector ∧ k = 1 ∨ decode w = .error .reservedNonzero ∧ k = 2) → n = e →
      (s.core.unscheduled e = true ∨ s.core.schedOf e ≤ s.core.now) →
      (e ≠ 0 → ∃ t, step s = thenTurn (.next t) ∧ stopped s t e 1 (engField w) (ev k)) ∧
      (e = 0 → s.core.trap.tl = false → s.core.ctl.wev = none → (s.core.engOf 0).held = false →
        ∃ t, step s = thenTurn (.next t) ∧ tookTrap s t 1 (ev k))) ∧
    (e = 0 → n ≠ 7 → s.core.has n = false → s.core.trap.tl = false → s.core.ctl.wev = none → (s.core.engOf 0).held = false →
      ∃ t, step s = thenTurn (.next t) ∧ tookTrap s t 2 (ev 0)) ∧
    (e = 0 → ((decode w).toOption = none ∧ (n = 0 ∨ n = 7) ∨ n ≠ 7 ∧ s.core.has n = false) → (s.core.engOf 0).held = true →
      ∃ t, step s = .next t ∧ sameRegs s t ∧ sameBytes s t ∧ t.core.trap = s.core.trap ∧ (t.core.engOf 0).pc = (s.core.engOf 0).pc)

/-- R38, R295, R337, R176: a word that only the supervisor may execute is cause 0x03 in user mode; the manual gives that cause no detail. SRET
outside a handler is cause 0x01 in supervisor mode. -/
def Claims.PrivilegedWords : Prop :=
  (∀ s, s.core.has 0 = true → s.core.trap.tl = false →
    (s.core.trap.mode = false → ∃ t ev, exec .sret s = .next t ∧ tookTrap s t 3 ev) ∧
    (s.core.trap.mode = true → ∃ t, exec .sret s = .next t ∧ tookTrap s t 1 (BitVec.ofNat 64 ((encode .sret).toNat + 3 * 2 ^ 32)))) ∧
  (∀ s a, s.core.has 4 = true → s.core.trap.mode = false → ∀ i ∈ [Instr.lslot a, .lslotRel a],
    ∃ t ev, exec i s = .next t ∧ stopped s t 4 3 4 ev) ∧
  (∀ s d a b ch, let i := Instr.cpage d a b 1 ch
    s.core.has 3 = true → i.unusedZero = true → i.operandOk = true → s.core.trap.mode = false → ∃ t ev, exec i s = .next t ∧ stopped s t 3 3 3 ev)

/-- R38 to R40, R44, R45, R295: illegal words, words of engines that the die lacks, and words that the mode does not allow. -/
def Obligations.IllegalWordsTrap : Prop := Claims.UnassignedWords ∧ Claims.RefusedWordsStep ∧ Claims.PrivilegedWords

/-- R77: a marked register used by a word of CTL as a base, as data, as a branch operand, or as the source of a CSR write, a ring, a power
level, a pushed value or a wait is cause 0x07 at issue. -/
def Claims.MarkedInCtl : Prop :=
  ∀ (s : State) (d a b : GReg) (imm : BitVec 13) (w : BitVec 1) (h : HReg) (k : BitVec 3) (q : BitVec 2) (n l : BitVec 6),
    let uses : List (Instr × List GReg) := [
      (.beq a b imm, [a, b]), (.bne a b imm, [a, b]), (.blt a b imm, [a, b]), (.bge a b imm, [a, b]), (.bltn a b imm, [a, b]),
      (.bgen a b imm, [a, b]), (.jalr d a imm, [a]),
      (.ldb d a imm, [a]), (.ldbn d a imm, [a]), (.ldh d a imm, [a]), (.ldhn d a imm, [a]), (.ldw d a imm, [a]), (.ldwn d a imm, [a]),
      (.ldd d a imm, [a]), (.ldo d a imm, [a]),
      (.stb b a imm, [a, b]), (.sth b a imm, [a, b]), (.stw b a imm, [a, b]), (.std b a imm, [a, b]),
      (.aadd d a b w, [a, b]), (.aswp d a b w, [a, b]), (.acas d a b w, [a, b, d]), (.amin d a b w, [a, b]), (.amax d a b w, [a, b]),
      (.aand d a b w, [a, b]), (.aor d a b w, [a, b]), (.axor d a b w, [a, b]),
      (.ldq k q a imm, [a]), (.stq k q a imm, [a]),
      (.csrw a imm, [a]), (.csrs d a imm, [a]), (.csrc d a imm, [a]),
      (.fpush a, [a]), (.hdef h n a (l.setWidth 4), [a]), (.pacq a imm, [a]), (.wev d a imm, [a, d])]
    ∀ p ∈ uses, decodeFault s p.1 = none → s.core.trap.tl = false → (∃ r ∈ p.2, s.core.df r = true) →
      ∃ t, ∃ r ∈ p.2, s.core.df r = true ∧ exec p.1 s = .next t ∧ tookTrap s t 7 (r.setWidth 64)

/-- R77, R36: a marked register that a word of another engine reads stops that engine with cause 0x07; the mark is the one that the engine
reads at its place in the program. -/
def Claims.MarkedElsewhere : Prop :=
  ∀ (s : State) (d a b : GReg) (h : HReg) (w m : BitVec 6) (n1 n2 : BitVec 1) (k2 : BitVec 2) (k3 : BitVec 3) (k4 : BitVec 4) (imm : BitVec 13),
    let idle (ch : BitVec 3) : Prop := (s.core.ch ch.toNat).state ≠ .busy
    let filled : Prop := s.core.handleFault h w.toNat = none ∧ w.toNat ≤ (s.core.hnd h).fill
    let mtx : List (Instr × List GReg) := [
      (.mnest a b n1 k3, [a, b]), (.mnestc a b k3, [a, b]), (.mbase d a b, [d, a, b]), (.mdropkKey a b, [a, b]), (.mdropkCtr a b, [a, b]),
      (.mdropkThr a b, [a, b]), (.mres a b n1, [a, b]), (.mdrainAuto a n1 k4 k2, [a]), (.mdrain d a n1 k4 0, [d, a]), (.mldt a b n1 k3, [a, b]),
      (.mstt a b n1 k3, [a, b]), (.mtrn d a b n1 k2 k3, [d, a, b]), (.mtwc a b n1, [a, b]), (.mgvcfg a b, [a, b]), (.mtexpSet a k3, [a]),
      (.mtexpAdd a k3, [a]), (.mtexpSt a, [a]), (.mchkr d n1, [d]), (.mgvr h w a (m.setWidth 7) n1, [a])]
    let vec : List (Instr × List GReg) := [(.vxdef k4 a b, [a, b]), (.vrngkKey a b, [a, b]), (.vrngkCtr a b, [a, b]), (.vrngkAdd a b, [a, b])]
    let cpy : List (Instr × List GReg) := [(.cgeo d a b k3 k3, [d, a, b]), (.clay a b k3, [a, b])]
    let cpyIdle : List (Instr × List GReg) := [(.cgo d a b n1 n2 k3 k3, [d, a, b]), (.cfill d a b n1 k3 k3, [d, a, b]),
      (.csched a b k3, [a, b]), (.cpage d a b n1 k3, [d, a, b])]
    let lnk : List (Instr × List GReg) := [
      (.lslot a, [a]), (.lslotRel a, [a]), (.lput d a b, [d, a, b]), (.lget d a b, [d, a, b]), (.lsig a b, [a, b]), (.laadd d a b n1, [d, a, b]),
      (.laswp d a b n1, [d, a, b]), (.lacas d a b n1, [d, a, b]), (.lamin d a b n1, [d, a, b]), (.lamax d a b n1, [d, a, b]),
      (.laand d a b n1, [d, a, b]), (.laor d a b n1, [d, a, b]), (.laxor d a b n1, [d, a, b]), (.lwsig d a imm, [d, a])]
    let clv : List (Instr × List GReg) := [(.cred d a b k2 k2 k3, [d, a, b]), (.crsc d a b k2 k2 k3, [d, a, b]), (.callg d a b k2 k3, [d, a, b]),
      (.cbc d a b k2 k3, [d, a, b])]
    let takes (e : Nat) (rows : List (Instr × List GReg)) : Prop :=
      ∀ p ∈ rows, decodeFault s p.1 = none → (∃ r ∈ p.2, s.core.rdDf e r = true) →
        ∃ t, ∃ r ∈ p.2, s.core.rdDf e r = true ∧ exec p.1 s = .next t ∧ stopped s t e 7 (BitVec.ofNat 3 e) (BitVec.ofNat 64 (r.toNat + e * 256))
    takes 1 mtx ∧ takes 2 vec ∧ takes 3 cpy ∧ (idle k3 → takes 3 cpyIdle) ∧ takes 4 lnk ∧ (filled → takes 4 [(.lpush h w a n1, [a])]) ∧
    takes 5 [(.gtab d a b n1 k3 k2, [d, a, b])] ∧ (filled → takes 5 [(.gthr h w a, [a]), (.gsum h w a, [a])]) ∧
    (s.groupBusy k3 = false → takes 6 [(.cgrp a b k3, [a, b])]) ∧ (s.core.colls.length < 4 → takes 6 clv)

/-- R77, R153, R154: a marked register of LATEW, BUDG or BNDSET is cause 0x07 in an engine that reads it: one that LATEW names, CTL at a
BUDG, every engine at a BNDSET. -/
def Claims.MarkedInAllWords : Prop :=
  ∀ (s : State) (a b : GReg) (m : BitVec 7) (n : BitVec 3) (k : BitVec 2), let e := s.core.turn.toNat
    let uses : List (Instr × List GReg) := [(.latew a m, if e = 0 ∨ m.getLsbD e = true then [a] else []), (.budg a, if e = 0 then [a] else []),
      (.bndset n a b k, [a, b])]
    e < 7 → (e = 0 → s.core.trap.tl = false) →
    ∀ p ∈ uses, decodeFault s p.1 = none → (∃ r ∈ p.2, s.core.rdDf e r = true) →
      ∃ t, ∃ r ∈ p.2, s.core.rdDf e r = true ∧ exec p.1 s = .next t ∧ (e = 0 → tookTrap s t 7 (r.setWidth 64)) ∧
        (e ≠ 0 → stopped s t e 7 (BitVec.ofNat 3 e) (BitVec.ofNat 64 (r.toNat + e * 256)))

/-- R77: a marked register that a word uses is cause 0x07 at issue, with a marked register of the word in EVAL, and without effect. Of
several marked registers EVAL names one: which one is the model's choice (log entry 84). -/
def Obligations.MarkedRegisterTraps : Prop := Claims.MarkedInCtl ∧ Claims.MarkedElsewhere ∧ Claims.MarkedInAllWords

/-- R93, R96 to R98, R290: what HDEF, a release, a commit and an arrival do to the counts and indices of a ring when they take effect; a
commit or an arrival that finds no room changes no ring and becomes the pending cause 0x14. A push whose bytes already stand in its slot
(`some`: the slot's address and what stood there before) keeps them; as an overrun it gives the old bytes back, and a push that is placed
or refused otherwise than it stood has those that wait behind it give theirs back first, to be placed in their turn: this is the model's
reading (log entry 94). That a release or commit of an operation in flight at an HDEF acts on the new ring is its choice (log entry 95). -/
def Obligations.RingChanges : Prop :=
  ∀ (c : Core) (h : HReg),
    let x := c.hnd h
    (∀ b l n, (c.applyEoc (.hdef h b l n)).hnd h = { defined := true, base := b, lsz := l, cntm1 := n, fill := 0, pidx := 0, cidx := 0 }) ∧
    (∀ e w, w ≤ x.fill → (c.applyEoc (.release e h w)).hnd h = { x with fill := x.fill - w, cidx := (x.cidx + w) % x.count }) ∧
    (∀ e w, x.fill < w → (c.applyEoc (.release e h w)).hnd h = { x with fill := 0, cidx := x.pidx }) ∧
    (∀ e w, w ≤ x.free → (c.applyEoc (.commit e h w)).hnd h = { x with fill := x.fill + w, pidx := (x.pidx + w) % x.count }) ∧
    (∀ e w, x.free < w → (c.applyEoc (.commit e h w)).handles = c.handles ∧
      ∃ p ∈ (c.applyEoc (.commit e h w)).trap.pend, p.cause = 0x14) ∧
    let alone : Prop := ∀ k bs old, .arrive k h bs old ∈ c.eoc → old = none
    (∀ k bs, x.defined = true → 1 ≤ x.free → bs.length ≤ x.slot →
      (∀ was, let d := c.applyEoc (.arrive k h bs (some (x.slotAt x.pidx, was)))
        d.hnd h = { x with fill := x.fill + 1, pidx := (x.pidx + 1) % x.count } ∧ d.scratch = c.scratch ∧ d.eoc = c.eoc) ∧
      (alone →
      let d := c.applyEoc (.arrive k h bs none)
      let filled : Handle := { x with fill := x.fill + 1, pidx := (x.pidx + 1) % x.count }
      d.hnd h = filled ∧
      ∀ a, d.scratch.byte a = if x.slotAt x.pidx ≤ a ∧ a < x.slotAt x.pidx + bs.length then bs.getD (a - x.slotAt x.pidx) 0 else c.scratch.byte a)) ∧
    (∀ k bs old, x.defined = false ∨ x.free = 0 ∨ x.slot < bs.length →
      let d := c.applyEoc (.arrive k h bs old)
      d.handles = c.handles ∧ (∃ p ∈ d.trap.pend, p.cause = 0x14) ∧ (∀ k bs old, .arrive k h bs old ∈ d.eoc → old = none) ∧
        (alone → (old = none → d.scratch = c.scratch) ∧
          ∀ b was, old = some (b, was) → ∀ a, d.scratch.byte a = if b ≤ a ∧ a < b + was.length then was.getD (a - b) 0 else c.scratch.byte a) ∧
        ∀ k2 bs2 b was, c.eoc = [.arrive k2 h bs2 (some (b, was))] → old = none → d.eoc = [.arrive k2 h bs2 none] ∧
          ∀ a, d.scratch.byte a = if b ≤ a ∧ a < b + was.length then was.getD (a - b) 0 else c.scratch.byte a)

/-- R94, R95, R98: HADV.C and HADV.P wait on nothing but the counts, and advance at the end of the cycle; on an undefined handle, or with
a count above COUNT, they take cause 0x05 with the handle and the kind of fault in EVAL. -/
def Claims.HandleAdvances : Prop :=
  ∀ s h (w : BitVec 6), s.core.has 0 = true → (s.core.hnd h).defined = true → w.toNat ≤ (s.core.hnd h).count →
    (w.toNat ≤ (s.core.hnd h).fill →
      ∃ t, exec (.hadvC h w) s = .next t ∧ t.core.eoc = s.core.eoc ++ [.release 0 h w.toNat] ∧ wentNext s t 0 ∧ sameRegs s t ∧ onlyCtlEoc s t) ∧
    (w.toNat ≤ (s.core.hnd h).free →
      ∃ t, exec (.hadvP h w) s = .next t ∧ t.core.eoc = s.core.eoc ++ [.commit 0 h w.toNat] ∧ wentNext s t 0 ∧ sameRegs s t ∧ onlyCtlEoc s t)
/-- R94, R95: the handle faults of kinds 1 and 2. -/
def Claims.HandleFaults : Prop :=
  ∀ s h (w : BitVec 6), ∀ i ∈ [Instr.hadvC h w, .hadvP h w], s.core.has 0 = true → s.core.trap.tl = false →
    let x := s.core.hnd h
    (x.defined = false → ∃ t, exec i s = .next t ∧ tookTrap s t 5 (BitVec.ofNat 64 (h.toNat + 1 * 16 + 0xFF * 2 ^ 56))) ∧
    (x.defined = true → x.count < w.toNat →
      ∃ t, exec i s = .next t ∧ tookTrap s t 5 (BitVec.ofNat 64 (h.toNat + 2 * 16 + 0xFF * 2 ^ 56)))

/-- R97: HDEF on an aligned ring that fits takes effect at the end of the cycle; else it takes cause 0x04 or 0x05. -/
def Claims.HdefDefines : Prop :=
  ∀ s h (k : BitVec 6) a (l : BitVec 4), s.core.has 0 = true → s.core.df a = false → l.toNat ≤ 10 →
    let v := s.core.g a
    let sz := 2 ^ (l.toNat + 6)
    (v.toNat % sz = 0 → v.toNat + sz * (k.toNat + 1) ≤ s.core.size →
      ∃ t, exec (.hdef h k a l) s = .next t ∧ t.core.eoc = s.core.eoc ++ [.hdef h (v.setWidth 24) l k] ∧ wentNext s t 0 ∧ sameRegs s t ∧
        onlyCtlEoc s t) ∧
    (v.toNat % sz ≠ 0 → s.core.trap.tl = false → ∃ t, exec (.hdef h k a l) s = .next t ∧ tookTrap s t 4 v) ∧
    (v.toNat % sz = 0 → s.core.size < v.toNat + sz * (k.toNat + 1) → s.core.trap.tl = false →
      ∃ t, exec (.hdef h k a l) s = .next t ∧ tookTrap s t 5 (BitVec.ofNat 64 (h.toNat + 3 * 16 + 0xFF * 2 ^ 56)))

/-- R94, R95, R97, R98: the words that define a handle and advance its ring, and the handle faults. -/
def Obligations.HandleWords : Prop := Claims.HandleAdvances ∧ Claims.HandleFaults ∧ Claims.HdefDefines

/-- R89, R99: HRD and RDE return the state of a handle and of an engine by Tables 4-12 and 4-7, field by field, as the end of the previous
cycle left them, and RDE resets LATEMAX of the engine at the end of the cycle. -/
def Obligations.StatusReads : Prop :=
  (∀ s h d, s.core.has 0 = true → logFits s d → let x := s.core.hnd h
    ∃ t v, exec (.hrd h d) s = .next t ∧ wrote s t d v false ∧ wentNext s t 0 ∧ onlyCtl s t ∧
      (x.defined = false → v = 0) ∧
      (x.defined = true → x.fill ≤ x.count → x.pidx < x.count → x.cidx < x.count →
        v.extractLsb' 0 7 = BitVec.ofNat 7 x.fill ∧ v.extractLsb' 8 7 = BitVec.ofNat 7 (x.count - x.fill) ∧
        v.extractLsb' 16 6 = BitVec.ofNat 6 x.pidx ∧ v.extractLsb' 24 6 = BitVec.ofNat 6 x.cidx ∧ v.extractLsb' 30 4 = x.lsz ∧
        v.extractLsb' 34 6 = x.cntm1 ∧ v.extractLsb' 40 24 = x.base)) ∧
  (∀ s d (e : BitVec 3), s.core.has 0 = true → logFits s d → e ≠ 0 → e ≠ 7 → s.core.has e.toNat = true →
    s.core.hasPassed e.toNat (s.core.engOf 0).pos = true →
    let x := s.core.engOf e.toNat
    let seen := s.core.seen.getD e.toNat ([], 0)
    ∃ t v, exec (.rde d e) s = .next t ∧ wrote s t d v false ∧ wentNext s t 0 ∧ onlyCtlEoc s t ∧
      t.core.eoc = s.core.eoc ++ [.lateReset e.toNat] ∧
      (v.getLsbD 0 = true ↔ ∀ q ∈ seen.1, (s.core.engOf 0).pos ≤ q) ∧
      (v.getLsbD 1 = true ↔ ∃ y, x.stop = some y ∧ y.cycle < s.core.now) ∧ v.getLsbD 2 = x.exited ∧ v.extractLsb' 3 5 = 0 ∧
      v.extractLsb' 8 8 = seen.2 ∧ v.extractLsb' 16 16 = BitVec.ofNat 16 (min x.lateMax 65535) ∧
      v.extractLsb' 32 16 = BitVec.ofNat 16 (min seen.1.length 65535) ∧ v.extractLsb' 48 16 = 0)

/-! ### Chapter 5: memory -/

/-- R100, R107, Table 5-3: an aligned access inside local scratch, outside the active overflow zone and every planed range, passes
its checks and names the scratch bytes at its own address; an address that is not a multiple of the size is cause 0x04, one past the end of
scratch 0x05. -/
def Claims.ScratchChecks : Prop :=
  ∀ (s : State) (acc : Acc) (n : Nat) (a : Dword), acc ≠ .own → 0 < n →
    (a.toNat % n = 0 → a.toNat + n ≤ s.core.size → a.toNat < 2 ^ 24 → s.core.redirects a.toNat = false →
      (∀ x, s.ctx = some x → x.planeAt s.core.site a.toNat = none) →
      s.checkAccess s.core acc n a = .ok { place := .scratch a.toNat, addr := a.toNat, plane := none }) ∧
    (a.toNat % n ≠ 0 → s.checkAccess s.core acc n a = .error (4, a)) ∧
    (a.toNat % n = 0 → s.core.size < a.toNat + n → a.toNat < 2 ^ 24 → s.core.redirects a.toNat = false →
      s.checkAccess s.core acc n a = .error (5, a))

/-- R100 to R105, R107, R110, R112, R113, R120: the checks of an aligned access outside local scratch, at its address after redirection. No
window, the weight stack, and an address past the share of die-shared scratch are cause 0x05; translated space outside every entry is 0x06; an
entry without the right, or of class HBM or TIER2, or of class POD for anything but an LDD or STD, is 0x05; then a store of the wrong size or
of a core that is no member and an atomic in a planed range, and an LDO outside every planed range, are 0x09; any other access names its
bytes. -/
def Claims.WindowChecks : Prop :=
  ∀ (s : State) (x : Context) (acc : Acc) (n : Nat) (a : Dword), s.ctx = some x → 0 < n → a.toNat % n = 0 →
    let red := s.core.redirects a.toNat
    let y : Dword := if red then s.core.spr.ovfp - (s.core.spr.splb.setWidth 64 - a) else a
    let v := y.toNat
    let got := s.checkAccess s.core acc n a
    let inShared : Prop := 0x100000000 ≤ v ∧ v < 0x101000000
    let inTable : Prop := 0x0001000000000000 ≤ v ∧ v < 0xFF00000000000000
    let end_ := 0x100000000 + (if s.core.die.hasShared then x.share s.core.site else 0)
    let rule (p : Place) : Prop := match x.planeAt s.core.site v with
      | none => got = if acc = .own then .error (9, y) else .ok { place := p, addr := v, plane := none }
      | some (_, d) => red = false →
        (acc = .load ∨ acc = .own ∨ acc = .store ∧ n = d.elem ∧ s.core.id ∈ x.members d.group →
          got = .ok { place := p, addr := v, plane := some d }) ∧
        (acc = .amo ∨ acc = .store ∧ (n ≠ d.elem ∨ s.core.id ∉ x.members d.group) → got = .error (9, y))
    (2 ^ 24 ≤ v → ¬inShared → ¬inTable → got = .error (5, y)) ∧
    (inShared → end_ < v + n → got = .error (5, y)) ∧
    (inShared → v + n ≤ end_ → red = false → rule (.shared (2 ^ 24 * (64 * s.core.ctx.toNat + s.core.site) + (v - 0x100000000)))) ∧
    (inTable → x.entryAt v = none → got = .error (6, y)) ∧
    (∀ e, inTable → x.entryAt v = some e → v + n ≤ e.vbase.toNat + 2 ^ e.lsz →
      let right : Prop := (acc ≠ .store → e.perm.testBit 0 = true) ∧ (acc = .store ∨ acc = .amo → e.perm.testBit 1 = true)
      let h := x.homeOf e v
      (¬right ∨ e.cls = 1 ∨ e.cls = 2 → got = .error (5, y)) ∧
      (right → e.cls = 0 → rule (.stage h.1 (536870912 * h.1 + h.2))) ∧
      (e.cls = 3 → red = true ∨ n ≠ 8 ∨ acc = .own ∨ acc = .amo → got = .error (5, y)) ∧
      (right → e.cls = 3 → red = false → n = 8 → acc = .load ∨ acc = .store → x.planeAt s.core.site v = none →
        got = .ok { place := .pod (e.target.toNat / 2 ^ 48) (BitVec.ofNat 64 (2 ^ 48 + e.target.toNat % 2 ^ 48 + (v - e.vbase.toNat))),
                    addr := v, plane := none }) ∧
      ((∀ p ∈ x.pages, p.page ≠ e.pageOf v) → h = (e.home, e.target.toNat + (v - e.vbase.toNat))))

/-- R100 to R105, R107, R110, R112, R113, R120, Table 5-3: the checks of an access of CTL, in scratch and elsewhere. -/
def Obligations.AccessChecks : Prop := Claims.ScratchChecks ∧ Claims.WindowChecks

/-- R119, R120, R108, Table 5-4: a load whose access passes its checks issues: its request leaves, d waits for the answer, nothing else
changes; and an access that fails a check is the trap of that check (R107). -/
def Claims.LoadsIssue : Prop :=
  let rows : List ((GReg → GReg → BitVec 13 → Instr) × Nat × Bool) := [
    (.ldb, 1, true), (.ldbn, 1, false), (.ldh, 2, true), (.ldhn, 2, false), (.ldw, 4, true), (.ldwn, 4, false), (.ldd, 8, false)]
  ∀ s d a imm, s.core.has 0 = true → s.core.df a = false →
    let y := s.core.g a + imm.signExtend 64
    (∀ p ∈ rows, ∀ x, s.checkAccess s.core .load p.2.1 y = .ok x → accessFree s x p.2.1 → logFits s d →
      ∃ t, exec (p.1 d a imm) s = .next t ∧ awaits s t d ∧ sent s t x (.load d s.core.ctl.tags p.2.1 p.2.2) ∧ wentNext s t 0 ∧ onlyTraffic s t) ∧
    (∀ x, s.checkAccess s.core .own (s.ownSize s.core y.toNat) y = .ok x → accessFree s x (s.ownSize s.core y.toNat) → logFits s d →
      ∃ t, exec (.ldo d a imm) s = .next t ∧ awaits s t d ∧ sent s t x (.own d s.core.ctl.tags) ∧ wentNext s t 0 ∧ onlyTraffic s t) ∧
    (∀ p ∈ rows, ∀ f, s.checkAccess s.core .load p.2.1 y = .error f → s.core.trap.tl = false →
      ∃ t, exec (p.1 d a imm) s = .next t ∧ tookTrap s t f.1 f.2) ∧
    (∀ f, s.checkAccess s.core .own (s.ownSize s.core y.toNat) y = .error f → s.core.trap.tl = false →
      ∃ t, exec (.ldo d a imm) s = .next t ∧ tookTrap s t f.1 f.2)

/-- R120: outside every planed range an LDO is cause 0x04 at an address that is no multiple of 4, 0x06 in translated space outside every
entry, and 0x09 in local scratch outside the overflow zone. -/
def Claims.OwnReadFaults : Prop :=
  ∀ s d a imm x, s.core.has 0 = true → s.core.df a = false → s.core.trap.tl = false → s.ctx = some x →
    let y := s.core.g a + imm.signExtend 64
    x.planeAt s.core.site y.toNat = none → s.core.redirects y.toNat = false →
    (y.toNat % 4 ≠ 0 → ∃ t, exec (.ldo d a imm) s = .next t ∧ tookTrap s t 4 y) ∧
    (y.toNat % 4 = 0 → isTranslated y.toNat = true → x.entryAt y.toNat = none → ∃ t, exec (.ldo d a imm) s = .next t ∧ tookTrap s t 6 y) ∧
    (y.toNat % 4 = 0 → y.toNat + 4 ≤ s.core.size → y.toNat < 2 ^ 24 → ∃ t, exec (.ldo d a imm) s = .next t ∧ tookTrap s t 9 y)

/-- R87: LDS never traps for its address: a marked base, a pod address and a failing access give 0 with the mark set, and any other
access is the load of LDD. -/
def Claims.LdsNeverTraps : Prop :=
  ∀ s d a imm, s.core.has 0 = true → logFits s d →
    let y := s.core.g a + imm.signExtend 64
    let deferred := s.core.df a = true ∨ (∃ f, s.checkAccess s.core .load 8 y = .error f) ∨
      ∃ x p r, s.checkAccess s.core .load 8 y = .ok x ∧ x.place = .pod p r
    (deferred → ∃ t, exec (.lds d a imm) s = .next t ∧ wrote s t d 0 true ∧ wentNext s t 0 ∧ onlyCtl s t) ∧
    (¬ deferred → ∀ x, s.checkAccess s.core .load 8 y = .ok x → accessFree s x 8 →
      ∃ t, exec (.lds d a imm) s = .next t ∧ awaits s t d ∧ sent s t x (.load d s.core.ctl.tags 8 false) ∧ wentNext s t 0 ∧ onlyTraffic s t)

/-- R119, R120, R107, R87: the loads and LDO issue or take the trap of their access; LDS takes none. That the mark of d is cleared as the
word issues is the model's reading of R76 (log entry 68). -/
def Obligations.LoadsIssueOrTrap : Prop := Claims.LoadsIssue ∧ Claims.OwnReadFaults ∧ Claims.LdsNeverTraps

/-- R121, R116: a store whose access passes its checks issues: its request leaves with the data, and no register changes. A store to a
FAULT region first sends its claim and waits for the answer under code 0x09; it issues once the claim is granted, and a claim refused is
cause 0x08. -/
def Obligations.StoresIssue : Prop :=
  let rows : List ((GReg → GReg → BitVec 13 → Instr) × Nat) := [(.stb, 1), (.sth, 2), (.stw, 4), (.std, 8)]
  ∀ s r a imm, ∀ p ∈ rows, s.core.has 0 = true → s.core.df a = false → s.core.df r = false →
    let y := s.core.g a + imm.signExtend 64
    (∀ x, s.checkAccess s.core .store p.2 y = .ok x →
      (x.claims = false ∧ accessFree s x p.2 ∨ x.claims = true ∧ ∃ tag, s.core.ctl.claim = some (tag, some true)) →
      ∃ t, exec (p.1 r a imm) s = .next t ∧ sent s t x (.store p.2 (s.core.g r)) ∧ sameRegs s t ∧ wentNext s t 0 ∧ onlyTraffic s t) ∧
    (∀ x, s.checkAccess s.core .store p.2 y = .ok x → x.claims = true → s.core.ctl.claim = none → accessFree s x p.2 →
      ∃ t f, exec (p.1 r a imm) s = .next t ∧ t.flights = s.flights ++ [f] ∧ f.cargo = .claim s.core.ctl.tags ∧ f.core = s.core.id ∧
        f.addr = BitVec.ofNat 64 x.addr ∧ t.core.ctl.claim = some (s.core.ctl.tags, none) ∧ t.core.ctl.tags = s.core.ctl.tags + 1 ∧
        (t.core.engOf 0).pc = (s.core.engOf 0).pc ∧ (t.core.engOf 0).wait = 9 ∧ sameRegs s t ∧ sameBytes s t) ∧
    (∀ x tag, s.checkAccess s.core .store p.2 y = .ok x → x.claims = true → s.core.ctl.claim = some (tag, none) →
      exec (p.1 r a imm) s = waitAt s 0 9) ∧
    (∀ x tag, s.checkAccess s.core .store p.2 y = .ok x → x.claims = true → s.core.ctl.claim = some (tag, some false) →
      s.core.trap.tl = false → ∃ t, exec (p.1 r a imm) s = .next t ∧ tookTrap s t 8 (BitVec.ofNat 64 x.addr)) ∧
    (∀ f, s.checkAccess s.core .store p.2 y = .error f → s.core.trap.tl = false →
      ∃ t, exec (p.1 r a imm) s = .next t ∧ tookTrap s t f.1 f.2)

/-- R122, R47, R107: an atomic whose access passes its checks issues with its operation, its operand and, for ACAS, its compare value; one
whose access fails a check is the trap of that check. That the mark of d is cleared as the word issues is the model's reading of R76 (log
entry 68). -/
def Obligations.AtomicsIssue : Prop :=
  let rows : List ((GReg → GReg → GReg → BitVec 1 → Instr) × BitVec 3) := [
    (.aadd, 0), (.aswp, 1), (.acas, 2), (.amin, 3), (.amax, 4), (.aand, 5), (.aor, 6), (.axor, 7)]
  ∀ s d a b (w : BitVec 1) x, ∀ p ∈ rows, s.core.has 0 = true → s.core.df a = false → s.core.df b = false → (p.2 = 2 → s.core.df d = false) →
    logFits s d →
    let n := if w = 1 then 8 else 4
    (s.checkAccess s.core .amo n (s.core.g a) = .ok x → accessFree s x n →
      ∃ t, exec (p.1 d a b w) s = .next t ∧ awaits s t d ∧ sent s t x (.amo d s.core.ctl.tags p.2 (w == 1) (s.core.g b) (s.core.g d)) ∧
        wentNext s t 0 ∧ onlyTraffic s t) ∧
    (∀ f, s.checkAccess s.core .amo n (s.core.g a) = .error f → s.core.trap.tl = false →
      ∃ t, exec (p.1 d a b w) s = .next t ∧ tookTrap s t f.1 f.2)

/-- R119, R121, R122, R140: what an access to local scratch does in the cycle in which it performs. A load brings the bytes at its
address, extended; a store changes its n bytes and no other byte; an atomic returns the old value, sign-extended, and stores the new
one. A register takes the answer only while it still waits for it; g0 never does. That the answer clears no mark, since the issue did, is
the model's reading of R76 (log entry 68). -/
def Obligations.ScratchAccessPerforms : Prop :=
  ∀ (s : State) (o : LocalOp) (k : Nat) (ad : Dword),
    (∀ x, s.ctx = some x → x.planeAt s.core.site ad.toNat = none) →
    (∀ n v, o.eff = .ctl (.store n v) false k ad →
      holds (s.doLocal o) .scratch k n v.toNat ∧ sameBytesBut s (s.doLocal o) .scratch k n ∧
      s.doLocal o = { s with core := { s.core with scratch := (s.doLocal o).core.scratch } }) ∧
    (∀ d tag (n : Nat) sx, n ∈ [1, 2, 4, 8] → o.eff = .ctl (.load d tag n sx) false k ad → d ≠ 0 → (d, tag) ∈ s.core.ctl.pend →
      let v := BitVec.ofNat (8 * n) (s.core.scratch.readNat k n)
      tookAnswer s (s.doLocal o) d (if sx then v.signExtend 64 else v.setWidth 64) ∧ sameBytes s (s.doLocal o)) ∧
    (∀ d tag (n : Nat) sx, o.eff = .ctl (.load d tag n sx) false k ad → (d = 0 ∨ (d, tag) ∉ s.core.ctl.pend) →
      sameRegs s (s.doLocal o) ∧ sameBytes s (s.doLocal o)) ∧
    (∀ d tag op wide (x c : Dword), o.eff = .ctl (.amo d tag op wide x c) false k ad →
      let n := if wide then 8 else 4
      let old := BitVec.ofNat (8 * n) (s.core.scratch.readNat k n)
      let b := x.setWidth (8 * n)
      let new := match op.toNat with
        | 0 => old + b
        | 1 => b
        | 2 => if old = c.setWidth (8 * n) then b else old
        | 3 => if old.toInt ≤ b.toInt then old else b
        | 4 => if old.toInt ≤ b.toInt then b else old
        | 5 => old &&& b
        | 6 => old ||| b
        | _ => old ^^^ b
      (d ≠ 0 → (d, tag) ∈ s.core.ctl.pend → tookAnswer s (s.doLocal o) d (old.signExtend 64)) ∧
        (d = 0 ∨ (d, tag) ∉ s.core.ctl.pend → sameRegs s (s.doLocal o)) ∧
        holds (s.doLocal o) .scratch k n new.toNat ∧ sameBytesBut s (s.doLocal o) .scratch k n)

/-- R123 to R125: LDQ and STQ issue when their queue has room or bytes; LDQ's beats are due from issue + 2 on, one a cycle, and
STQ takes its block from the head of the queue and writes a beat a cycle. An address that is no multiple of 64 is cause 0x04, and a block that
reaches past local scratch 0x05. -/
def Claims.QueueWordsIssue : Prop :=
  ∀ s (k : BitVec 3) (q : BitVec 2) a imm, s.core.has 0 = true → s.core.has 2 = true → s.core.df a = false → k ≠ 7 →
    let y := (s.core.g a + imm.signExtend 64).toNat
    let n := 64 * 2 ^ k.toNat
    let held := s.core.vec.sq.getD q.toNat []
    y % 64 = 0 → y + n ≤ s.core.size → s.core.underCopy y n = false →
    (s.core.lqHeld q + n ≤ 8192 →
      ∃ t, exec (.ldq k q a imm) s = .next t ∧ wentNext s t 0 ∧ sameRegs s t ∧ onlyTraffic s t ∧
        t.core.fly = s.core.fly ++ (List.range (2 ^ k.toNat)).map fun j =>
          { due := s.core.now + (2 + j), eng := 0, pos := (s.core.engOf 0).pos, eff := .beat q (y + 64 * j), seq := 128 * s.core.now + j }) ∧
    (q.toNat < 2 → n ≤ held.length →
      ∃ t, exec (.stq k q a imm) s = .next t ∧ wentNext s t 0 ∧ sameRegs s t ∧ sameBytes s t ∧
        t.core.vec = { s.core.vec with sq := s.core.vec.sq.setIfInBounds q.toNat (held.drop n), taken := t.core.vec.taken } ∧
        t = { s with core := { s.core with ctl := t.core.ctl, eng := t.core.eng, fly := t.core.fly, vec := t.core.vec } } ∧
        t.core.fly = s.core.fly ++ (List.range (2 ^ k.toNat)).map fun j =>
          { due := s.core.now + 2 + j, eng := 0, pos := (s.core.engOf 0).pos, eff := .write false (y + 64 * j) ((held.drop (64 * j)).take 64) })
/-- R123, R107: the checks of a queue transfer. -/
def Claims.QueueWordFaults : Prop :=
  ∀ s (k : BitVec 3) (q : BitVec 2) a imm, s.core.has 0 = true → s.core.has 2 = true → s.core.df a = false → k ≠ 7 → s.core.trap.tl = false →
    let y := s.core.g a + imm.signExtend 64
    ∀ i ∈ [Instr.ldq k q a imm, .stq k q a imm], (i = .stq k q a imm → q.toNat < 2) →
      (y.toNat % 64 ≠ 0 → ∃ t, exec i s = .next t ∧ tookTrap s t 4 y) ∧
      (y.toNat % 64 = 0 → s.core.size < y.toNat + 64 * 2 ^ k.toNat → ∃ t, exec i s = .next t ∧ tookTrap s t 5 y)
/-- R125, R140, R143: a write that is due changes its bytes of scratch, or of die-shared scratch, and no other byte and nothing else. -/
def Claims.ScratchWritesPerform : Prop :=
  ∀ (s : State) (o : LocalOp) (sh : Bool) (k : Nat) (bs : List Byte), o.eff = .write sh k bs →
    let t := s.doLocal o
    let m : MemName := if sh then .dsh else .scratch
    (∀ j, j < bs.length → t.byteOf m (k + j) = bs.getD j 0) ∧ sameBytesBut s t m k bs.length ∧
    t = { s with dsh := t.dsh, core := { s.core with scratch := t.core.scratch } }
/-- R140, R143: of the effects of a core that are due the one whose turn is first performs: writes before reads, lower engines before higher
ones. A write of MTX may have to wait for an earlier one (log entry 96). -/
def Claims.DueEffectsPerform : Prop :=
  ∀ (s : State) o r, firstDue s.core.now s.core.fly = some (o, r) →
    (o ∈ s.core.fly ∧ o.due ≤ s.core.now ∧ ∀ x ∈ r, x.due ≤ s.core.now → o.before x = true) ∧
    (s.core.writesBefore o = none → o.seen = [] → s.poison = [] → let s1 : State := { s with core := { s.core with fly := r } }
      ((∀ g z, o.eff ≠ .collEnd g z) → (s1.doLocal o).core.eoc = [] → s.localStep = some (s1.doLocal o)) ∧
      (∀ g z, o.eff = .collEnd g z → s.localStep = some (s1.collDone s.core.id g z)))
/-- R124: a beat of LDQ reads its 64 bytes and two cycles later puts them at the end of its queue, behind those of every block issued
earlier into that queue. -/
def Claims.QueueBeatsPerform : Prop :=
  ∀ (s : State) (o : LocalOp) (q : BitVec 2) (k : Nat) (bs : List Byte),
    (o.eff = .beat q k → ∃ got, got.length = 64 ∧ (∀ j, j < 64 → got.getD j 0 = s.core.scratch.byte (k + j)) ∧
      s.doLocal o = { s with core := { s.core with fly := s.core.fly ++ [{ o with due := s.core.now + 2, eff := .enter q got }] } }) ∧
    (o.eff = .enter q bs →
      let behind : Prop := ∃ x ∈ s.core.fly, x.seq < o.seq ∧ ((∃ k, x.eff = .beat q k) ∨ ∃ y, x.eff = .enter q y)
      (¬behind → s.doLocal o = { s with core := { s.core with vec := { s.core.vec with
        lq := s.core.vec.lq.setIfInBounds q.toNat (s.core.vec.lq.getD q.toNat [] ++ bs) } } }) ∧
      (behind → s.doLocal o = { s with core := { s.core with fly := s.core.fly ++ [{ o with due := s.core.now + 1 }] } }))

/-- R107, R123 to R125, R140: LDQ and STQ issue or trap, and their beats perform in their turn. -/
def Obligations.QueueTransfersIssue : Prop :=
  Claims.QueueWordsIssue ∧ Claims.QueueWordFaults ∧ Claims.QueueBeatsPerform ∧ Claims.ScratchWritesPerform ∧ Claims.DueEffectsPerform

/-! ### Chapters 4 and 14: special registers, traps, power levels -/

/-- R90, R91: a CSR word reads the register into d and, when it writes, asks for the write at the end of the cycle; a write to a
register that no mode may write is cause 0x01 with reason 3, and a write that user mode may not make is cause 0x03. -/
def Obligations.CsrWords : Prop :=
  ∀ s (n : BitVec 13), s.core.has 0 = true → tscrBusy s n = false →
    let old := s.csrRead s.core n.toNat
    (∀ d, csrFault s.core n.toNat false = none → logFits s d →
      (∀ e, csrWaits n.toNat = some e → s.core.has e = true → s.core.hasPassed e (s.core.engOf 0).pos = true) →
      ∃ t, exec (.csrr d n) s = .next t ∧ wrote s t d old false ∧ wentNext s t 0 ∧ onlyCtl s t) ∧
    (∀ a, csrFault s.core n.toNat true = none → s.core.df a = false →
      ∃ t, exec (.csrw a n) s = .next t ∧ t.core.eoc = s.core.eoc ++ [.event (csrEvent n (s.core.g a))] ∧ sameRegs s t ∧ wentNext s t 0 ∧
        onlyCtlEoc s t) ∧
    (∀ d a, csrFault s.core n.toNat (a != 0) = none → s.core.df a = false → logFits s d →
      (∃ t, exec (.csrs d a n) s = .next t ∧ wrote s t d old false ∧ wentNext s t 0 ∧ onlyCtlEoc s t ∧
        t.core.eoc = if a = 0 then s.core.eoc else s.core.eoc ++ [.event (csrEvent n (old ||| s.core.g a))]) ∧
      (∃ t, exec (.csrc d a n) s = .next t ∧ wrote s t d old false ∧ wentNext s t 0 ∧ onlyCtlEoc s t ∧
        t.core.eoc = if a = 0 then s.core.eoc else s.core.eoc ++ [.event (csrEvent n (old &&& ~~~s.core.g a))])) ∧
    (∀ a, csrReadOnly n.toNat = true → s.core.trap.tl = false →
      ∃ t, exec (.csrw a n) s = .next t ∧ tookTrap s t 1 (BitVec.ofNat 64 ((encode (.csrw a n)).toNat + 3 * 2 ^ 32))) ∧
    (∀ a, s.core.trap.mode = false → n.toNat ∈ [0x10, 0x11, 0x12, 0x41, 0x42, 0x50, 0x51, 0x52, 0x60, 0x61, 0x62, 0x72] →
      s.core.trap.tl = false → ∃ t v, exec (.csrw a n) s = .next t ∧ tookTrap s t 3 v)

/-- R35, R76, R77, R90, R110, R131, R135, R311, Tables 5-5 to 5-7, 14-1 to 14-5, 14-12: what a CSR write changes when it takes effect, bit
by bit, and that it changes no register, no memory and no other special register. A write to any other number changes nothing. How
a DFMASK write fills the write log is the model's choice (log entry 70). -/
def Obligations.CsrWritesTakeEffect : Prop :=
  ∀ s (v : Dword), let c := s.core
    exec (.twinWrite v) s = .next { s with core := { c with spr := { c.spr with
      twin := if 8 ≤ v.toNat % 2 ^ 13 ∧ v.toNat % 2 ^ 13 ≤ 4096 then v.setWidth 13 else c.spr.twin } } } ∧
    exec (.budgetWrite v) s = .next { s with core := { c with spr := { c.spr with budget := v.setWidth 32 } } } ∧
    (∃ t, exec (.lateWrite v) s = .next t ∧ (∀ e, e < 7 → t.core.engOf e = { c.engOf e with late := v.setWidth 16 }) ∧
      sameRegs s t ∧ onlyCtl s t) ∧
    (∃ t, exec (.statusWrite v) s = .next t ∧ t = { s with core := { c with trap := { c.trap with
      bnd := c.trap.bnd && v.getLsbD 4
      pmask := if c.trap.tl then v.getLsbD 3 else c.trap.pmask
      pmode := if c.trap.mode then v.getLsbD 1 else c.trap.pmode
      fidarm := if c.trap.mode then v.getLsbD 7 else c.trap.fidarm
      maskAt := t.core.trap.maskAt, maskOut := t.core.trap.maskOut } } }) ∧
    (∃ t, exec (.dfmaskWrite v) s = .next t ∧ onlyCtl s t ∧
      ∀ r, t.core.g r = c.g r ∧ t.core.df r = (r != 0 && v.getLsbD r.toNat)) ∧
    (∃ t, exec (.csrWrite 0x41 v) s = .next t ∧ t = { s with core := { c with trap := { c.trap with
      cause := v.setWidth 8, ceng := v.extractLsb' 8 3, async := v.getLsbD 11 } } }) ∧
    exec (.csrWrite 0x42 v) s = .next { s with core := { c with trap := { c.trap with eval := v } } } ∧
    (∃ t, exec (.csrWrite 0x50 v) s = .next t ∧ t = { s with core := { c with trap := { c.trap with
      svec := v.extractLsb' 0 16, uvec := v.extractLsb' 16 16 } } }) ∧
    (∃ t, exec (.csrWrite 0x52 v) s = .next t ∧ t = { s with core := { c with trap := { c.trap with tdeleg := t.core.trap.tdeleg } } } ∧
      ∀ k, t.core.trap.tdeleg.getLsbD k = (v.getLsbD k && !(k == 2 || k == 3 || k == 0x22 || k == 0x25))) ∧
    (∀ e, e < 7 → ∃ t, exec (.csrWrite (BitVec.ofNat 13 (0x48 + e)) v) s = .next t ∧
      t = { s with core := { c with trap := { c.trap with epc := t.core.trap.epc } } } ∧
      ∀ n, t.core.trap.epc.getD n 0 = if n = e ∧ c.has e = true then v.setWidth 16 else c.trap.epc.getD n 0) ∧
    exec (.csrWrite 0x51 v) s = .next { s with core := { c with trap := { c.trap with tscr := v, tscrTag := none } } } ∧
    (∃ t, exec (.csrWrite 0x60 v) s = .next t ∧ t = { s with core := { c with spr := { c.spr with
      splb := if v.extractLsb' 0 12 = 0 ∧ (v.extractLsb' 0 23).toNat + c.spr.splsz.toNat ≤ c.size then v.extractLsb' 0 23 else c.spr.splb } } }) ∧
    (∃ t, exec (.csrWrite 0x61 v) s = .next t ∧ t = { s with core := { c with spr := { c.spr with
      splsz := if v.extractLsb' 0 12 = 0 ∧ c.spr.splb.toNat + (v.extractLsb' 0 23).toNat ≤ c.size then v.extractLsb' 0 23 else c.spr.splsz } } }) ∧
    (∃ t, exec (.csrWrite 0x62 v) s = .next t ∧ t = { s with core := { c with spr := { c.spr with
      ovfp := if v.extractLsb' 0 12 = 0 then v else c.spr.ovfp } } }) ∧
    (∃ t, exec (.csrWrite 0x72 v) s = .next t ∧ t = { s with core := { c with spr := { c.spr with
      thrAct := v.getLsbD 0, thrShare := v.extractLsb' 8 8, thrCyc := v.extractLsb' 16 32, thrEv := v.extractLsb' 48 16 } } }) ∧
    (∀ n : BitVec 13, n.toNat ∉ [0x41, 0x42, 0x48, 0x49, 0x4A, 0x4B, 0x4C, 0x4D, 0x4E, 0x50, 0x51, 0x52, 0x60, 0x61, 0x62, 0x72] →
      exec (.csrWrite n v) s = .next s)

/-- R90, Table 14-1, Table 14-2: STATUS and ECAUSE, field by field; a CSRR reads STATUS as the end of the previous cycle left it. -/
def Obligations.StatusWordLayout : Prop :=
  ∀ (s : State) (c : Core),
    let w := (s.csrView c).status
    let e := s.csrRead c 0x41
    s.csrRead c 0x40 = c.shown.status ∧ s.turnOver.core.shown.status = (s.csrView s.core).status ∧
    (w.getLsbD 0 = c.trap.mode ∧ w.getLsbD 1 = c.trap.pmode ∧ w.getLsbD 2 = c.trap.tl ∧ w.getLsbD 3 = c.trap.pmask ∧
      w.getLsbD 4 = c.trap.bnd ∧ w.getLsbD 5 = c.trap.detlost ∧ w.getLsbD 6 = c.trap.wslost ∧ w.getLsbD 7 = c.trap.fidarm ∧
      ∀ k, 8 ≤ k → w.getLsbD k = false) ∧
    (e.extractLsb' 0 8 = c.trap.cause ∧ e.extractLsb' 8 3 = c.trap.ceng ∧ e.getLsbD 11 = c.trap.async ∧ ∀ k, 12 ≤ k → e.getLsbD k = false)

/-- R335, R336, R313: TRAP and BRK are the traps 0x18 and 0x19 at their own word, with the code in EVAL; with FIDARM set BRK asks for a
package halt of its context instead, takes no trap, and stands at the word with its address in EPC0, so that a resume one word on goes past
it: the last two are the model's reading of R336 (log entry 50). A cause goes to the user's handler when it is delegated and the user has
one. -/
def Obligations.TrapWords : Prop :=
  ∀ s (n : BitVec 18), s.core.has 0 = true → s.core.trap.tl = false →
    (∃ t, exec (.trap n) s = .next t ∧ tookTrap s t 0x18 (n.setWidth 64)) ∧
    (s.core.trap.fidarm = false → ∃ t, exec (.brk n) s = .next t ∧ tookTrap s t 0x19 (n.setWidth 64)) ∧
    (s.core.trap.fidarm = true → ∃ t, exec (.brk n) s = .next t ∧ (t.core.engOf 0).pc = (s.core.engOf 0).pc ∧
      t.core.trap = { s.core.trap with epc := s.core.trap.epc.setIfInBounds 0 (s.core.engOf 0).pc } ∧
      sameRegs s t ∧ sameBytes s t ∧ ∀ x, t.ctxOf s.core.ctx = some x → ∃ g, (FreezeKind.halt, g) ∈ x.freeze) ∧
    (∀ (u : TrapUnit) (cause : Byte), u.handler cause =
      if u.tdeleg.getLsbD cause.toNat = true ∧ u.uvec ≠ 0 then (false, u.uvec) else (true, u.svec))

/-- R313: CTL takes a pending cause: a synchronous one of the lowest-numbered stopped engine first, else the asynchronous one with the
lowest code, each marked as taken; with none due, nothing happens. -/
def Obligations.PendingCausesTaken : Prop :=
  ∀ (s : State),
    (s.core.trapDue = false → exec .trapEntry s = .next s) ∧
    (∀ c cause eng async eval, s.core.trapDue = true → s.core.chooseCause = some (c, cause, eng, async, eval) →
      ∃ t, exec .trapEntry s = .next t ∧
        t.core.trap.cause = cause ∧ t.core.trap.ceng = eng ∧ t.core.trap.async = async ∧ t.core.trap.eval = eval ∧ t.core.trap.tl = true ∧
        t.core.trap.pmode = s.core.trap.mode ∧ t.core.trap.mode = (s.core.trap.handler cause).1 ∧
        (t.core.engOf 0).pc = (s.core.trap.handler cause).2 ∧ t.core.g 31 = s.core.trap.tscr ∧ t.core.trap.tscr = s.core.g 31 ∧
        (∀ r, r ≠ 31 → t.core.g r = s.core.g r) ∧ sameBytes s t) ∧
    (∀ e x, s.core.stopDue = some (e, x) → x.taken = false ∧ x.cycle < s.core.now ∧ (s.core.engOf e).stop = some x ∧
      ∀ n y, n < e → (s.core.engOf n).stop = some y → y.taken = true ∨ s.core.now ≤ y.cycle) ∧
    (∀ p, s.core.asyncDue = some p → p ∈ s.core.trap.pend ∧ p.cycle < s.core.now ∧
      ∀ q ∈ s.core.trap.pend, q.cycle < s.core.now → p.cause ≤ q.cause) ∧
    (∀ e x, s.core.stopDue = some (e, x) →
      ∃ c, s.core.chooseCause = some (c, x.cause, x.eng, false, x.eval) ∧ (c.engOf e).stop = some { x with taken := true }) ∧
    (∀ p, s.core.stopDue = none → s.core.asyncDue = some p →
      ∃ c, s.core.chooseCause = some (c, p.cause, p.eng, true, p.eval) ∧ ∀ q ∈ c.trap.pend, q.cause ≠ p.cause) ∧
    (s.core.stopDue = none → s.core.asyncDue = none → s.core.chooseCause = none)

/-- R315, R316: a cause of CTL's own word in a handler is a nested trap: the core asks for the end of its context, and no second entry takes
place; the host gets the fault notice with it, and the kill of the context is requested. -/
def Claims.NestedTraps : Prop :=
  (∀ s (n : BitVec 18) (k : BitVec 23), s.core.has 0 = true → s.core.trap.tl = true →
    ∀ p ∈ [(Instr.trap n, (0x18 : Byte), (n.setWidth 64 : Dword)), (.ill k, 1, k.setWidth 64)],
      ∃ t, exec p.1 s = .next t ∧ t.core.dying = true ∧ t.core.nested = some (p.2.1, 0, p.2.2) ∧ t.core.trap = s.core.trap ∧
        (t.core.engOf 0).lastCause = p.2.1 ∧ (t.core.engOf 0).pc = (s.core.engOf 0).pc ∧ sameRegs s t ∧ sameBytes s t) ∧
  (∀ s, s.core.live = true → s.core.dying = true → s.core.told = false → let t := s.reportDying
    t.core.told = true ∧ sameRegs s t ∧ sameBytes s t ∧
    (∃ n ∈ t.host.notices, n.2 = .fault s.core.ctx s.core.id (s.csrRead s.core 0x41) s.core.trap.eval
      ((List.range 8).map fun k => s.csrRead s.core (0x48 + k)) s.core.nested) ∧
    ∀ x ∈ t.ctxs, x.id = s.core.ctx → ∃ f ∈ x.freeze, f.1 = .kill)

/-- R337, R315: SRET that finds a cause pending enters that cause's handler instead: g31, TSCR, PMODE and PMASK stand, and an engine that
stopped since the first entry takes its EPC. With an EPC that is neither the stop address nor the word after it, or with CTL's in the
firmware bank for user code, SRET is a cause in a handler: 0x01, or 0x05. -/
def Claims.SretChainsOrFails : Prop :=
  ∀ s, s.core.has 0 = true → s.core.trap.tl = true → let u := s.core.trap
    (sretOk s.core = true → ∀ c cause eng async eval, s.core.chooseCause = some (c, cause, eng, async, eval) →
      ∃ t, exec .sret s = .next t ∧ t.core.trap.cause = cause ∧ t.core.trap.ceng = eng ∧ t.core.trap.async = async ∧ t.core.trap.eval = eval ∧
        t.core.trap.tl = true ∧ t.core.trap.mode = (u.handler cause).1 ∧ (t.core.engOf 0).pc = (u.handler cause).2 ∧
        t.core.trap.pmode = u.pmode ∧ t.core.trap.pmask = u.pmask ∧ t.core.trap.tscr = u.tscr ∧ sameRegs s t ∧ sameBytes s t ∧
        ∀ n, 1 ≤ n → n < 7 → ∀ x, (s.core.engOf n).stop = some x → t.core.trap.stopped.getLsbD n = true ∧
          t.core.trap.epc.getD n 0 = if u.stopped.getLsbD n then u.epc.getD n 0 else x.pc) ∧
    (sretOk s.core = false → ∃ t, exec .sret s = .next t ∧ t.core.dying = true ∧ sameRegs s t ∧ sameBytes s t ∧
      t.core.nested = some (1, 0, BitVec.ofNat 64 ((encode .sret).toNat + 3 * 2 ^ 32))) ∧
    (sretOk s.core = true → s.core.stopDue = none → s.core.asyncDue = none → 63488 ≤ (u.epc.getD 0 0).toNat → u.pmode = false →
      ∃ t, exec .sret s = .next t ∧ t.core.dying = true ∧ t.core.nested = some (5, 0, (u.epc.getD 0 0).setWidth 64) ∧ sameRegs s t ∧ sameBytes s t)

/-- R337: SRET with no cause pending returns: mode, trap level and PMASK as the rule says, g31 and TSCR swapped, CTL and every stopped
engine at their EPCs, the other engines as they stood. -/
def Claims.SretResumes : Prop :=
  ∀ s, s.core.has 0 = true → s.core.trap.tl = true → s.core.stopDue = none → s.core.asyncDue = none → sretOk s.core = true →
    let u := s.core.trap
    ((u.epc.getD 0 0).toNat < 63488 ∨ u.pmode = true) →
    ∃ t, exec .sret s = .next t ∧ t.core.trap.mode = u.pmode ∧ t.core.trap.tl = false ∧ t.core.trap.pmask = false ∧ t.core.trap.stopped = 0 ∧
      t.core.g 31 = u.tscr ∧ t.core.trap.tscr = s.core.g 31 ∧ (∀ r, r ≠ 31 → t.core.g r = s.core.g r ∧ t.core.df r = s.core.df r) ∧
      (t.core.engOf 0).pc = u.epc.getD 0 0 ∧
      (∀ n, 1 ≤ n → n < 7 → u.stopped.getLsbD n = true → (t.core.engOf n).pc = u.epc.getD n 0 ∧ (t.core.engOf n).stop = none) ∧
      (∀ n, 1 ≤ n → u.stopped.getLsbD n = false → t.core.engOf n = s.core.engOf n) ∧ sameBytes s t

/-- R315, R316, R337: the return from a handler, the causes that it enters or meets instead, and traps within a handler. -/
def Obligations.SretReturns : Prop := Claims.SretResumes ∧ Claims.SretChainsOrFails ∧ Claims.NestedTraps

/-- R302, R338, R111: a word of stage memory under wait is read again when 512 cycles have passed: a request leaves for it, and the next is
due in 512 cycles; a read that is not due, or whose page is being moved, does nothing. -/
def Claims.PeriodicReads : Prop :=
  (∀ s w, s.core.lnk.wsig = some w → s.core.ctl.wev = none → 2 ^ 24 ≤ w.addr.toNat → w.next ≤ s.core.now →
    (∀ x, s.ctx = some x → x.busyAt w.addr.toNat 8 = false) →
    ∃ t, exec .waitPeriodicRead s = .next t ∧ t.core.lnk.wsig = some { w with next := s.core.now + 512 } ∧ sameRegs s t ∧ sameBytes s t ∧
      ∀ x home k, waitAccess s w.addr = .ok x → x.place = .stage home k →
        ∃ f, t.flights = s.flights ++ [f] ∧ f.cargo = .req (.wait false w.tag) ∧ f.core = s.core.id ∧ f.eng = 4 ∧ f.addr = w.addr) ∧
  (∀ s w, s.core.ctl.wev = some w → s.core.lnk.wsig = none → 2 ^ 24 ≤ w.addr.toNat → w.next ≤ s.core.now →
    (∀ x, s.ctx = some x → x.busyAt w.addr.toNat 8 = false) →
    ∃ t, exec .waitPeriodicRead s = .next t ∧ t.core.ctl.wev = some { w with next := s.core.now + 512 } ∧ sameRegs s t ∧ sameBytes s t ∧
      ∀ x home k, waitAccess s w.addr = .ok x → x.place = .stage home k →
        ∃ f, t.flights = s.flights ++ [f] ∧ f.cargo = .req (.wait true w.tag) ∧ f.core = s.core.id ∧ f.eng = 0 ∧ f.addr = w.addr) ∧
  (∀ s, (∀ w, s.core.lnk.wsig = some w ∨ s.core.ctl.wev = some w → w.addr.toNat < 2 ^ 24 ∨ s.core.now < w.next ∨
      ∃ x, s.ctx = some x ∧ x.busyAt w.addr.toNat 8 = true) →
    exec .waitPeriodicRead s = .next s)

/-- R338, R302: WEV issues and holds its engine until the word has changed; the reads of a cycle end the waits of WEV and LWSIG, and WEV's
destination takes the value read; a stage word is read again every 512 cycles. That the mark of d goes as the word issues, and not with the
answer, is the model's reading of R76 (log entry 68). -/
def Obligations.WordWaits : Prop :=
  (∀ s d a imm x, s.core.has 0 = true → s.core.df a = false → s.core.df d = false → logFits s d →
    let y := s.core.g a + imm.signExtend 64
    waitAccess s y = .ok x → accessFree s x 8 →
    ∃ t w, exec (.wev d a imm) s = .next t ∧ (t.core.engOf 0).held = true ∧ (t.core.engOf 0).pc = (s.core.engOf 0).pc + 1 ∧
      t.core.ctl.wev = some w ∧ w.addr = y ∧ w.val = s.core.g d ∧ w.dst = d ∧ awaits s t d ∧ onlyTraffic s t) ∧
  (∀ s w, s.core.ctl.wev = some w → w.addr.toNat < 2 ^ 24 → w.next ≤ s.core.now → (w.dst, w.tag) ∈ s.core.ctl.pend → w.dst ≠ 0 →
    s.core.trap.pend = [] →
    let v := BitVec.ofNat 64 (s.core.scratch.readNat w.addr.toNat 8)
    ∃ t, exec .waitWordRead s = .next t ∧ sameBytes s t ∧
      (v ≠ w.val → t.core.ctl.wev = none ∧ (t.core.engOf 0).held = false ∧ tookAnswer s t w.dst v) ∧
      (v = w.val → t.core.ctl.wev.isSome = true ∧ sameRegs s t)) ∧
  (∀ s w, s.core.lnk.wsig = some w → w.addr.toNat < 2 ^ 24 → w.next ≤ s.core.now →
    let v := BitVec.ofNat 64 (s.core.scratch.readNat w.addr.toNat 8)
    ∃ t, exec .waitWordRead s = .next t ∧ sameBytes s t ∧ t.core.lnk.wsig.isNone = decide (w.val.toInt ≤ v.toInt) ∧
      (w.val.toInt ≤ v.toInt → (t.core.engOf 4).held = false)) ∧
  Claims.PeriodicReads

/-- R332, R339, R340: the power level: a lower or equal PACQ and every PREL take effect at the end of the cycle and PREL never raises
the level; a raise asks, is granted within the die's budget, and PACQ then issues, in a later cycle, with the level it asked for. -/
def Obligations.PowerLevels : Prop :=
  ∀ s, s.core.has 0 = true →
    (∀ a imm, s.core.df a = false →
      let n := (s.core.g a + imm.signExtend 64).toNat
      (n ≤ 15 → n ≤ s.core.spr.level.toNat →
        ∃ t, exec (.pacq a imm) s = .next t ∧ t.core.eoc = s.core.eoc ++ [.level (BitVec.ofNat 4 n)] ∧ wentNext s t 0 ∧ onlyCtlEoc s t) ∧
      (n ≤ 15 → s.core.spr.level.toNat < n → s.core.spr.granted = true → s.core.spr.grantAt < s.core.now →
        ∃ t, exec (.pacq a imm) s = .next t ∧ t.core.spr = { s.core.spr with level := s.core.spr.req, preq := false, granted := false } ∧
          wentNext s t 0 ∧ sameRegs s t ∧ sameBytes s t) ∧
      (n ≤ 15 → s.core.spr.level.toNat < n → s.core.spr.granted = false → s.core.spr.preq = false →
        ∃ t, exec (.pacq a imm) s = .next t ∧ t.core.spr.preq = true ∧ t.core.spr.req = BitVec.ofNat 4 n ∧ t.core.spr.level = s.core.spr.level ∧
          (t.core.engOf 0).pc = (s.core.engOf 0).pc ∧ (t.core.engOf 0).wait = 0x0B) ∧
      (15 < n → s.core.trap.tl = false → ∃ t, exec (.pacq a imm) s = .next t ∧
        tookTrap s t 5 (BitVec.ofNat 64 (16 + 6 * 2 ^ 48 + 0xFF * 2 ^ 56)))) ∧
    (∀ l, ∃ t n, exec (.prel l) s = .next t ∧ t.core.eoc = s.core.eoc ++ [.level n] ∧ n.toNat = min l.toNat s.core.spr.level.toNat ∧
      wentNext s t 0 ∧ onlyCtlEoc s t) ∧
    (∀ n, (s.core.applyEoc (.level n)).spr.level = n) ∧
    (exec .powerGrant s = .next (if s.grantDue then { s with core := { s.core with spr := { s.core.spr with
      granted := true, grantAt := s.core.now } } } else s))

/-! ### Chapter 6: steps, barriers, modes, windows -/

/-- R196, R197, R192, R180: an engine that passes FPCW or BNDSET takes the new mode or the new bound, and no other engine does. -/
def Claims.EngineModes : Prop :=
  ∀ s, let e := s.core.turn.toNat
    e < 7 → (e ≠ 0 ∨ s.core.trap.tl = false) →
    (∀ o i r, clears s e (.fpcw o i r) →
      ∃ t, exec (.fpcw o i r) s = .next t ∧ (t.core.engOf e).mode = o ++ i ++ r ∧ (t.core.engOf e).bnd = (s.core.engOf e).bnd ∧
        (t.core.engOf e).pc = (s.core.engOf e).pc + 1 ∧ (∀ n, n ≠ e → t.core.engOf n = s.core.engOf n) ∧ sameRegs s t ∧ onlyCtl s t) ∧
    (∀ n a b k, clears s e (.bndset n a b k) →
      ∃ t, exec (.bndset n a b k) s = .next t ∧ (t.core.engOf e).mode = (s.core.engOf e).mode ∧
        (∀ m : BitVec 3, (t.core.engOf e).bnd.getD m.toNat {} = if m = n then
          { low := (s.core.rd e a).setWidth 32, high := (s.core.rd e b).setWidth 32, act := k }
          else (s.core.engOf e).bnd.getD m.toNat {}) ∧
        (t.core.engOf e).pc = (s.core.engOf e).pc + 1 ∧ (∀ m, m ≠ e → t.core.engOf m = s.core.engOf m) ∧ sameRegs s t ∧ onlyCtl s t)

/-- R134, R192: at trap level FPCW and BNDSET set CTL's copy and that of every stopped engine, and of no other. -/
def Claims.HandlerModes : Prop :=
  ∀ s, s.core.turn = 0 → s.core.trap.tl = true → s.core.has 0 = true →
    let held (n : Nat) : Bool := n == 0 || s.core.trap.stopped.getLsbD n
    (∀ o i r, ∃ t, exec (.fpcw o i r) s = .next t ∧ wentPc s t ∧
      ∀ n, n < 7 → (t.core.engOf n).mode = (if held n then o ++ i ++ r else (s.core.engOf n).mode) ∧
        (t.core.engOf n).bnd = (s.core.engOf n).bnd) ∧
    (∀ (k : BitVec 3) a b c, clears s 0 (.bndset k a b c) → ∃ t, exec (.bndset k a b c) s = .next t ∧ wentPc s t ∧
      ∀ n, n < 7 → (t.core.engOf n).mode = (s.core.engOf n).mode ∧
        ∀ m : BitVec 3, (t.core.engOf n).bnd.getD m.toNat {} =
          if held n = true ∧ m = k then { low := (s.core.g a).setWidth 32, high := (s.core.g b).setWidth 32, act := c }
          else (s.core.engOf n).bnd.getD m.toNat {})

/-- R134, R151, R153, R155: the other ALL words of a handler act on CTL alone: LATEW sets CTL's window, and in user mode does not raise it;
FENCE.M that names CTL holds it until CTL's own operations and the handler's earlier words are done; MARK writes a trace record. What a
record's scheduled cycle is there is the model's choice (log entry 85), and nothing is said of it. -/
def Claims.HandlerAllWords : Prop :=
  ∀ s, s.core.turn = 0 → s.core.trap.tl = true → s.core.has 0 = true →
    (∀ a (m : BitVec 7), let w : BitVec 16 := (s.core.g a).setWidth 16
      let raises := m.getLsbD 0 = true ∧ (s.core.ctl.lates.getD 0 0).toNat < w.toNat
      clears s 0 (.latew a m) →
      (s.core.trap.mode = true ∨ ¬raises → ∃ t, exec (.latew a m) s = .next t ∧ wentPc s t ∧
        (∀ n, n < 7 → (t.core.engOf n).late = if n = 0 ∧ m.getLsbD 0 = true then w else (s.core.engOf n).late) ∧
        ∀ n, n < 7 → t.core.ctl.lates.getD n 0 = if n = 0 ∧ m.getLsbD 0 = true then w else s.core.ctl.lates.getD n 0) ∧
      (s.core.trap.mode = false → raises → ∃ t, exec (.latew a m) s = .next t ∧ t.core.dying = true ∧ sameRegs s t ∧ sameBytes s t)) ∧
    (∀ m : BitVec 7, clears s 0 (.fenceM m) → ∃ t, exec (.fenceM m) s = .next t ∧ wentPc s t ∧
      t.core.ctl.hfence = m.getLsbD 0 ∧ t.core.ctl.fence = s.core.ctl.fence) ∧
    (s.core.ctl.hfence = true → (s.retireFence.core.ctl.hfence = false ↔
      s.opsOf s.core 0 = [] ∧ (s.core.engOf 0).freeAt ≤ s.core.now ∧
        ∀ x ∈ s.core.ctl.retq, (s.core.engOf 0).pos ≤ x.pos → x.tag = none ∧ x.due ≤ s.core.now)) ∧
    (∀ v, clears s 0 (.mark v) → ∃ t, exec (.mark v) s = .next t ∧ wentPc s t ∧
      (s.core.tracing = false → t.core.trace = s.core.trace) ∧
      (s.core.tracing = true → ∃ x, t.core.trace = s.core.trace ++ [x] ∧ x.eng = 0 ∧ x.value = v ∧ x.issue = s.core.now ∧
        x.step = s.core.spr.stepcnt))

/-- R134, R151, R153, R155, R180, R192, R196, R197: modes and bounds of the engines, in programs and in handlers, and the other ALL words
of a handler. -/
def Obligations.EngineModesAndBounds : Prop := Claims.EngineModes ∧ Claims.HandlerModes ∧ Claims.HandlerAllWords

/-- R153 to R155: LATEW sets the window of a named engine as it passes, BUDG asks CTL for the new budget, MARK writes a trace record
when tracing is on; an engine passes a word that concerns others without effect, whether CTL has retired the words before it or not (R34).
In user mode an engine ahead of CTL that comes to a LATEW or BUDG which the value forbids, when CTL has retired every earlier word, stops
there as at a failed ALL word (R40): that it does not where CTL has earlier words to retire is the model's reading (log entry 18). -/
def Obligations.WindowsBudgetsMarks : Prop :=
  ∀ s, let e := s.core.turn.toNat
    let next (t : State) : Prop := (t.core.engOf e).pc = (s.core.engOf e).pc + 1 ∧ (∀ n, n ≠ e → t.core.engOf n = s.core.engOf n) ∧
      sameRegs s t ∧ sameBytes s t
    let ahead : Prop := e ≠ 0 ∧ s.core.trap.mode = false ∧ (s.core.engOf 0).pos ≤ (s.core.engOf e).pos
    let stands (i : Instr) : Prop := ∃ t z, exec i s = .next t ∧ (t.core.engOf e).stop = some z ∧ z.cause = 3 ∧ z.eng = 7 ∧
      (t.core.engOf e).pc = (s.core.engOf e).pc ∧ (∀ n, n ≠ e → t.core.engOf n = s.core.engOf n) ∧ sameRegs s t ∧ sameBytes s t
    e < 7 → s.core.trap.tl = false →
    (∀ a m, let w : BitVec 16 := (s.core.rd e a).setWidth 16
      let raises := ∃ n, n < 7 ∧ m.getLsbD n = true ∧ s.core.has n = true ∧ (s.core.ctl.lates.getD n 0).toNat < w.toNat
      clears s e (.latew a m) →
      (e = 0 ∧ (s.core.trap.mode = true ∨ ¬ raises) ∨
          e ≠ 0 ∧ (s.core.userPath = false ∨ (s.core.engOf e).pos < (s.core.engOf 0).pos ∨ s.core.retiredBefore e = false ∨ ¬ raises) →
        ∃ t, exec (.latew a m) s = .next t ∧ next t ∧ onlyCtl s t ∧
          (t.core.engOf e).late = if m.getLsbD e && s.core.has e then w else (s.core.engOf e).late) ∧
      (ahead → s.core.retiredBefore e = true → raises → stands (.latew a m)) ∧
      (s.core.trap.mode = false → e = 0 → raises →
        ∃ t, exec (.latew a m) s = .next t ∧ t.core.trap.tl = true ∧ t.core.trap.cause = 3 ∧ t.core.trap.ceng = 7)) ∧
    (∀ a, let v : BitVec 32 := (s.core.rd e a).setWidth 32
      let raises := s.core.spr.budget ≠ 0 ∧ (v = 0 ∨ s.core.spr.budget.toNat < v.toNat)
      clears s e (.budg a) →
      (e = 0 ∧ (s.core.trap.mode = true ∨ ¬ raises) ∨
          e ≠ 0 ∧ (s.core.userPath = false ∨ (s.core.engOf e).pos < (s.core.engOf 0).pos ∨ s.core.retiredBefore e = false ∨ ¬ raises) →
        ∃ t, exec (.budg a) s = .next t ∧ next t ∧ onlyCtlEoc s t ∧
          t.core.eoc = if e = 0 then s.core.eoc ++ [.event (.budgetWrite (v.setWidth 64))] else s.core.eoc) ∧
      (ahead → s.core.retiredBefore e = true → raises → stands (.budg a)) ∧
      (s.core.trap.mode = false → e = 0 → raises →
        ∃ t, exec (.budg a) s = .next t ∧ t.core.trap.tl = true ∧ t.core.trap.cause = 3 ∧ t.core.trap.ceng = 7)) ∧
    (∀ v, clears s e (.mark v) → ∃ t, exec (.mark v) s = .next t ∧ next t ∧
      t = { s with core := { s.core with ctl := t.core.ctl, eng := t.core.eng, trace := t.core.trace } } ∧
      t.core.trace = if s.core.tracing then s.core.trace ++ [{
        eng := s.core.turn, value := v, sched := s.core.schedOf e, issue := s.core.now, step := s.core.spr.stepcnt }] else s.core.trace)

/-- R149, R150, R152, R73: at STEP and BAR an engine posts its marker and stands; CTL arrives when every engine has and every operation that
the word waits for has performed, and its word enters the retire queue with its result at issue + 1 and no outcome; at EXIT an engine
ends. -/
def Obligations.StepsBarriersExit : Prop :=
  ∀ s, let e := s.core.turn.toNat
    let stays (t : State) : Prop := (t.core.engOf e).pc = (s.core.engOf e).pc ∧ (∀ n, n ≠ e → t.core.engOf n = s.core.engOf n) ∧
      sameRegs s t ∧ sameBytes s t
    let queued (t : State) : Prop := ∃ r, t.core.ctl.retq = s.core.ctl.retq ++ [r] ∧ r.pos = (s.core.engOf 0).pos ∧
      r.due = s.core.now + 1 ∧ r.tag = none ∧ r.outc = none
    e < 7 →
    (∀ r g sc, clears s e (.step r g sc) →
      (e ≠ 0 → ∃ t, exec (.step r g sc) s = .next t ∧ (t.core.engOf e).marked = true ∧ t.core.bar = s.core.bar ∧
        t.core.ctl.retq = s.core.ctl.retq ∧ stays t) ∧
      (e = 0 → s.core.allMarked = true → s.allPerformed s.core = true → ∃ t, exec (.step r g sc) s = .next t ∧
        (t.core.engOf 0).marked = true ∧ queued t ∧ stays t ∧
        t.core.bar = some { step := true, rs := r == 1, group := g, scope := sc, id := 0, arr := s.core.now, rel := none })) ∧
    (∀ f n sc, clears s e (.bar f n sc) →
      (e ≠ 0 → ∃ t, exec (.bar f n sc) s = .next t ∧ (t.core.engOf e).marked = true ∧ t.core.bar = s.core.bar ∧
        t.core.ctl.retq = s.core.ctl.retq ∧ stays t) ∧
      (e = 0 → s.core.allMarked = true → (f = 1 → s.allPerformed s.core = true) → ∃ t, exec (.bar f n sc) s = .next t ∧
        (t.core.engOf 0).marked = true ∧ queued t ∧ stays t ∧
        t.core.bar = some { step := false, rs := false, group := 0, scope := sc, id := n, arr := s.core.now, rel := none })) ∧
    (clears s e .exit → ∃ t, exec .exit s = .next t ∧ (t.core.engOf e).exited = true ∧ stays t)

/-- R151, R73: an engine passes FENCE.M without effect; CTL issues it, and the word enters the retire queue with its result at issue + 1. It
retires, in its order, once every named engine has passed it and the operations that those issued before it have performed; CTL is held
until then. Its turn has come when it heads the queue: of several entries at its position, a handler's words issued there stand before it. -/
def Claims.FencesHold : Prop :=
  (∀ s m, let e := s.core.turn.toNat
    e < 7 → s.core.trap.tl = false → clears s e (.fenceM m) →
    ∃ t, exec (.fenceM m) s = .next t ∧ wentNext s t e ∧ sameRegs s t ∧ onlyCtl s t ∧
      (e = 0 → t.core.ctl.fence = some (m, (s.core.engOf 0).pos) ∧
        ∃ r, t.core.ctl.retq = s.core.ctl.retq ++ [r] ∧ r.pos = (s.core.engOf 0).pos ∧ r.due = s.core.now + 1) ∧
      (e ≠ 0 → t.core.ctl.fence = s.core.ctl.fence)) ∧
  (∀ (s : State) (m : BitVec 7) q, s.core.ctl.fence = some (m, q) → let c := s.core
    let done : Prop := (∃ r l, c.ctl.retq = r :: l ∧ r.pos = q ∧ r.due ≤ c.now ∧ ∀ x ∈ l, x.pos ≠ q) ∧ c.ctl.lastRet < c.now ∧
      ∀ e, e < 7 → c.has e = true → m.getLsbD e = true →
        (e = 0 ∨ q < (c.engOf e).pos ∨ (c.engOf e).exited = true) ∧ ∀ p ∈ s.opsOf c e, q ≤ p
    (s.retireFence.core.ctl.fence = none ↔ done) ∧ (¬done → s.retireFence.core.ctl.retq = c.ctl.retq) ∧
    (done → s.retireFence.core.ctl.retq = c.ctl.retq.drop 1 ∧ s.retireFence.core.ctl.lastRet = c.now))

/-- R137, R138, R149, R150, Table 6-4: when every member of an instance has arrived, each gets the release cycle of the last arrival plus the
latency of the scope, and the members of a step continue together; at its continue cycle each engine goes on past the word. No STEP closes a
step that is to be cancelled (R327), and the report of the pod completes the instance that it names, at which a core stands (R139). -/
def Claims.BarriersRelease : Prop :=
  (∀ s b ms amax x, s.releaseAt = some (b, ms, amax) → s.ctx = some x →
    ∃ t, exec .cleatRelease s = .next t ∧ sameRegs s t ∧ sameBytes s t ∧ t.core.eng = s.core.eng ∧
      (s.core.id ∈ ms → ∃ rel c, (t.core.bar.bind fun y => y.rel) = some (rel, c) ∧
        (b.scope ≠ 5 → rel = amax + (if b.scope = 2 then 8 else if b.scope = 3 then 20 else 80)) ∧ (b.scope = 5 → amax + 80 ≤ rel) ∧
        (b.step = false → c = rel) ∧ (b.step = true → rel + 4 ≤ c))) ∧
  (∀ s, s.releaseAt = none → exec .cleatRelease s = .next s) ∧
  (∀ (s : State) b x k c y, s.core.bar = some b → b.step = true → s.ctx = some x → k ∈ x.members b.group → s.coreAt k = some c →
    c.step = some y → some y.1 ∈ x.cancels → s.releaseAt = none ∧ exec .cleatRelease s = .next s) ∧
  (let asks (s : State) (k : CtxId) (step : Bool) (id : BitVec 6) : Prop := ∃ c ∈ s.allCores, ∃ b, c.bar = some b ∧ b.scope = 5 ∧ b.rel = none ∧
     c.ctx = k ∧ b.step = step ∧ (if b.step then b.group else b.id.setWidth 6) = id ∧ (k, step, id) ∉ s.podDone
   (∀ s : State, s.podIn = [] → exec .podBarrierExchange s = .next s) ∧
   ∀ s k step id l, s.podIn = (k, step, id) :: l →
     (asks s k step id → exec .podBarrierExchange s = .next { s with podIn := l, podDone := s.podDone ++ [(k, step, id)] }) ∧
     (¬asks s k step id → exec .podBarrierExchange s = .next { s with podIn := l })) ∧
  (∀ s b rel cont, s.core.bar = some b → b.rel = some (rel, cont) → cont ≤ s.core.now →
    ∃ t, exec .stepContinue s = .next t ∧ t.core.bar = none ∧ sameRegs s t ∧ sameBytes s t ∧
      (∀ e, e < 7 → let x := s.core.engOf e
        (x.marked = true → (t.core.engOf e).pc = x.pc + 1 ∧ (t.core.engOf e).marked = false ∧ (t.core.engOf e).sched = cont - 1) ∧
        (x.marked = false → t.core.engOf e = x)) ∧
      t.core.spr.stepcnt = (if b.step then s.core.spr.stepcnt + 1 else s.core.spr.stepcnt) ∧
      (b.step = true → (b.counted = false → rel ≤ s.core.now → t.core.stepRel = rel) ∧ (b.counted = true → t.core.stepRel = s.core.stepRel) ∧
        (b.rs = true → t.core.ckpt.isSome = true) ∧ (b.rs = false → t.core.ckpt = none) ∧ t.core.step = some (b.group, b.rs, 0)))

/-- R137 to R139, R149 to R151: fences hold CTL, barriers release their members, steps continue. -/
def Obligations.FencesAndBarriers : Prop := Claims.FencesHold ∧ Claims.BarriersRelease

/-- R73, R33, R130, R135, R322: retirement in order with the outcome of a steering word going to every other engine that has not ended; the
deviation trap of the acting engine; the deadline's pending cause; the end of PMASK's effect. -/
def Obligations.ControlEvents : Prop :=
  (∀ s r, s.core.retireDue = some r → ∃ t, exec .ctlRetire s = .next t ∧ t.core.ctl.retq = s.core.ctl.retq.drop 1 ∧
    s.core.ctl.retq.head? = some r ∧ t.core.ctl.lastRet = s.core.now ∧ sameRegs s t ∧ onlyCtl s t ∧
    ∀ e, 1 ≤ e → e < 7 → (t.core.engOf e).outcomes = if s.core.has e && !(s.core.engOf e).exited then
      (s.core.engOf e).outcomes ++ r.outc.toList else (s.core.engOf e).outcomes) ∧
  (∀ s, let e := s.core.turn.toNat
    let v := BitVec.ofNat 64 (s.core.schedOf e % 2 ^ 48 + (s.core.engOf e).wait.toNat * 2 ^ 48)
    1 ≤ e → e < 7 → ∃ t, exec .deviationTrap s = .next t ∧ stopped s t e 0x0A (BitVec.ofNat 3 e) v) ∧
  (∀ s, let v := BitVec.ofNat 64 (s.core.schedOf 0 % 2 ^ 48 + (s.core.engOf 0).wait.toNat * 2 ^ 48)
    s.core.turn = 0 → s.core.trap.tl = false → ∃ t, exec .deviationTrap s = .next t ∧ tookTrap s t 0x0A v) ∧
  (∀ s, s.core.deadlineDue = true → ∃ t, exec .deadlineFault s = .next t ∧ t.core.late = true ∧ (∃ p ∈ t.core.trap.pend, p.cause = 0x0B) ∧
    sameRegs s t ∧ sameBytes s t) ∧
  (∀ s, s.core.maskDue = true →
    exec .pmaskTimeout s = .next { s with core := { s.core with trap := { s.core.trap with maskOut := true } } })

/-- R3, R31 to R38, R130: a step at which it is an engine's turn, at a word of its own or an ALL word, whose scheduled cycle has come, which
passes the decode checks and meets no wait, runs what the word decodes to; then the turn passes on. The fetch meets no poisoned word of
instruction SRAM: none is poisoned, or the engine came to the word in an earlier cycle. Where some word of the package is poisoned, the
registers and queues that the word reads and writes meet their marks as well (R351). -/
def Obligations.StepRunsDecodedWord : Prop :=
  ∀ s e i, standsAt s e → mayAct s e → decode (wordAt s e) = .ok i →
    (engField (wordAt s e)).toNat = e ∨ engField (wordAt s e) = 7 →
    (s.core.unscheduled e = true ∨ s.core.schedOf e ≤ s.core.now) → decodeFault s i = none → s.deviates e i = false →
    sharedWait s e i = none →
    (s.poison = [] → step s = thenTurn (exec i s)) ∧
    (s.poison ≠ [] → (s.core.engOf e).reached ≠ s.core.now → ∀ t, exec i s = .next t → step s = thenTurn (.next (t.regTouch s.core e i)))

/-! ### Chapters 9 to 11: the matrix engine -/

/-- R215 to R217, R219, R220, R225, R226, R237, R240, R250: the words that set a piece of the matrix engine's state at the end of their
issue cycle set it to what their operands say, and nothing else. -/
def Obligations.MatrixStateWords : Prop :=
  ∀ s a b d (l : BitVec 3) (r : BitVec 1) (ix : BitVec 4) (k : BitVec 2), let u := s.core.mtx
    let x := s.core.rd 1 a
    let y := s.core.rd 1 b
    let level (f : NestLevel → NestLevel) : MtxUnit := { u with nest := u.nest.setIfInBounds l.toNat (f (u.nest.getD l.toNat {})) }
    let rows : List (Instr × MtxUnit) := [
      (.mnest a b r l, level fun v => { v with count := x.setWidth 32, astr := y, drn := r == 1 }),
      (.mnestc a b l, level fun v => { v with bstr := x, cstr := y }),
      (.mbase d a b, { u with cbase := s.core.rd 1 d, abase := x, bbase := y }),
      (.mclra, { u with acc := [] }),
      (.mdropkKey a b, { u with key := #v[x.extractLsb' 0 32, x.extractLsb' 32 32, y.extractLsb' 0 32, y.extractLsb' 32 32] }),
      (.mdropkCtr a b, { u with cb := y ++ x }),
      (.mdropkThr a b, { u with thr := x.setWidth 32, ks := y.setWidth 32 }),
      (.mres a b r, { u with rcfg := if x = 0 ∧ y = 0 then none else some { base := x, pitch := y.setWidth 16, bf := r == 1 } }),
      (.mdrainAuto a r ix k, { u with dcfg := some { kind := k, idx := ix, shape := x, clr := r == 1 } }),
      (.mtexpSet a l, { u with texp := u.texp.setIfInBounds l.toNat (x.setWidth 8) })]
    (∀ p ∈ rows, clears s 1 p.1 → ∃ t, exec p.1 s = .next t ∧ t.core.mtx = p.2 ∧ wentNext s t 1 ∧ onlyMtx s t) ∧
    (clears s 1 (.mtexpAdd a l) →
      let v := (u.texp.getD l.toNat 0).toInt + (x.setWidth 8).toInt
      (-128 ≤ v → v ≤ 127 → ∃ t, exec (.mtexpAdd a l) s = .next t ∧
        t.core.mtx = { u with texp := u.texp.setIfInBounds l.toNat (BitVec.ofInt 8 v) } ∧ wentNext s t 1 ∧ onlyMtx s t) ∧
      (v < -128 ∨ 127 < v → ∃ t, exec (.mtexpAdd a l) s = .next t ∧
        stopped s t 1 5 1 (BitVec.ofNat 64 (6 * 16 + 2 * 2 ^ 48 + 0xFF * 2 ^ 56)))) ∧
    (clears s 1 (.mtwc a b r) → ∀ w, twcOf x y (r == 1) = some w →
      ∃ t, exec (.mtwc a b r) s = .next t ∧ t.core.mtx = { u with twc := some w } ∧ wentNext s t 1 ∧ onlyMtx s t) ∧
    (clears s 1 (.mgvcfg a b) → ∀ g, gvcOf x y = some g →
      ∃ t, exec (.mgvcfg a b) s = .next t ∧ t.core.mtx = { u with gvc := some g } ∧ wentNext s t 1 ∧ onlyMtx s t)

/-- R203, R204, R221 to R224, R230, R239, R240, Table 9-8: the words that move tiles issue when their operands pass their checks: their
row reads and row writes become due, one a cycle, with the bytes of the rows, and the unit is busy for their rows. No copy holds their
ranges back (R165). -/
def Claims.TileWordsIssue : Prop :=
  ∀ s, let c := s.core
    let u := c.mtx
    let op (n : Nat) (e : LocalEff) : LocalOp := { due := c.now + n, eng := 1, pos := (c.engOf 1).pos, eff := e }
    let busy (t : State) (n : Nat) : Prop := (t.core.engOf 1).freeAt = c.now + n ∧ wentNext s t 1 ∧ onlyMtx s t
    let row (f : Nat → Elem) (r : Nat) : List Byte := elemBytes ((List.range 128).map fun k => f (128 * r + k))
    let rowsClear (a n pitch len : Nat) : Prop := ∀ r, r < n → c.underCopy (a + r * pitch) len = false
    (∀ a b v m, clears s 1 (.mldt a b v m) → c.tileFault v (c.rd 1 a) (c.rd 1 b) = none →
      let sh := c.rd 1 b
      let n := tileRows v sh
      rowsClear (c.rd 1 a).toNat n (shPitch sh) 512 →
      let at_ (e : Nat) : Nat := (c.rd 1 a).toNat + e / 128 * shPitch sh + 4 * (e % 128)
      ∃ t, exec (.mldt a b v m) s = .next t ∧ busy t n ∧ t.core.fly = c.fly ++ (List.range n).map fun r =>
        op (2 + r) (.row ((List.range 128).map fun k => at_ (u.permOf v (128 * r + k))) m.toNat (512 * r))) ∧
    (∀ a b v m, clears s 1 (.mstt a b v m) → c.tileFault v (c.rd 1 a) (c.rd 1 b) = none → c.tileBusy m.toNat = false →
      let sh := c.rd 1 b
      let n := tileRows v sh
      rowsClear (c.rd 1 a).toNat n (shPitch sh) 512 →
      ∃ t, exec (.mstt a b v m) s = .next t ∧ busy t n ∧ t.core.fly = c.fly ++ (List.range n).map fun r =>
        op (2 + r) (.write false ((c.rd 1 a).toNat + r * shPitch sh) (row (fun e => u.tileAt m.toNat (u.permOf v e)) r))) ∧
    (∀ d a b x k m, clears s 1 (.mtrn d a b x k m) → c.trnFault (c.rd 1 d) (c.rd 1 a) (c.rd 1 b) k.toNat = none →
      let n := shRows (c.rd 1 b)
      rowsClear (c.rd 1 a).toNat n (shPitch (c.rd 1 b)) (trnSize k.toNat * shCols (c.rd 1 b)) →
      c.underCopy (c.rd 1 d).toNat ((n + 31) / 32 * 128 * trnBlock k.toNat) = false →
      ∃ t, exec (.mtrn d a b x k m) s = .next t ∧ busy t (n + 131) ∧
        t.core.fly = c.fly ++ (List.range n).map fun r => op (2 + r) (.trnRow r)) ∧
    (∀ r m, clears s 1 (.mact r m) →
      ∃ t, exec (.mact r m) s = .next t ∧ busy t 128 ∧ t.core.mtx.acc = (if r = 1 then [] else u.acc) ∧
        t.core.fly = c.fly ++ (List.range 128).map fun k => op (1 + k) (.tile m.toNat (512 * k) (row (Store.get 0 u.acc) k))) ∧
    (∀ d m v w, clears s 1 (.mdrev d m v) → u.twc = some w → c.tileBusy m.toNat = false →
      ∃ t, exec (.mdrev d m v) s = .next t ∧ busy t 130 ∧ t.core.fly = c.fly ++
        ((List.range 128).map fun r => op (2 + r) (.tile d.toNat (512 * r) (row (fun e => u.tileAt m.toNat (w.perm (v == 1) e)) r))) ++
        [op 129 (.texp d.toNat (u.texp.getD m.toNat 0))]) ∧
    (∀ d r, clears s 1 (.mchkr d r) → u.retireAt ≤ c.now → (c.rd 1 d).toNat % 32 = 0 → (c.rd 1 d).toNat + 32 ≤ c.size →
      c.underCopy (c.rd 1 d).toNat 32 = false →
      ∃ t, exec (.mchkr d r) s = .next t ∧ busy t 1 ∧ t.core.fly = c.fly ++ [op 2 (.write false (c.rd 1 d).toNat (toBytes 32 u.record))] ∧
        (r = 1 → t.core.mtx.passes = 0 ∧ t.core.mtx.stalls = 0 ∧ t.core.mtx.amax = 0 ∧ t.core.mtx.mism = false)) ∧
    (∀ a, clears s 1 (.mtexpSt a) → (c.rd 1 a).toNat % 8 = 0 → (c.rd 1 a).toNat + 8 ≤ c.size → c.underCopy (c.rd 1 a).toNat 8 = false →
      ∃ t, exec (.mtexpSt a) s = .next t ∧ busy t 1 ∧ t.core.fly = c.fly ++ [op 2 (.write false (c.rd 1 a).toNat u.texp.toList)])

/-- R189, R203, R204, R221, R233, R235: what the effects of the words of MTX do when they are due. A row that is read enters its tile in the
next cycle; bytes that enter a tile change its elements byte by byte; an exponent and the flags are set; a residual row joins those of the
running drain; a word that faults after its issue leaves MTX stopped at it. -/
def Claims.TileEffects : Prop :=
  ∀ (s : State) (o : LocalOp), let c := s.core
    let u := c.mtx
    let t := s.doLocal o
    (∀ keys m a, o.eff = .row keys m a → t = { s with core := { c with fly := c.fly ++ [{
      due := c.now + 1, eng := 1, pos := o.pos, eff := .tile m a (keys.flatMap fun k => (List.range 4).map fun b => c.scratch.byte (k + b)) }] } }) ∧
    (∀ m a bs, o.eff = .tile m a bs → a % 4 = 0 → t = { s with core := { c with mtx := { u with tile := t.core.mtx.tile } } } ∧
      ∀ k b, b < 4 → let p := 4 * k + b
        let base := 65536 * m + a
        (Store.get 0 t.core.mtx.tile k).extractLsb' (8 * b) 8 =
          if base ≤ p ∧ p < base + bs.length then bs.getD (p - base) 0 else (Store.get 0 u.tile k).extractLsb' (8 * b) 8) ∧
    (∀ m x, o.eff = .texp m x → t = { s with core := { c with mtx := { u with texp := u.texp.setIfInBounds m x } } }) ∧
    (∀ mx nan sat, o.eff = .mflags mx nan sat → t = { s with core := { c with mtx := { u with
      amax := if u.amax.toNat < mx.toNat then mx else u.amax, nan := u.nan || nan, sat := u.sat || sat } } }) ∧
    (∀ k n j, o.eff = .resid k n → u.job = some j → t = { s with core := { c with mtx := { u with
      job := some { j with rows := j.rows ++ [(List.range n).map fun b => c.scratch.byte (k + b)] } } } }) ∧
    (∀ cause ev, o.eff = .fault cause ev → o.eng = 1 → let x := c.engOf 1
      (t.core.engOf 1).stop = some { cause := cause, eng := 1, eval := ev, pc := x.lastPc, cycle := c.now, taken := false, waits := false } ∧
      (t.core.engOf 1).pc = x.lastPc ∧ (t.core.engOf 1).redo = true ∧ (t.core.engOf 1).lastCause = cause ∧
      (∀ n, n ≠ 1 → t.core.engOf n = c.engOf n) ∧ (∀ p, u.prog = some p → t.core.mtx.prog = some { p with held := true }) ∧
      (∀ p, u.gvp = some p → t.core.mtx.gvp = some { p with tok := p.start, st := {}, total := 0, orow := p.row, bad := false, held := true }) ∧
      t.core.mtx.acc = u.acc ∧ t.core.mtx.tile = u.tile ∧ t.core.handles = c.handles ∧ sameRegs s t ∧ sameBytes s t)

/-- R222: a row of MTRN that is read becomes a row of the tile, flushed, with +0 beyond its columns; with the last one the other rows of the
tile become +0, every block of 32 rows of a column is quantized and due at its cycle of Table 9-5, and the update of the flags at n + 135. -/
def Claims.TransposedBlocks : Prop :=
  ∀ (s : State) (o : LocalOp) i j, o.eff = .trnRow i → s.core.mtx.trn = some j → let c := s.core
    let t := s.doLocal o
    let n := shRows j.shape
    let z := if j.conv = 2 then 2 else 4
    let w := if j.conv = 0 then 8 else 16
    let bb := 4 * (w + 1)
    let at_ (k : Nat) : Nat := j.src + i * shPitch j.shape + z * k
    let src (k : Nat) : Elem :=
      if j.conv = 2 then bf16ToF32 (BitVec.ofNat 16 (c.scratch.readNat (at_ k) 2)) else BitVec.ofNat 32 (c.scratch.readNat (at_ k) 4)
    let row := (List.range (shCols j.shape)).map fun k => canon (flush j.cfg.ftzi (src k))
    let rows := j.rows ++ [row]
    let block (kb k : Nat) : Block := quantBlock ((List.range 32).map fun r => (rows.getD (32 * kb + r) []).getD k 0) w
    i < n →
    (∀ k, k < 128 → t.core.mtx.tileAt j.m (128 * i + k) = row.getD k 0) ∧
    (∀ r k, r < i → k < 128 → t.core.mtx.tileAt j.m (128 * r + k) = c.mtx.tileAt j.m (128 * r + k)) ∧ sameRegs s t ∧ sameBytes s t ∧
    (i + 1 < n → t.core.mtx.trn = some { j with rows := rows } ∧ t.core.fly = c.fly) ∧
    (i + 1 = n → t.core.mtx.trn = none ∧ (∀ r k, n ≤ r → r < 128 → k < 128 → t.core.mtx.tileAt j.m (128 * r + k) = 0) ∧
      ∃ mx nan sat, t.core.fly = c.fly ++ ((List.range ((n + 31) / 32)).flatMap fun kb => (List.range 128).map fun k =>
          { due := max c.now (j.start + n + 8 + k), eng := 1, pos := j.pos
            eff := .write false (j.dst + kb * 128 * bb + k * bb) ((block kb k).bytes w) }) ++
          [{ due := max c.now (j.start + n + 135), eng := 1, pos := j.pos, eff := .mflags mx nan sat }] ∧
        (mx, nan) = (if j.amx then amaxOf rows.flatten (0, false) else (0, false)) ∧
        (sat = true ↔ ∃ kb k, kb < (n + 31) / 32 ∧ k < 128 ∧ (block kb k).sat = true))

/-- R189, R203, R204, R221 to R224, R230, R239, R240, Table 9-8: the words that move tiles, and what their effects do when they are due. -/
def Obligations.TileMoves : Prop :=
  Claims.TileWordsIssue ∧ Claims.TileEffects ∧ Claims.TransposedBlocks ∧ Claims.ScratchWritesPerform

/-- R231 to R234, R238: MBFLY with a configured transform and a stage of it: the rows of the result become due at issue + 138 and after,
each element a scaled sum of twiddled inputs, or the input where no transform reaches. The shift is the word's own, or with AUTO the
least of 0 to 3 at which every output fits, 3 where none does. An exponent that would not fit is cause 0x05. -/
def Obligations.ButterflyStages : Prop :=
  ∀ s (d m : BitVec 3) (st : BitVec 4) (sh : BitVec 3) (w : Twc), let c := s.core
    let u := c.mtx
    let no := w.n * w.b
    let y (o : Nat) : Int × Int := w.sums st.toNat (u.tileAt m.toNat) o
    let fits (k : Nat) : Bool := (List.range no).all fun o => fits16 (scaleQ k (y o).1) && fits16 (scaleQ k (y o).2)
    let k : Nat := if sh.toNat ≤ 3 then sh.toNat else if fits 0 then 0 else if fits 1 then 1 else if fits 2 then 2 else 3
    let out (o : Nat) : Elem := if o < no then packCq (scaleQ k (y o).1) (scaleQ k (y o).2) else u.tileAt m.toNat o
    let x : Int := (u.texp.getD m.toNat 0).toInt + k
    let op (n : Nat) (e : LocalEff) : LocalOp := { due := c.now + n, eng := 1, pos := (c.engOf 1).pos, eff := e }
    clears s 1 (.mbfly d m st sh) → u.twc = some w → st.toNat < w.radix.length → c.tileBusy m.toNat = false →
    (x ≤ 127 →
      ∃ t, exec (.mbfly d m st sh) s = .next t ∧ (t.core.engOf 1).freeAt = c.now + 266 ∧ wentNext s t 1 ∧ onlyMtx s t ∧
        t.core.fly = c.fly ++ ((List.range 128).map fun r => op (138 + r) (.tile d.toNat (512 * r) (elemBytes ((List.range 128).map fun j => out (128 * r + j))))) ++
          [op 265 (.texp d.toNat (BitVec.ofInt 8 x)), op 265 (.mflags 0 false (!fits k))]) ∧
    (127 < x → ∃ t, exec (.mbfly d m st sh) s = .next t ∧
      t.core.fly = c.fly ++ [op 136 (.fault 5 (BitVec.ofNat 64 (6 * 16 + 2 * 2 ^ 48 + 0xFF * 2 ^ 56)))])

/-- R206 to R210, R213, R218, R219: an MGO issues with the head of FQ, which leaves at the end of the cycle, and its first pass is due at
issue + 4; a pass adds the term of its blocks to every accumulator, or stalls below a copy that issued before the MGO; a drain starts with
the address of its nest; MDRAIN starts one of its own, which reads its first residual row as it starts, the others being due. -/
def Claims.PassesAndDrainStarts : Prop :=
  (∀ s h (w : BitVec 6) cl r fw rest, clears s 1 (.mgo h w cl r) → s.core.mtx.prog = none → s.core.mtx.fq = fw :: rest →
    badFormat s.core.mtx fw = false → s.core.mgoFault fw = none →
    (w = 0 ∧ r = 0 ∨ s.core.handleFault h w.toNat = none ∧ w.toNat ≤ (s.core.hnd h).fill) →
    ∃ t, exec (.mgo h w cl r) s = .next t ∧ wentNext s t 1 ∧ sameRegs s t ∧ sameBytes s t ∧ t.core.eoc = s.core.eoc ++ [.fqPop] ∧
      t.core.mtx = { s.core.mtx with
        cfw := fw, acc := if cl = 1 then [] else s.core.mtx.acc
        prog := some { pass := 0, drain := none, h := h, w := w.toNat, rel := r == 1, at_ := s.core.now + 4, fin := none, held := false
                       cfg := (s.core.engOf 1).holds, bnd := false, start := s.core.now } }) ∧
  (∀ s p, s.core.progDue false = some p → let c := s.core
    let u := c.mtx
    let a := (u.passA p.pass).toNat
    let b := (u.passB p.pass).toNat
    let fa := fwAfmt u.cfw
    let fb := fwBfmt u.cfw
    let clear (at_ n : Nat) : Prop := (c.olderCopies p.start 1).underCopy at_ n = false
    clear a (128 * fmtBytes fa) → clear (wstackBase + b) (128 * fmtBytes fb) →
    ∃ t q, exec .mgoPass s = .next t ∧ t.core.mtx.prog = some q ∧ q.pass = p.pass + 1 ∧ q.drain = u.drainAfter p.pass ∧ sameRegs s t ∧
      sameBytes s t ∧ ∀ i j, i < 128 → j < 128 → Store.get 0 t.core.mtx.acc (128 * i + j) =
        flush p.cfg.ftzo (fadd 0 (Store.get 0 u.acc (128 * i + j)) (passTerm u.cfw p.cfg.ftzo
          (readBlock c.scratch (a + i * fmtBytes fa) fa) (readBlock c.wstack (b + j * fmtBytes fb) fb)))) ∧
  (∀ s p, s.core.progDue false = some p → s.core.passStalls p = true →
    exec .mgoPass s = .next { s with core := { s.core with mtx := { s.core.mtx with
      stalls := min (s.core.mtx.stalls + 1) 65535, prog := some { p with at_ := s.core.now + 1 } } } }) ∧
  (∀ s p d, s.core.progDue true = some p → s.core.mtx.dcfg = some d → (d.kind = 2 → (s.core.hnd d.idx).free ≠ 0) →
    (∀ x ∈ s.core.drainUses d.kind.toNat d.idx.toNat d.shape (p.drain.getD 0) (p.drain.getD 0 - s.core.mtx.cbase),
      (s.core.olderCopies p.start 1).underCopy x.1 x.2 = false) →
    ∃ t j, exec .autoDrain s = .next t ∧ t.core.mtx.job = some j ∧ j.kind = d.kind.toNat ∧ j.shape = d.shape ∧ j.start = s.core.now ∧ j.cfg = p.cfg ∧
      (d.kind ≠ 2 → j.addr = (p.drain.getD 0).toNat) ∧ sameRegs s t ∧ sameBytes s t) ∧
  (∀ s d a cl ix k, clears s 1 (.mdrain d a cl ix k) → s.core.mdrainFault (mdrainSet s.core d a ix k) = none →
    (k = 2 → (s.core.hnd ix).free ≠ 0) →
    (∀ x ∈ s.core.drainUses k.toNat ix.toNat (s.core.rd 1 a) (s.core.rd 1 d) 0, s.core.underCopy x.1 x.2 = false) →
    ∃ t j, exec (.mdrain d a cl ix k) s = .next t ∧ t.core.mtx.job = some j ∧ j.cfg = (s.core.engOf 1).holds ∧ j.kind = k.toNat ∧ j.shape = s.core.rd 1 a ∧ j.clr = (cl == 1) ∧
      (k ≠ 2 → j.addr = (s.core.rd 1 d).toNat) ∧ (t.core.engOf 1).freeAt = s.core.now + shRows (s.core.rd 1 a) ∧ wentNext s t 1 ∧ onlyMtx s t ∧
      j.start = s.core.now ∧ j.index = ix.toNat ∧ j.auto_ = false ∧
      (s.core.mtx.cfw.getLsbD 47 = false → j.rows = [] ∧ t.core.fly = s.core.fly) ∧
      (∀ g, s.core.mtx.cfw.getLsbD 47 = true → s.core.mtx.rcfg = some g → let z := (if g.bf then 2 else 4) * shCols (s.core.rd 1 a)
        j.rows = [(List.range z).map fun b => s.core.scratch.byte (g.base.toNat + b)] ∧
        t.core.fly = s.core.fly ++ (List.range (shRows (s.core.rd 1 a) - 1)).map fun i => {
          due := s.core.now + (i + 1), eng := 1, pos := (s.core.engOf 1).pos, eff := .resid (g.base.toNat + (i + 1) * g.pitch.toNat) z }))

/-- R193, R194, R211 to R213, Table 9-4: what a drain does at its commit, in the cycle in which its last row is read. Each element takes the
residual, the dropout, the bound and the conversion of R211 in this order. An element out of range under a trap action has the drain write
nothing and fault with cause 0x10 in the next cycle, the lowest such element in EVAL. Else the rows become due from the fifth cycle after on,
at the addresses of the drain's kind, a ring takes its commit with the last write, CLR clears the accumulators, DROP advances CB. The rows
read the accumulators as they stand at the commit: MTX writes none of them while a drain runs. A row image stands in the order of the
table. -/
def Claims.DrainsCommit : Prop :=
  ∀ (c : Core) (j : DrainJob), let u := c.mtx
    let fw := u.cfw
    let n := shRows j.shape
    let cols := shCols j.shape
    let fo := flush j.cfg.ftzo
    let sel := (fw.extractLsb' 44 3).toNat
    let bf := (u.rcfg.map RCfg.bf).getD false
    let residual (i k : Nat) : Elem :=
      let row := j.rows.getD i []
      if bf then bf16ToF32 (row.getD (2 * k + 1) 0 ++ row.getD (2 * k) 0)
      else row.getD (4 * k + 3) 0 ++ row.getD (4 * k + 2) 0 ++ row.getD (4 * k + 1) 0 ++ row.getD (4 * k) 0
    let v1 (i k : Nat) : Elem :=
      let v := Store.get 0 u.acc (128 * i + k)
      if fw.getLsbD 47 then fo (fadd 0 v (flush j.cfg.ftzi (residual i k))) else v
    let v2 (i k : Nat) : Elem :=
      if fw.getLsbD 48 then
        if (splice u.key (u.cb + BitVec.ofNat 128 (i * 65536 + k))).1.toNat < u.thr.toNat then 0 else fo (fmul 0 (v1 i k) u.ks)
      else v1 i k
    let res (i k : Nat) : BndRes := boundCheck (j.cfg.bnd.getD sel {}) (v2 i k)
    let out (i k : Nat) : Elem := (res i k).val
    let bad (i k : Nat) : Prop := i < n ∧ k < cols ∧ ∃ v, res i k = .trap v
    let block (i b : Nat) : Block := quantBlock ((List.range 32).map fun e => if 32 * b + e < cols then out i (32 * b + e) else 0) 8
    let image (i : Nat) : List Byte :=
      let xs := (List.range cols).map (out i)
      match (fw.extractLsb' 40 4).toNat with
      | 0 => xs.flatMap fun x => toBytes 4 x.toNat
      | 1 => xs.flatMap fun x => toBytes 2 ((fo (f32ToBf16 0 x ++ 0#16)).toNat / 2 ^ 16)
      | 2 => (List.range ((cols + 31) / 32)).flatMap fun b => (block i b).bytes 8
      | 3 => xs.map fun x => BitVec.ofInt 8 (f32ToInt 0 8 x).1
      | _ => xs.flatMap fun x => toBytes 4 (BitVec.ofInt 32 (f32ToInt 0 32 x).1).toNat
    let capped (i : Nat) : Prop := match (fw.extractLsb' 40 4).toNat with
      | 0 => False
      | 1 => False
      | 2 => ∃ b, b < (cols + 31) / 32 ∧ (block i b).sat = true
      | 3 => ∃ k, k < cols ∧ (f32ToInt 0 8 (out i k)).2 = true
      | _ => ∃ k, k < cols ∧ (f32ToInt 0 32 (out i k)).2 = true
    let op (d : Nat) (e : LocalEff) : LocalOp := { due := c.now + d, eng := 1, pos := j.pos, eff := e }
    let d := c.commitDrain j
    (u.job = some j → u.prog = none → c.mgoEnd = if j.start + n ≤ c.now + 1 then d else c) ∧
    (∀ i k, bad i k → (∀ i' k', bad i' k' → 128 * i + k ≤ 128 * i' + k') →
      d = { c with
        mtx := { u with job := none, prog := u.prog.map fun p => { p with held := true } }
        fly := c.fly ++ [op 1 (.fault 0x10 (BitVec.ofNat 64 ((v2 i k).toNat + (128 * i + k) * 2 ^ 32 + sel * 2 ^ 48)))] }) ∧
    ((∀ i k, ¬bad i k) →
      d = { c with mtx := d.mtx, fly := d.fly, trap := { c.trap with bnd := d.trap.bnd } } ∧ d.mtx.job = none ∧ d.mtx.tile = u.tile ∧ d.mtx.texp = u.texp ∧
      d.mtx.acc = (if j.clr then [] else u.acc) ∧ d.mtx.cb = (if fw.getLsbD 48 then u.cb + BitVec.ofNat 128 (2 ^ 23) else u.cb) ∧
      (d.mtx.sat = true ↔ u.sat = true ∨ ∃ i, i < n ∧ capped i) ∧
      d.fly = c.fly ++ ((List.range n).map fun i => op (5 + i)
        (if j.kind = 1 then .tile j.index (512 * i) (image i) else .write false (j.addr + i * shPitch j.shape) (image i))) ++
        (if j.kind = 2 then [op (4 + n) (.atEnd (.commit 1 (BitVec.ofNat 4 j.index) 1))] else []) ∧
      (d.trap.bnd = true ↔ c.trap.bnd = true ∨ j.auto_ = false ∧ ∃ i k v, i < n ∧ k < cols ∧ res i k = .flagged v) ∧
      (∀ p, u.prog = some p → j.auto_ = true → let last := p.pass = nestTotal u.nest.toList
        ∃ q, d.mtx.prog = some q ∧ q.drain = none ∧ q.at_ = c.now + 1 ∧ (last → q.fin = some c.now) ∧ (¬last → q.fin = none)))

/-- R193, R194, R206 to R213, R218, R219: the matrix passes, the drains, and what a drain writes. -/
def Obligations.MatrixPasses : Prop := Claims.PassesAndDrainStarts ∧ Claims.DrainsCommit

/-- R195, R186, R248, R251: FPUSH puts a format word at the tail of FQ, and at 16 entries is cause 0x0D; MGVR issues with the head of
FQ, and its chunks are parsed in turn, token by token up to the next multiple of four: the activations of a chunk are read in the next cycle,
and a malformed token faults then with cause 0x0F. -/
def Claims.FormatQueueAndMgvr : Prop :=
  (∀ s a, s.core.has 0 = true → s.core.has 1 = true → s.core.df a = false →
    (s.core.mtx.fq.length < 16 → ∃ t, exec (.fpush a) s = .next t ∧ t.core.eoc = s.core.eoc ++ [.fqPush (s.core.g a)] ∧ wentNext s t 0 ∧
      sameRegs s t ∧ onlyCtlEoc s t) ∧
    (16 ≤ s.core.mtx.fq.length → s.core.trap.tl = false → ∃ t, exec (.fpush a) s = .next t ∧ tookTrap s t 0x0D (s.core.g a))) ∧
  (∀ (c : Core) v, (c.applyEoc (.fqPush v)).mtx.fq = c.mtx.fq ++ [v] ∧ (c.applyEoc .fqPop).mtx.fq = c.mtx.fq.drop 1) ∧
  (∀ s h (w : BitVec 6) a (n : BitVec 7) r g fw rest, clears s 1 (.mgvr h w a n r) → s.core.mtx.gvp = none → s.core.mtx.gvc = some g →
    s.core.mtx.fq = fw :: rest → badGvFormat fw = false → gvFault s.core g (s.core.rd 1 a) (n.toNat + 1) = none →
    s.core.handleFault h w.toNat = none → w.toNat ≤ (s.core.hnd h).fill →
    let x := s.core.hnd h
    (∀ y ∈ gvUses g ((List.range w.toNat).map fun i => x.slotAt (x.cidx + i)) x.slot (s.core.rd 1 a).toNat (n.toNat + 1),
      s.core.underCopy y.1 y.2 = false) →
    ∃ t p, exec (.mgvr h w a n r) s = .next t ∧ t.core.mtx.gvp = some p ∧ p.out = (s.core.rd 1 a).toNat ∧ p.rows = n.toNat + 1 ∧
      p.tok = 0 ∧ p.at_ = s.core.now + 2 ∧ p.cfg = (s.core.engOf 1).holds ∧ t.core.mtx.cfw = fw ∧ t.core.eoc = s.core.eoc ++ [.fqPop] ∧ wentNext s t 1 ∧ sameRegs s t ∧ sameBytes s t) ∧
  (∀ s p g, s.core.chunkDue = some (p, g) → let r := s.core.gvTokens g (4 - p.tok % 4) (p, [], none)
    let op (e : LocalEff) : LocalOp := { due := s.core.now + 1, eng := 1, pos := (s.core.engOf 1).lastPos, eff := e }
    ∃ t, exec .mgvrChunk s = .next t ∧ t.core.mtx.gvp = some { r.1 with
        at_ := s.core.now + 1, bad := r.2.2.isSome, fin := if r.1.rows ≤ r.1.row then some (s.core.now + 4) else none } ∧
      p.tok ≤ r.1.tok ∧ r.1.tok ≤ p.tok + 4 ∧
      t.core.fly = s.core.fly ++ (if r.2.1 = [] then [] else [op (.acts r.2.1)]) ++ (match r.2.2 with
        | some ev => [op (.fault 0x0F ev)]
        | none => []) ∧ sameRegs s t ∧ sameBytes s t) ∧
  (∀ (c : Core) g n x, c.gvTokens g 0 x = x ∧ c.gvTokens g (n + 1) x = c.gvTokens g n (c.gvToken g x) ∧
    (x.2.2.isSome = true ∨ x.1.rows ≤ x.1.row → c.gvToken g x = x))

/-- R241 to R245, Tables 11-1 to 11-3: one token of a record. The first kind of Table 11-2 that applies, in the table's order, makes it
malformed, with its place, row, kind and value in EVAL; else a position asks for its activation with the weight of the open group, a value
opens a group, a boundary closes it, and the end of a row asks for the row's output and starts the next record. -/
def Claims.GroupedTokens : Prop :=
  ∀ (c : Core) (g : Gvc) (p : Gvp) (xs : List GvStep), p.row < p.rows →
    let r := c.gvToken g (p, xs, none)
    let ev (k n : Nat) : Dword := BitVec.ofNat 64 (p.tok % 2 ^ 24 + p.row * 2 ^ 24 + k * 2 ^ 32 + n * 2 ^ 48)
    let n := c.scratch.readNat (p.srcs.getD (2 * p.tok / p.slot) 0 + 2 * p.tok % p.slot) 2
    let st := p.st
    let isPos : Prop := n < 0x1000
    let isVal : Prop := 0x4000 ≤ n ∧ n < 0x4100
    let isEnd : Prop := n = 0xC000
    let kinds : List (Nat × Prop) := [
      (10, ¬(isPos ∨ isVal ∨ n = 0x8000 ∨ isEnd)), (1, isPos ∧ st.group = none), (7, isPos ∧ g.len ≤ n),
      (5, isPos ∧ ∃ v q, st.group = some (v, some q) ∧ n ≤ q), (6, isPos ∧ n ∈ st.seen), (3, n = 0x8000 ∧ st.group = none),
      (2, n = 0x8000 ∧ ∃ v, st.group = some (v, none)), (4, isVal ∧ st.group ≠ none), (8, isVal ∧ g.lim ≤ st.groups),
      (9, isEnd ∧ st.group ≠ none)]
    let inside := 2 * p.tok < p.slot * p.srcs.length
    let goes (q : Gvp) (ys : List GvStep) : Prop := r = ({ q with tok := p.tok + 1 }, xs ++ ys, none)
    (¬inside → r = (p, xs, some (ev 11 0))) ∧
    (∀ pre k cond post, kinds = pre ++ (k, cond) :: post → inside → cond → (∀ x ∈ pre, ¬x.2) → r = (p, xs, some (ev k n))) ∧
    (inside → (∀ x ∈ kinds, ¬x.2) →
      (isPos → ∀ v q, st.group = some (v, q) → goes { p with st := { st with group := some (v, some n), seen := n :: st.seen } }
        [.add v (g.abase.toNat + (if g.wide then 2 else 1) * n)]) ∧
      (isVal → goes { p with st := { st with group := some ((BitVec.ofNat 8 n).toInt, none), groups := st.groups + 1 } } []) ∧
      (n = 0x8000 → goes { p with st := { st with group := none } } []) ∧
      (isEnd → goes { p with st := {}, row := p.row + 1, start := p.tok + 1 } [.endRow]))

/-- R247: the activations that a chunk reads add their weighted sum to the total of the row, exactly; the end of a row rounds that total once,
or clamps it, and its four bytes are due at the place of the row in the output. -/
def Claims.GroupedSums : Prop :=
  ∀ (s : State) (o : LocalOp) (p : Gvp) (g : Gvc) (l : List (Int × Nat)) (xs ys : List GvStep), let c := s.core
    c.mtx.gvp = some p → c.mtx.gvc = some g →
    let act (a : Nat) : Int := if g.wide then (BitVec.ofNat 16 (c.scratch.readNat a 2)).toInt else (c.scratch.byte a).toInt
    let adds : List GvStep := l.map fun x => .add x.1 x.2
    let total : Int := p.total + (l.map fun x => x.1 * act x.2).sum
    let fw := c.mtx.cfw
    let byte (lo : Nat) : Nat := (fw.extractLsb' lo 8).toNat
    let small := (fw.extractLsb' 40 4).toNat = 4
    let y : Int := max (-2147483648) (min 2147483647 total)
    let out : Elem := if small then BitVec.ofInt 32 y
      else flush p.cfg.ftzo (roundRat 0 (decide (total < 0)) (total.natAbs * (256 + byte 8) * (256 + byte 24)) 1
        ((fw.extractLsb' 16 8).toInt + (fw.extractLsb' 32 8).toInt - 16))
    (o.eff = .acts adds → s.doLocal o = { s with core := { c with mtx := { c.mtx with gvp := some { p with total := total } } } }) ∧
    (o.eff = .acts (adds ++ [.endRow]) → s.doLocal o = { s with core := { c with
      mtx := { c.mtx with gvp := some { p with total := 0, orow := p.orow + 1, sat := p.sat || decide (small ∧ y ≠ total) } }
      fly := c.fly ++ [{ due := c.now + 3, eng := 1, pos := o.pos, eff := .write false (p.out + 4 * p.orow) (toBytes 4 out.toNat) }] } }) ∧
    (o.eff = .acts (xs ++ ys) → s.doLocal o = (s.doLocal { o with eff := .acts xs }).doLocal { o with eff := .acts ys })

/-- R186, R195, R241 to R245, R247, R248, R251: the format queue, MGVR, its tokens, and the sums that its rows get. -/
def Obligations.FormatQueueAndGroupedRows : Prop := Claims.FormatQueueAndMgvr ∧ Claims.GroupedTokens ∧ Claims.GroupedSums

/-! ### Chapter 12: the vector engine -/

/-- R255, R256, R263 to R269, R271 to R274, R277, Tables 12-3 to 12-5: an elementwise word gives each element of d, up to the shape, the
value of its row from the elements of its sources, and changes no other element of any register. -/
def Claims.VecElementwise : Prop :=
  ∀ s (d a b c : VReg) (i : BitVec 1) (cc : BitVec 3) (md : BitVec 2), shapeOk s.core →
    let u := s.core.vec
    let x := s.core.engOf 2
    let rm := x.mode.toNat % 4
    let fi := flush (x.mode.getLsbD 2)
    let fo := flush (x.mode.getLsbD 3)
    let A := u.el a
    let B := u.el b
    let C := u.el c
    let rows : List (Instr × List VReg × (Nat → Elem)) := [
      (.vadd d a b, [a, b], fun e => fo (fadd rm (fi (A e)) (fi (B e)))), (.vsub d a b, [a, b], fun e => fo (fsub rm (fi (A e)) (fi (B e)))),
      (.vmul d a b, [a, b], fun e => fo (fmul rm (fi (A e)) (fi (B e)))), (.vmin d a b, [a, b], fun e => fmin (fi (A e)) (fi (B e))),
      (.vmax d a b, [a, b], fun e => fmax (fi (A e)) (fi (B e))),
      (.viadd d a b, [a, b], fun (e : Nat) => (A e + B e : Elem)), (.visub d a b, [a, b], fun e => A e - B e), (.vimul d a b, [a, b], fun e => A e * B e),
      (.vand d a b, [a, b], fun e => A e &&& B e), (.vor d a b, [a, b], fun e => A e ||| B e), (.vxor d a b, [a, b], fun e => A e ^^^ B e),
      (.vshl d a b, [a, b], fun e => BitVec.shiftLeft (A e) ((B e).toNat % 32)), (.vshr d a b, [a, b], fun e => BitVec.sshiftRight (A e) ((B e).toNat % 32)),
      (.vfma d a b c, [a, b, c], fun e => fo (ffma rm (fi (A e)) (fi (B e)) (fi (C e)))),
      (.vneg d a, [a], fun e => canon (A e ^^^ 0x80000000)), (.vabs d a, [a], fun e => canon (A e &&& 0x7FFFFFFF)),
      (.vrcp d a, [a], fun e => fo (frcp (fi (A e)))), (.vrsq d a, [a], fun e => fo (frsq (fi (A e)))),
      (.vsqrt d a, [a], fun e => fo (fsqrt (fi (A e)))), (.vexp2 d a, [a], fun e => fo (fexp2 (fi (A e)))),
      (.vlog2 d a, [a], fun e => fo (flog2 (fi (A e)))), (.vsinp d a, [a], fun e => fo (fsinp (fi (A e)))), (.vfloor d a, [a], fun e => ffloor (A e)),
      (.vcmp d a b i cc, [a, b], fun e => BitVec.ofNat 32 (bit (if i = 1 then cmpInt cc.toNat (A e).toInt (B e).toInt else cmpFp cc.toNat (fi (A e)) (fi (B e))))),
      (.vsel d a b c i, [a, b, c], fun e => if i = 1 then (if C e ≠ 0 then A e else B e) else canon (fi (if C e ≠ 0 then A e else B e))),
      (.vbcast d a md, [a], fun e => A (if md = 0 then e / u.cols else if md = 1 then e % u.cols else 0)),
      (.viota d md, [], fun e => BitVec.ofNat 32 (if md = 0 then e else if md = 1 then e / u.cols else e % u.cols)),
      (.vperm d a b, [a, b], fun e => A ((B e).toNat % 1024)), (.vtrn d a, [a], fun e => A (e % u.rows * u.cols + e / u.rows))]
    ∀ p ∈ rows, clears s 2 p.1 → u.hazard s.core.now (d :: p.2.1) false = false →
      ∃ t, exec p.1 s = .next t ∧ vecWrote s t d (u.rows * u.cols) p.2.2 ∧ wentNext s t 2 ∧ onlyVec s t

/-- R270, Table 12-6: a reduction gives element k of d the reduction of row, column or whole k of the shape. -/
def Claims.VecReductions : Prop :=
  ∀ s (d a : VReg), shapeOk s.core →
    let u := s.core.vec
    let x := s.core.engOf 2
    let fi := flush (x.mode.getLsbD 2)
    let row (k : Nat) : List Elem := (List.range u.cols).map fun j => fi (u.el a (k * u.cols + j))
    let col (k : Nat) : List Elem := (List.range u.rows).map fun i => fi (u.el a (i * u.cols + k))
    let all (_ : Nat) : List Elem := (List.range (u.rows * u.cols)).map fun e => fi (u.el a e)
    let fo := flush (x.mode.getLsbD 3)
    let sum (l : List Elem) : Elem := fo (canon (sumTree (fun p q => fo (fadd 0 p q)) l))
    let rows : List (Instr × Nat × (Nat → Elem)) := [
      (.vredSumRow d a, u.rows, fun k => sum (row k)), (.vredMaxRow d a, u.rows, fun k => fo (foldMax (row k))), (.vredMinRow d a, u.rows, fun k => fo (foldMin (row k))),
      (.vredSumCol d a, u.cols, fun k => sum (col k)), (.vredMaxCol d a, u.cols, fun k => fo (foldMax (col k))), (.vredMinCol d a, u.cols, fun k => fo (foldMin (col k))),
      (.vredSumAll d a, 1, fun k => sum (all k)), (.vredMaxAll d a, 1, fun k => fo (foldMax (all k))), (.vredMinAll d a, 1, fun k => fo (foldMin (all k)))]
    ∀ p ∈ rows, clears s 2 p.1 → u.hazard s.core.now [d, a] false = false →
      ∃ t, exec p.1 s = .next t ∧ vecWrote s t d p.2.1 p.2.2 ∧ wentNext s t 2 ∧ onlyVec s t

/-- R255, R256, R263 to R274, R277: the elementwise words and the reductions of the vector engine. -/
def Obligations.VecLaneWords : Prop := Claims.VecElementwise ∧ Claims.VecReductions

/-- R198 to R201, R275 to R277: the conversions and the expression word give the elements of d their values and change no other
register; VPACK lays its narrow elements side by side, lowest first; an invalid slot is cause 0x01. -/
def Obligations.VecConversions : Prop :=
  ∀ s (d a : VReg) (x : BitVec 1) (o f : BitVec 3) (k : BitVec 2) (sl : BitVec 4), shapeOk s.core →
    let u := s.core.vec
    let m := s.core.engOf 2
    let n := u.rows * u.cols
    let q := u.slots.getD sl.toNat {}
    let inp (e j : Nat) : Elem := if slotSel q.bits j = 16 then intToF32 0 (e / u.cols : Nat)
      else if slotSel q.bits j = 17 then intToF32 0 (e % u.cols : Nat) else u.el (BitVec.ofNat 4 (slotSel q.bits j)) e
    (clears s 2 (.vcvt d a x o) → u.hazard s.core.now [d, a] false = false →
      ∃ t, exec (.vcvt d a x o) s = .next t ∧ vecWrote s t d n (fun e => (cvtElem m o.toNat (u.el a e)).1) ∧ wentNext s t 2 ∧ onlyVec s t) ∧
    (clears s 2 (.vunpk d a x k) → u.hazard s.core.now [d, a] false = false →
      let z := if k = 0 then 1 else 2
      let y (e : Nat) : Nat := (u.el a (z * e / 4)).toNat / 256 ^ (z * e % 4) % 256 ^ z
      ∃ t, exec (.vunpk d a x k) s = .next t ∧ wentNext s t 2 ∧ onlyVec s t ∧
        vecWrote s t d n (fun e => if k = 2 then BitVec.ofNat 32 (y e * 65536) else if x = 1 then BitVec.ofNat 32 (y e)
          else if k = 0 then (BitVec.ofNat 8 (y e)).signExtend 32 else (BitVec.ofNat 16 (y e)).signExtend 32)) ∧
    (clears s 2 (.vpack d a x k) → u.hazard s.core.now [d, a] false = false →
      let z := if k = 0 then 1 else 2
      ∃ t, exec (.vpack d a x k) s = .next t ∧ wentNext s t 2 ∧ onlyVec s t ∧ vecKeeps s t [d] ∧
        ∀ e, e < n → (t.core.vec.el d (z * e / 4)).toNat / 256 ^ (z * e % 4) % 256 ^ z = (packElem x k (u.el a e)).1) ∧
    (clears s 2 (.vqbx d a x f) → u.hazard s.core.now [d, a] false = false →
      let w := fmtW f.toNat
      ∃ t, exec (.vqbx d a x f) s = .next t ∧ wentNext s t 2 ∧ onlyVec s t ∧ vecKeeps s t [d] ∧
        ∀ r j, r < u.rows → j ≤ w → t.core.vec.el d (r * (w + 1) + j) =
          (elemsOf ((u.rowBlock (m.mode.getLsbD 2) a w r).bytes w) (w + 1)).getD j 0) ∧
    (clears s 2 (.vdqbx d a f) → u.hazard s.core.now [d, a] false = false →
      let w := fmtW f.toNat
      let str (i : Nat) : Nat := ((List.range w).map fun p => (u.el a (i * (w + 1) + 1 + p)).toNat * 2 ^ (32 * p)).sum
      let mant (e : Nat) : Int := (BitVec.ofNat w (str (e / u.cols) / 2 ^ (w * (e % u.cols)))).toInt
      let ex (e : Nat) : Nat := (u.el a (e / u.cols * (w + 1))).toNat % 256
      ∃ t, exec (.vdqbx d a f) s = .next t ∧ wentNext s t 2 ∧ onlyVec s t ∧
        vecWrote s t d n (fun e => flush (m.mode.getLsbD 3) (if ex e = 255 then 0x7FC00000
          else roundRat 0 (decide (mant e < 0)) (mant e).natAbs 1 ((ex e : Int) - 127 - ((w : Int) - 1))))) ∧
    (clears s 2 (.vexpr d sl) → u.hazard s.core.now (d :: (if q.valid then slotRegs q.bits else [])) false = false →
      (q.valid = true → ∃ t, exec (.vexpr d sl) s = .next t ∧ wentNext s t 2 ∧ onlyVec s t ∧ vecWrote s t d n (fun e => slotEval m q.bits (inp e))) ∧
      (q.valid = false → ∃ t, exec (.vexpr d sl) s = .next t ∧
        stopped s t 2 1 2 (BitVec.ofNat 64 ((encode (.vexpr d sl)).toNat + 4 * 2 ^ 32 + 2 * 2 ^ 36))))

/-- R254, R257, R260 to R262: VSHAPE sets the shape; VLDQ takes the elements of the shape from the head of a load queue; VSTQ sends them, after
their bound checks, towards a store queue, where they arrive when it completes; an element out of range under a trap action is cause 0x10. -/
def Obligations.VecQueues : Prop :=
  ∀ s, let u := s.core.vec
    let n := u.rows * u.cols
    (∀ c r, clears s 2 (.vshape c r) → ∃ t, exec (.vshape c r) s = .next t ∧ t.core.vec.rows = r.toNat + 1 ∧ t.core.vec.cols = c.toNat + 1 ∧
      vecKeeps s t [] ∧ wentNext s t 2 ∧ onlyVec s t) ∧
    (∀ d (b : BitVec 1) q, shapeOk s.core → clears s 2 (.vldq d b q) → u.hazard s.core.now [d] false = false →
      let z := if b = 1 then 2 else 4
      let bs := u.lq.getD q.toNat []
      z * n ≤ bs.length →
      ∃ t, exec (.vldq d b q) s = .next t ∧ wentNext s t 2 ∧ onlyVec s t ∧ t.core.vec.lq = u.lq.setIfInBounds q.toNat (bs.drop (z * n)) ∧
        vecWrote s t d n (fun e => if b = 1 then (bs.getD (2 * e + 1) 0) ++ (bs.getD (2 * e) 0) ++ 0#16
          else (bs.getD (4 * e + 3) 0) ++ (bs.getD (4 * e + 2) 0) ++ (bs.getD (4 * e + 1) 0) ++ (bs.getD (4 * e) 0))) ∧
    (∀ a bn (e b q : BitVec 1), shapeOk s.core → clears s 2 (.vstq a bn e b q) → u.hazard s.core.now [a] false = false →
      let z := if b = 1 then 2 else 4
      let rs := stqChecks s.core a bn e
      z * n ≤ u.room q.toNat →
      (firstTrap rs = none → ∃ t r, exec (.vstq a bn e b q) s = .next t ∧ wentNext s t 2 ∧ onlyVec s t ∧ vecKeeps s t [] ∧
        t.core.vec.retq = u.retq ++ [r] ∧ r.bnd = anyFlag rs ∧ r.due = s.core.now + (n + 63) / 64 + 7 ∧
        r.push = some (q == 1, rs.flatMap fun y => toBytes z (if b = 1 then y.val.toNat / 65536 else y.val.toNat))) ∧
      (∀ k v, firstTrap rs = some (k, v) → ∃ t, exec (.vstq a bn e b q) s = .next t ∧
        stopped s t 2 0x10 2 (BitVec.ofNat 64 (v.toNat + k * 2 ^ 32 + bn.toNat * 2 ^ 48))))

/-- R190, R202, R275, R276, R278 to R284, R252: the words that keep state of their own: slots, the deferral queue, splice's key and
counter, the running maximum, grouped records; and the retirement of a word, which alone changes the running maximum and its flags. -/
def Obligations.VecStateWords : Prop :=
  ∀ s, let u := s.core.vec
    let n := u.rows * u.cols
    (∀ x a b, let v : BitVec 128 := s.core.rd 2 b ++ s.core.rd 2 a
      clears s 2 (.vxdef x a b) →
      (slotOk v = true → ∃ t, exec (.vxdef x a b) s = .next t ∧ t.core.vec.slots = u.slots.setIfInBounds x.toNat { bits := v, valid := true } ∧
        vecKeeps s t [] ∧ wentNext s t 2 ∧ onlyVec s t) ∧
      (slotOk v = false → ∃ t, exec (.vxdef x a b) s = .next t ∧
        stopped s t 2 1 2 (BitVec.ofNat 64 ((encode (.vxdef x a b)).toNat + 4 * 2 ^ 32 + 2 * 2 ^ 36)))) ∧
    (∀ a b, let x := s.core.rd 2 a
      let y := s.core.rd 2 b
      (clears s 2 (.vrngkKey a b) → ∃ t, exec (.vrngkKey a b) s = .next t ∧ wentNext s t 2 ∧ onlyVec s t ∧ t.core.vec.ctr = u.ctr ∧
        t.core.vec.key = #v[x.extractLsb' 0 32, x.extractLsb' 32 32, y.extractLsb' 0 32, y.extractLsb' 32 32]) ∧
      (clears s 2 (.vrngkCtr a b) → ∃ t, exec (.vrngkCtr a b) s = .next t ∧ wentNext s t 2 ∧ onlyVec s t ∧ t.core.vec.key = u.key ∧
        t.core.vec.ctr = y ++ x) ∧
      (clears s 2 (.vrngkAdd a b) → ∃ t, exec (.vrngkAdd a b) s = .next t ∧ wentNext s t 2 ∧ onlyVec s t ∧ t.core.vec.key = u.key ∧
        t.core.vec.ctr = u.ctr + (y ++ x))) ∧
    (∀ d, clears s 2 (.vrngkSave d) → u.hazard s.core.now [d] false = false → ∃ t, exec (.vrngkSave d) s = .next t ∧ wentNext s t 2 ∧ onlyVec s t ∧
      vecWrote s t d 8 (fun e => if e < 4 then u.key.getD e 0 else u.ctr.extractLsb' (32 * (e - 4)) 32)) ∧
    (∀ d w, let draw (e : Nat) : Elem := (splice u.key (u.ctr + BitVec.ofNat 128 e)).1
      shapeOk s.core → clears s 2 (.vrng d w) → u.hazard s.core.now [d] false = false → ∃ t, exec (.vrng d w) s = .next t ∧ wentNext s t 2 ∧ onlyVec s t ∧
      t.core.vec.ctr = u.ctr + BitVec.ofNat 128 n ∧ vecWrote s t d n (fun e =>
        if w = 1 then roundRat 0 false ((draw e).toNat / 256) 1 (-24) else draw e)) ∧
    (∀ a b (k : BitVec 2), let uses := regRun b k.toNat
      let l := (List.range n).filter fun e => u.el a e != 0
      clears s 2 (.vdefer a b k) → u.hazard s.core.now (a :: uses) true = false →
      (u.dq.length + l.length ≤ 4096 → ∃ t, exec (.vdefer a b k) s = .next t ∧ wentNext s t 2 ∧ onlyVec s t ∧ vecKeeps s t [] ∧
        t.core.vec.dq = u.dq ++ l.map fun e => { coord := e, vals := uses.map fun r => u.el r e }) ∧
      (4096 < u.dq.length + l.length → ∃ t, exec (.vdefer a b k) s = .next t ∧
        stopped s t 2 0x17 2 (BitVec.ofNat 64 (u.dq.length + l.length * 2 ^ 13)))) ∧
    (∀ d a (k : BitVec 2), clears s 2 (.vdrain d a k) → u.hazard s.core.now (a :: regRun d k.toNat) true = false →
      ∃ t, exec (.vdrain d a k) s = .next t ∧ wentNext s t 2 ∧ onlyVec s t ∧ t.core.vec.dq = u.dq.drop (min 1024 u.dq.length) ∧
        vecKeeps s t (a :: regRun d k.toNat) ∧
        ∀ e, e < 1024 → t.core.vec.el a e = (if e < u.dq.length then BitVec.ofNat 32 ((u.dq.map DqEntry.coord).getD e 0) else 0xFFFFFFFF) ∧
          ∀ p, p ≤ k.toNat → t.core.vec.el (d + BitVec.ofNat 4 p) e = ((u.dq.map DqEntry.vals).getD e []).getD p 0) ∧
    (∀ d a b, clears s 2 (.vdret d a b) → u.hazard s.core.now [d, a, b] false = false → ∃ t, exec (.vdret d a b) s = .next t ∧ wentNext s t 2 ∧ onlyVec s t ∧
      vecKeeps s t [d] ∧ ∀ q, q < 1024 → ((∀ e, e < 1024 → (u.el b e).toNat ≠ q) → t.core.vec.el d q = u.el d q) ∧
        ∀ e, e < 1024 → (u.el b e).toNat = q → (∀ e', e < e' → e' < 1024 → (u.el b e').toNat ≠ q) → t.core.vec.el d q = u.el a e) ∧
    (∀ d a b c (l : BitVec 4), shapeOk s.core → clears s 2 (.vgrpc d a b c l) → u.hazard s.core.now [d, a, b, c] false = false →
      ∃ t, exec (.vgrpc d a b c l) s = .next t ∧ wentNext s t 2 ∧ onlyVec s t ∧ vecKeeps s t [d, b, c] ∧
        (∀ r, r < u.rows → t.core.vec.el c r = BitVec.ofNat 32 (((u.records a (l.toNat + 1)).take (r + 1)).flatten.length)) ∧
        ∀ e, e < 1024 →
          let tok (k : Nat) : Nat := (u.records a (l.toNat + 1)).flatten.getD k 0
          t.core.vec.el d e = BitVec.ofNat 32 (tok (2 * e) + 65536 * tok (2 * e + 1)) ∧
          t.core.vec.el b e = BitVec.ofNat 32 (tok (2048 + 2 * e) + 65536 * tok (2048 + 2 * e + 1))) ∧
    (clears s 2 .vamxr → ∃ t r, exec .vamxr s = .next t ∧ wentNext s t 2 ∧ onlyVec s t ∧ vecKeeps s t [] ∧ t.core.vec.retq = u.retq ++ [r] ∧
      r.reset = true ∧ t.core.vec.amax = u.amax) ∧
    (∀ r, s.core.vecDue = some r → ∃ t, exec .vecRetire s = .next t ∧ t.core.vec.retq = u.retq.drop 1 ∧ vecKeeps s t [] ∧ sameRegs s t ∧ sameBytes s t ∧
      t.core.vec.amax.toNat = (if r.reset then 0 else max u.amax.toNat r.mx.toNat) ∧ t.core.vec.nan = (!r.reset && (u.nan || r.nan)) ∧
      t.core.vec.sat = (!r.reset && (u.sat || r.sat)) ∧ t.core.trap.bnd = (s.core.trap.bnd || r.bnd))

/-! ### Chapter 7: the copy engine -/

/-- R156, R157, R159, R161, R169 to R176: the words of the copy engine. CGEO and CLAY set a level and a layout; CGO and CFILL start the copy
that their snapshot describes when its checks pass, or take the cause of the first that fails; CSCHED binds or unbinds a schedule; CADV
adds to the entries pending; CSTOP cancels the copies and page moves of its channels; CPAGE starts a page move, waits where a page of its
range is being moved already (R111), and is a parameter fault of kind 7 where a page finds no room. A busy channel waits. That the new
places of the pages are found at the issue of the word is the model's choice (log entry 31). -/
def Obligations.CopyWords : Prop :=
  ∀ s (d a b : GReg) (ch : BitVec 3), let c := s.core
    let h := c.ch ch.toNat
    let v (r : GReg) : Dword := c.rd 3 r
    (∀ l : BitVec 3, clears s 3 (.cgeo d a b l ch) → ∃ t, exec (.cgeo d a b l ch) s = .next t ∧ wentNext s t 3 ∧ onlyChan s t ∧
      chanIs s t ch.toNat { h with geo := h.geo.setIfInBounds l.toNat { count := (v d).setWidth 32, ss := v a, ds := v b } }) ∧
    (clears s 3 (.clay a b ch) → ∃ t, exec (.clay a b ch) s = .next t ∧ wentNext s t 3 ∧ onlyChan s t ∧
      chanIs s t ch.toNat { h with l0 := v a, l1 := v b }) ∧
    (∀ sg dg fill e, let i : Instr := if fill then .cfill d a b dg e ch else .cgo d a b sg dg e ch
      let x := h.snapOf (v d) (v a) e.toNat (!fill && sg == 1) (dg == 1) fill (c.engOf 3).pos (16 * c.now + 8)
      let check := s.copyCheck c ch.toNat 0 x h.sched.isSome (v b)
      clears s 3 i →
      (h.state = .busy → exec i s = waitAt s 3 0x0C) ∧
      (h.state ≠ .busy → ∀ cause ev, check = some (cause, ev) → ∃ t, exec i s = .next t ∧ stopped s t 3 cause 3 ev) ∧
      (h.state ≠ .busy → check = none → s.meetsBusy c x = false →
        let fixed := s.sideOnDie c x true && (fill || s.sideOnDie c x false)
        ∃ t y, exec i s = .next t ∧ wentNext s t 3 ∧ onlyChan s t ∧ (fixed = true → y.readAt = c.now + s.readOffset c x) ∧ c.now ≤ y.readAt ∧
          y = { x with fixed := fixed, readAt := y.readAt, exec := y.exec, turn := y.turn } ∧
          (fixed = false → y.exec = s.copyExec c x) ∧
          chanIs s t ch.toNat { h with state := .busy, status := v b, issued := true, begun := h.begun ++ [y], snap := some y })) ∧
    (let i := Instr.csched a b ch
      let n := (v b).toNat % 2 ^ 17
      clears s 3 i →
      (h.state = .busy → exec i s = waitAt s 3 0x0C) ∧
      (h.state ≠ .busy → v a = 0 → ∃ t, exec i s = .next t ∧ wentNext s t 3 ∧ onlyChan s t ∧ chanIs s t ch.toNat { h with sched := none, pendq := [], fetched := false, entry := [] }) ∧
      (h.state ≠ .busy → v a ≠ 0 → ∀ cause ev, s.tableCheck c ch.toNat (v a) n = some (cause, ev) → ∃ t, exec i s = .next t ∧ stopped s t 3 cause 3 ev) ∧
      (h.state ≠ .busy → v a ≠ 0 → s.tableCheck c ch.toNat (v a) n = none → ∃ t, exec i s = .next t ∧ wentNext s t 3 ∧ onlyChan s t ∧
        chanIs s t ch.toNat { h with sched := some { addr := v a, count := n, next := 0 }, pendq := [], fetched := false, entry := [] })) ∧
    (∀ (k : BitVec 5) (n : BitVec 13), let i := Instr.cadv k n
      let q := c.ch k.toNat
      clears s 3 i →
      (q.sched = none → ∃ t, exec i s = .next t ∧ stopped s t 3 5 3 (BitVec.ofNat 64 (k.toNat + 3 * 16 + 2 ^ 48 + 0xFF * 2 ^ 56))) ∧
      (q.sched ≠ none → 255 < q.pend + n.toNat → exec i s = waitAt s 3 0x0C) ∧
      (q.sched ≠ none → q.pend + n.toNat ≤ 255 → ∃ t, exec i s = .next t ∧ wentNext s t 3 ∧ onlyChan s t ∧
        chanIs s t k.toNat { q with
          pendq := q.pendq ++ List.replicate n.toNat (c.engOf 3).pos
          entryAt := if q.pend = 0 then max q.entryAt (c.now + 3) else q.entryAt })) ∧
    (∀ m : BitVec 8, clears s 3 (.cstop m) → ∃ t, exec (.cstop m) s = .next t ∧ wentNext s t 3 ∧ sameRegs s t ∧ sameBytes s t ∧
      t = { s with ctxs := t.ctxs, core := { s.core with chan := t.core.chan, eng := t.core.eng } } ∧
      ∀ k, k < 8 → let q := c.ch k
        t.core.ch k = if m.getLsbD k = true ∧ q.state = .busy then
          (if q.page.isSome then { q with state := .stopped, page := none, pendq := [], entryAt := c.now + 4 }
           else { q with snap := q.snap.map fun x => { x with stop := true } }) else q) ∧
    (∀ f : BitVec 1, let i := Instr.cpage d a b f ch
      let n := (v b).toNat % 2 ^ 13
      clears s 3 i →
      (h.state = .busy → exec i s = waitAt s 3 0x0C) ∧
      (h.state ≠ .busy → ∀ x cause ev, s.ctx = some x → s.pageCheck ch.toNat x (v d) (v a) n = .error (cause, ev) →
        ∃ t, exec i s = .next t ∧ stopped s t 3 cause 3 ev) ∧
      (h.state ≠ .busy → ∀ x e, s.ctx = some x → s.pageCheck ch.toNat x (v d) (v a) n = .ok e →
        let placed := s.setBusy x e (v a).toNat n (v d).toNat (f == 1)
        (x.busyAt (v a).toNat ((n - 1) * 2 ^ 21 + e.pageLen) = true → exec i s = waitAt s 3 6) ∧
        (x.busyAt (v a).toNat ((n - 1) * 2 ^ 21 + e.pageLen) = false →
          (placed = none → ∃ t, exec i s = .next t ∧
            stopped s t 3 5 3 (BitVec.ofNat 64 (ch.toNat + 7 * 16 + 2 ^ 48 + 0xFF * 2 ^ 56))) ∧
          ∀ y, placed = some y → ∃ t j, exec i s = .next t ∧ wentNext s t 3 ∧ sameRegs s t ∧ sameBytes s t ∧ t.ctx = some y ∧
            chanIs s t ch.toNat { h with state := .busy, issued := true, page := some j, wm := 0 } ∧
            j.pos = (c.engOf 3).pos ∧ j.addr = v a ∧ j.left = n ∧ c.now ≤ j.next)))

/-- R111, R161 to R166, R174 to R176, Table 7-7: what moves data and channels: elements of a fixed copy, one read a cycle each, with their writes
due at the offset of their memory; pieces of a variable copy, which set out and are written as they land; the end of a cancelled copy; the
status doubleword; the start of a schedule entry, which waits for a page that is being moved, its words kept once they have been fetched;
and a page that moves to its new home, or whose move ends with an error, which is logged (R352). That a piece is read as it sets out and written with its last beat is the model's
reading (log entry 30); what the log says of the error's unit, address and syndrome is open. That the entry after one that faults issues four
cycles later, and that an entry in local scratch is read as it issues, is the model's choice (log entry 102). -/
def Obligations.CopyEvents : Prop :=
  (∀ s (ch : BitVec 3) x, let c := s.core
    let h := c.ch ch.toNat
    h.readDue c.now = true → h.snap = some x →
    ∃ t, exec (.copyElement ch) s = .next t ∧ sameRegs s t ∧ sameBytes s t ∧
      chanIs s t ch.toNat { h with snap := some { x with nread := x.nread + 1, readAt := c.now + 1 } } ∧
      t.core.fly = c.fly ++ [{ due := c.now + (s.sideOffsets c x true).2, eng := 3, pos := x.pos,
                               eff := .copy ch.toNat x.dg (x.addr true x.nread) (s.elementBytes c x x.nread), seq := x.seq }] ∧
      t = { s with core := { s.core with chan := t.core.chan, fly := t.core.fly, cpyReads := c.cpyReads + 1 } }) ∧
  (∀ s (ch : BitVec 3) x, let c := s.core
    let h := c.ch ch.toNat
    h.asks = some x →
    ∃ t y fs f, exec (.copyPiece ch) s = .next t ∧ sameBytes s t ∧ sameRegs s t ∧
      (t.core.ch ch.toNat).snap = some y ∧ y.nread = x.nread + x.pieceLen ∧ y.nwrit = x.nwrit ∧
      t.flights = s.flights ++ fs ++ [f] ∧ (∀ g ∈ fs, g.cargo = .beat) ∧ f.core = c.id ∧ s.clock < f.due ∧
      f.cargo = .piece ch.toNat x.dg (s.pieceBytes c x x.nread x.pieceLen)) ∧
  (∀ (s : State) (f : Flight) ch g ws, ch < 8 → f.core = s.core.id → let t := s.landPiece f ch g ws
    let u := ws.foldl (fun (t : State) p => t.copyWrite t.core g p.1 p.2) s
    (s.onDieNow s.core g ws = true → t = { s with core := { s.core with fly := s.core.fly ++ ws.map fun p =>
      { due := s.core.now, eng := 3, pos := f.pos, seq := f.seq, eff := .copy ch g p.1 p.2 } } }) ∧
    (s.onDieNow s.core g ws = false → sameBytes u t ∧ sameRegs s t ∧
      (t.core.ch ch).snap = (s.core.ch ch).snap.map fun x => { x with nwrit := x.nwrit + ws.length })) ∧
  (∀ (s : State) (o : LocalOp) ch g a bs, ch < 8 → o.eff = .copy ch g a bs → let t := s.doLocal o
    sameBytes (s.copyWrite s.core g a bs) t ∧ sameRegs s t ∧
      (t.core.ch ch).snap = (s.core.ch ch).snap.map fun x => { x with nwrit := x.nwrit + 1 }) ∧
  (∀ s ch x, let h := s.core.ch ch
    s.core.stopDone = some ch → h.snap = some x →
    ∃ t, exec .copyStopComplete s = .next t ∧ sameRegs s t ∧ sameBytes s t ∧
      chanIs s t ch { h with state := .stopped, wm := h.wmNow, snap := none, pendq := [], entryAt := s.core.now + 4 }) ∧
  (∀ s ch, let h := s.core.ch ch
    let v := BitVec.ofNat 64 (h.wmNow % 2 ^ 40 + h.state.code * 2 ^ 40 + h.cause.toNat * 2 ^ 48 + h.pend * 2 ^ 56)
    s.core.statusDue = some ch →
    ∃ t, exec .copyStatusWrite s = .next t ∧ sameRegs s t ∧ sameBytes s t ∧ chanIs s t ch { h with issued := false, shown := h.shownNow } ∧
      (h.status = 0 → t.core.fly = s.core.fly) ∧
      (h.status ≠ 0 → ∃ o, t.core.fly = s.core.fly ++ [o] ∧ o.due = s.core.now + 1 ∧ o.eff = .status h.status.toNat v)) ∧
  (∀ s ch b, let c := s.core
    let h := c.ch ch
    let word (k : Nat) : Dword := if h.entry = [] then BitVec.ofNat 64 (ofBytes (s.copyRead c false (b.addr.toNat + 32 * b.next + 8 * k) 8))
      else h.entry.getD k 0
    let e := entrySnap h (word 0) (word 1) (word 2) (h.pendq.headD (c.engOf 3).lastPos) (16 * c.now + ch) (c.die == .gx)
    let taken : Channel := { h with pendq := h.pendq.drop 1, fetched := false, entry := [], sched := some { b with next := (b.next + 1) % b.count } }
    let far := isTranslated b.addr.toNat
    let fails (cause : Byte) : Prop := ∃ t, exec .scheduleEntryStart s = .next t ∧ sameRegs s t ∧ sameBytes s t ∧
      (∃ p ∈ t.core.trap.pend, p.cause = cause) ∧ chanIs s t ch { taken with state := .fault, cause := cause, entryAt := c.now + 4 }
    c.entryDue = some ch → h.sched = some b → (h.entry = [] ∨ h.entry.length = 4) →
    let moving : Prop := ∃ y, s.ctx = some y ∧ y.busyAt (b.addr.toNat + 32 * b.next) 32 = true
    (far = true → h.fetched = false → moving → ∃ t, exec .scheduleEntryStart s = .next t ∧ onlyChan s t ∧
      chanIs s t ch { h with entryAt := c.now + 1 }) ∧
    (far = true → h.fetched = false → ¬moving → ∃ t n, exec .scheduleEntryStart s = .next t ∧ onlyChan s t ∧ c.now < n ∧
      chanIs s t ch { h with fetched := true, entryAt := n }) ∧
    (far = false ∨ h.fetched = true →
      (e = none → fails 5) ∧
      (∀ x cause ev, e = some x → s.copyCheck c ch b.next x false (word 3) = some (cause, ev) → fails cause) ∧
      (∀ x, e = some x → s.copyCheck c ch b.next x false (word 3) = none →
        (s.meetsBusy c x = true → ∃ t, exec .scheduleEntryStart s = .next t ∧ onlyChan s t ∧
          chanIs s t ch { h with entryAt := c.now + 1, entry := if far then (List.range 4).map word else [] }) ∧
        (s.meetsBusy c x = false → ∃ t y, exec .scheduleEntryStart s = .next t ∧ onlyChan s t ∧
          chanIs s t ch { taken with state := .busy, status := word 3, issued := true, begun := h.begun ++ [y], snap := some y } ∧
          y = { x with fixed := y.fixed, readAt := y.readAt, exec := y.exec, turn := y.turn } ∧ c.now ≤ y.readAt)))) ∧
  (∀ s (ch : BitVec 3) j x e, s.ctx = some x → (s.core.ch ch.toNat).page = some j → x.entryAt j.addr.toNat = some e →
    let moved := x.pages.find? fun p => p.busy && j.covers 1 p
    let cap := if e.cls = 0 then 2 ^ 29 else if e.cls = 1 then 2 ^ 37 else 3 * 2 ^ 38
    let m : MemName := if e.cls = 0 then .stage else .hbm
    ∃ t, exec (.pageMove ch false) s = .next t ∧ sameRegs s t ∧
      (∃ q, chanIs s t ch.toNat q ∧ (j.left ≤ 1 → q.state = .idle ∧ q.page = none) ∧
        (1 < j.left → ∃ n, q.page = some { j with addr := j.addr + 0x200000, left := j.left - 1, next := n })) ∧
      (moved = none → sameBytes s t) ∧
      (∀ p home off pool, moved = some p → p.to_ = some (home, off, pool) →
        (∀ k, k < e.pageLen → t.byteOf m (cap * home + off + k) = s.byteOf m (cap * p.home + p.off + k)) ∧
        sameBytesBut s t m (cap * home + off) e.pageLen ∧
        ∃ y, t.ctx = some y ∧ ∀ q, q ∈ y.pages ↔
          q = { page := p.page, home := home, off := off, busy := false, pool := pool, room := p.toRoom } ∨ q ∈ x.pages ∧ q.page ≠ p.page)) ∧
  (∀ s (ch : BitVec 3) j x e, s.ctx = some x → (s.core.ch ch.toNat).page = some j → x.entryAt j.addr.toNat = some e →
    ∃ t, exec (.pageMove ch true) s = .next t ∧ sameRegs s t ∧ sameBytes s t ∧ (∃ p ∈ t.core.trap.pend, p.cause = 5) ∧
      (t.core.ch ch.toNat).state = .fault ∧ (t.core.ch ch.toNat).page = none ∧
      (∃ y, t.ctx = some y ∧ ∀ p ∈ y.pages, j.covers j.left p = true → p.busy = false) ∧
      ((∃ b ∈ List.range 8, s.bfGood b = true) → ∃ bf, ∃ r ∈ (t.host.log bf).recs, (r.kind = 2 ∨ r.kind = 6) ∧ r.ctx = s.core.ctx ∧ r.time = s.clock))

/-! ### Chapter 13: the link engine -/

/-- R287 to R289, R294, R295: LPUSH sends the filled slot of its handle to the core that its descriptor names: within the die at
once, else by its link in its slots; a failed check is the cause of R294, or of R295 for the slot-table kinds 5 and 6. LSLOT and LSLOT.REL see
what the words of the cycle before them claim and release, and change the claims of the context at the end of the cycle, as State.wrapped
gives it. -/
def Obligations.PushesAndSlots : Prop :=
  ∀ s (a : GReg), let c := s.core
    let v := c.rd 4 a
    (∀ h (w : BitVec 6) (r : BitVec 1), let i := Instr.lpush h w a r
      let nb := v.toNat / 2 ^ 23 % 64 + 1
      let base := (c.hnd h).slotAt (c.hnd h).cidx
      clears s 4 i → c.handleFault h w.toNat = none → w.toNat ≤ (c.hnd h).fill →
      (∀ cause ev, s.pushCheck h v = .error (cause, ev) → ∃ t, exec i s = .next t ∧ stopped s t 4 cause 4 ev) ∧
      (∀ e at_, s.pushCheck h v = .ok (e, at_) → c.underCopy base (64 * nb) = false →
        ∃ t, exec i s = .next t ∧ wentNext s t 4 ∧ onlyLnk s t ∧
          (r = 0 → t.core.eoc = c.eoc) ∧
          (r = 1 → t.core.eoc = c.eoc ++ [.release 4 h 1] ∨ ∃ o ∈ t.core.fly, o.eff = .atEnd (.release 4 h 1)) ∧
          (e.hops = [] → t.core.lnk = c.lnk ∧ ∃ f, t.flights = s.flights ++ [f] ∧ f.hops = [] ∧ f.due = s.clock + 10 + (nb - 1) / 6 ∧
            f.core = c.id ∧ f.cargo = .push e.dst e.handle (c.scratch.readBytes base (64 * nb))) ∧
          (e.hops ≠ [] → t.flights = s.flights ∧ ∃ p, t.core.lnk.sends = c.lnk.sends ++ [p] ∧ p.dst = e.dst ∧ p.dh = e.handle ∧
            p.nb = nb ∧ p.gone = 0 ∧ p.slot = v.toNat % 512 ∧ p.start = at_))) ∧
    (∀ x, let q := slotEntry c.site v
      let after (t : State) (y : Context) (e : CycleEff) : Prop := wentNext s t 4 ∧ sameRegs s t ∧ sameBytes s t ∧
        t = { s with atWrap := s.atWrap ++ [e], core := { s.core with eng := t.core.eng } } ∧
        t.wrapped.ctxOf x.id = some y ∧ ∀ k, k ≠ x.id → t.wrapped.ctxOf k = s.wrapped.ctxOf k
      let fails (t : State) : Prop := stopped s t 4 5 4 (BitVec.ofNat 64 (6 * 16 + 3 * 2 ^ 48 + 0xFF * 2 ^ 56))
      s.wrapped.ctx = some x → slotEntryOk c.site v = true →
      (clears s 4 (.lslot a) →
        (s.wrapped.claims.any q.meets = true → ∃ t, exec (.lslot a) s = .next t ∧ fails t) ∧
        (s.wrapped.claims.any q.meets = false → ∃ t, exec (.lslot a) s = .next t ∧ after t { x with claims := x.claims ++ [q] } (.claim x.id q))) ∧
      (clears s 4 (.lslotRel a) →
        (x.holdsSlots q = false → ∃ t, exec (.lslotRel a) s = .next t ∧ fails t) ∧
        (x.holdsSlots q = true → ∃ t, exec (.lslotRel a) s = .next t ∧
          after t { x with claims := x.claims.flatMap fun p => p.without q } (.unclaim x.id q)))) ∧
    (slotEntryOk c.site v = false → ∀ i ∈ [Instr.lslot a, .lslotRel a], clears s 4 i →
      ∃ t, exec i s = .next t ∧ stopped s t 4 5 4 (BitVec.ofNat 64 (5 * 16 + 3 * 2 ^ 48 + 0xFF * 2 ^ 56)))

/-- R296, R297, R299 to R303: a verb whose operands pass their checks enters the pod queue, with what its answer will do, and its requests of
up to 256 bytes, none across a 256-byte boundary, set out for the CL die; LPUT's bytes are read from
local scratch 64 a cycle from issue + 2 on; a remote range that fails its check is the cause of R299; LWSIG and LQUIET hold LNK. -/
def Obligations.RemoteVerbs : Prop :=
  ∀ s (d a b : GReg), let c := s.core
    let v (r : GReg) : Dword := c.rd 4 r
    let room := (c.lnk.podq.filter fun p => p.eng == 4).length < 64
    let asks (t : State) (pkg : BitVec 13) (n : Nat) : Prop := ∃ fs, t.flights = s.flights ++ fs ∧ fs.length = n ∧
      ∀ f ∈ fs, f.cargo = .hawser pkg (clSite pkg.toNat) ∧ f.core = c.id ∧ f.eng = 4
    (∀ put : Bool, let i : Instr := if put then .lput d a b else .lget d a b
      let len := (v b).toNat % 2 ^ 17
      let remote := if put then v d else v a
      let loc := (if put then v a else v d).toNat
      clears s 4 i →
      (len = 0 ∨ 65536 < len ∨ len % 8 ≠ 0 → ∃ t, exec i s = .next t ∧ stopped s t 4 5 4 (BitVec.ofNat 64 (4 * 16 + 3 * 2 ^ 48 + 0xFF * 2 ^ 56))) ∧
      (0 < len → len ≤ 65536 → len % 8 = 0 → (v d).toNat % 8 = 0 → (v a).toNat % 8 = 0 → loc + len ≤ c.size →
        (∀ cause ev, s.remoteCheck remote len (if put then 2 else 1) = .error (cause, ev) → ∃ t, exec i s = .next t ∧ stopped s t 4 cause 4 ev) ∧
        (∀ pkg, s.remoteCheck remote len (if put then 2 else 1) = .ok pkg → c.underCopy loc len = false → room →
          ∃ t, exec i s = .next t ∧ wentNext s t 4 ∧ onlyLnk s t ∧ asks t pkg ((remote.toNat % 256 + len + 255) / 256) ∧
            enters s t 4 pkg remote (if put then .put len [] else .get loc len) ∧
            t.core.fly = if put then c.fly ++ (List.range ((len + 63) / 64)).map fun j => (
              { due := c.now + 2 + j, eng := 4, pos := (c.engOf 4).pos, eff := .podData (loc + 64 * j) (min 64 (len - 64 * j)) } : LocalOp) else c.fly))) ∧
    (∀ pkg, clears s 4 (.lsig a b) → (v a).toNat % 8 = 0 → s.remoteCheck (v a) 8 3 = .ok pkg → room →
      ∃ t, exec (.lsig a b) s = .next t ∧ wentNext s t 4 ∧ onlyLnk s t ∧ asks t pkg 1 ∧ enters s t 4 pkg (v a) (.signal (v b)) ∧ t.core.fly = c.fly) ∧
    (∀ w : BitVec 1, let n := if w = 1 then 8 else 4
      let rows : List (Instr × BitVec 3) := [(.laadd d a b w, 0), (.laswp d a b w, 1), (.lacas d a b w, 2), (.lamin d a b w, 3),
        (.lamax d a b w, 4), (.laand d a b w, 5), (.laor d a b w, 6), (.laxor d a b w, 7)]
      ∀ p ∈ rows, ∀ pkg, clears s 4 p.1 → (v d).toNat % n = 0 → (v a).toNat % n = 0 → (v d).toNat + n ≤ c.size →
        s.remoteCheck (v a) n 3 = .ok pkg → c.underCopy (v d).toNat n = false → room →
        ∃ t, exec p.1 s = .next t ∧ wentNext s t 4 ∧ onlyLnk s t ∧ asks t pkg 1 ∧ enters s t 4 pkg (v a) (.atomic p.2 (w == 1) (v d).toNat (v b) 0) ∧
          t.core.fly = if p.2 = 2 then c.fly ++ [{ due := c.now + 2, eng := 4, pos := (c.engOf 4).pos, eff := .podData (v d).toNat n }] else c.fly) ∧
    (∀ (i : BitVec 13) x, let y := v a + i.signExtend 64
      clears s 4 (.lwsig d a i) → waitAccess s y = .ok x → (∀ run : Out, accessWaits s 4 x 8 run = run) →
      ∃ t w, exec (.lwsig d a i) s = .next t ∧ t.core.lnk.wsig = some w ∧ w.addr = y ∧ w.val = v d ∧ c.now < w.next ∧ onlyLnk s t ∧
        (t.core.engOf 4).held = true ∧ wentNext s t 4) ∧
    (clears s 4 .lquiet → ∃ t, exec .lquiet s = .next t ∧ t.core.lnk = { c.lnk with quiet := some c.lnk.next } ∧ onlyLnk s t ∧
      (t.core.engOf 4).held = true ∧ wentNext s t 4)

/-- R289, R290, R297, R298, R111, R328, R330: a push leaves beat by beat; as it lands, its bytes perform in that cycle as an effect of its
consumer, whose ring takes them at the cycle's end (on a halted die both come at the end); an answer from another package
does what its operation asks for, its data written in the turn of LNK among the effects of the core's cycle (R140) or at once where the
core's cycles stand, or makes its failure pending and marks the register of a load; a request of another package performs
under the key of a resident context and is answered, waits while its page is moved, or is answered with an error where it reads a word
that could not be corrected; an atomic or a signal tells the cores that wait on its word; a revoked key is held by nobody. That a load's
answer clears no mark is the model's reading (log entry 68); that the slot is written as the push lands, in a full ring too, since a release
of the cycle may still make room, and given back where the ring overruns after all, is its reading too (log entry 94). -/
def Obligations.FabricEvents : Prop :=
  (∀ s p, s.core.departDue = some p → let rest := s.core.lnk.sends.filter fun q => q.pos != p.pos
    ∃ t, exec .pushBeatDepart s = .next t ∧ sameRegs s t ∧ sameBytes s t ∧
      (p.gone + 1 < p.nb → t.core.lnk.sends = { p with gone := p.gone + 1 } :: rest ∧ t.flights = s.flights) ∧
      (p.nb ≤ p.gone + 1 → t.core.lnk.sends = rest ∧ ∃ f, t.flights = s.flights ++ [f] ∧ f.cargo = .push p.dst p.dh p.got ∧ f.core = s.core.id ∧ f.owned = true)) ∧
  (∀ s f r dst h bs, s.landing = some (f, r) → f.cargo = .push dst h bs →
    ∃ t, exec .pushLanding s = .next t ∧ t.flights = r ∧
      (f.bad = false → t.coreAt dst = (s.coreAt dst).map fun c =>
        if c.halted then c.atEnd (.arrive f.core h bs none)
        else { c with fly := c.fly ++ [{ due := c.now, eng := 4, pos := 0, eff := .arrive f.core h bs }] }) ∧
      (f.bad = true → ∀ c, t.coreAt dst = some c → c.err.isSome = true)) ∧
  (∀ (s : State) (o : LocalOp) k h bs, o.eff = .arrive k h bs → let x := s.core.hnd h
    let t := s.doLocal o
    (∀ y ∈ s.core.eoc, ∀ n g us old, y ≠ .arrive n g us old) →
    (x.defined = true → bs.length ≤ x.slot → sameRegs s t ∧ sameBytesBut s t .scratch (x.slotAt x.pidx) bs.length ∧
      (∀ j, j < bs.length → t.byteOf .scratch (x.slotAt x.pidx + j) = bs.getD j 0) ∧
      ∃ was, t.core.eoc = s.core.eoc ++ [.arrive k h bs (some (x.slotAt x.pidx, was))] ∧ was.length = bs.length ∧
        ∀ j, j < bs.length → was.getD j 0 = s.byteOf .scratch (x.slotAt x.pidx + j)) ∧
    (x.defined = false ∨ x.slot < bs.length → t = { s with core := s.core.atEnd (.arrive k h bs none) })) ∧
  (∀ s p pkg (ans : PodAns), s.saved = [] → (s.core.lnk.podq.find? fun q => q.pkg == pkg) = some p →
    let put (t : State) (a : Nat) (l : List Byte) : Prop := sameRegs s t ∧
      (s.runsCycle s.core = true → sameBytes s t ∧
        t.core.fly = s.core.fly ++ [{ due := s.core.now, eng := 4, pos := p.pos, eff := .write false a l }]) ∧
      (s.runsCycle s.core = false → sameBytesBut s t .scratch a l.length ∧ ∀ k, k < l.length → t.byteOf .scratch (a + k) = l.getD k 0)
    ∃ t, exec (.podAnswer s.core.id pkg ans) s = .next t ∧
      (∀ q ∈ t.core.lnk.podq, q.num = p.num → q.off = p.off + p.part ∧ q.off < p.kind.bytes) ∧
      (∀ bs dst len, ans = .ok bs → p.kind = .get dst len → put t (dst + p.off) (bs.take p.part)) ∧
      (∀ bs d tag, ans = .ok bs → p.kind = .load d tag → d ≠ 0 → (d, tag) ∈ s.core.ctl.pend →
        tookAnswer s t d (BitVec.ofNat 64 (ofBytes (bs.take 8))) ∧ sameBytes s t) ∧
      (∀ bs o w dst x y, ans = .ok bs → p.kind = .atomic o w dst x y → put t dst (bs.take (if w then 8 else 4))) ∧
      (∀ bs, ans = .ok bs → (∃ n b, p.kind = .put n b) ∨ (∃ v, p.kind = .signal v) → sameRegs s t ∧ sameBytes s t) ∧
      (∀ z ∈ [(PodAns.fenced, (0x15 : Byte)), (.remoteError, 0x16)], ans = z.1 → sameBytes s t ∧
        (p.failed = false → ∃ q ∈ t.core.trap.pend, q.cause = z.2 ∧
          ((∀ y ∈ s.core.trap.pend, y.cause ≠ z.2) → q.eng = p.eng ∧ q.eval = p.remote + BitVec.ofNat 64 p.off)) ∧
        ∀ d tag, p.kind = .load d tag → d ≠ 0 → (d, tag) ∈ s.core.ctl.pend → wrote s t d 0 true)) ∧
  (∀ s (r : PodReq),
    (s.keyHolder r.key = none → exec (.podRequestArrival r) s = .next { s with answers := s.answers ++ [.fenced] }) ∧
    (∀ x, s.keyHolder r.key = some x → x.entryAt r.addr.toNat = none →
      exec (.podRequestArrival r) s = .next { s with answers := s.answers ++ [.remoteError] }) ∧
    (∀ x e, s.keyHolder r.key = some x → x.entryAt r.addr.toNat = some e → e.cls = 0 → e.perm % 4 = 3 →
      r.addr.toNat + podSize r.op ≤ e.vbase.toNat + 2 ^ e.lsz → x.planeMeets 64 r.addr.toNat (podSize r.op) = false →
      let home := x.homeOf e r.addr.toNat
      let key := 2 ^ 29 * home.1 + home.2
      let told (t : State) : Prop := ∀ p ∈ s.waiters key, ∃ f ∈ t.flights, f.cargo = .notify p.2 ∧ f.core = p.1
      (x.busyAt r.addr.toNat (podSize r.op) = true → ∃ t, exec (.podRequestArrival r) s = .next t ∧ t = { s with agenda := t.agenda } ∧
        (s.clock + 1, .podRequestArrival r) ∈ t.agenda) ∧
      (x.busyAt r.addr.toNat (podSize r.op) = false → podReads r.op = true → s.poisoned isStage key (podSize r.op) ≠ [] →
        ∃ t, exec (.podRequestArrival r) s = .next t ∧ t.answers = s.answers ++ [.remoteError] ∧ sameRegs s t ∧ sameBytes s t) ∧
      (x.busyAt r.addr.toNat (podSize r.op) = false → (podReads r.op = true → s.poisoned isStage key (podSize r.op) = []) →
      ∃ t, exec (.podRequestArrival r) s = .next t ∧ sameRegs s t ∧
        (∀ n, r.op = .read n → sameBytes s t ∧ t.answers = s.answers ++ [.ok (s.stage.readBytes key n)]) ∧
        (∀ bs, r.op = .write bs → sameBytesBut s t .stage key bs.length ∧ t.answers = s.answers ++ [.ok []] ∧
          ∀ k, k < bs.length → t.byteOf .stage (key + k) = bs.getD k 0) ∧
        (∀ o w (v cmp : Dword), r.op = .atomic o w v cmp → let n := if w then 8 else 4
          let old := s.stage.readNat key n
          sameBytesBut s t .stage key n ∧ t.answers = s.answers ++ [.ok (toBytes n old)] ∧ told t ∧
            holds t .stage key n (amoNew o n old v.toNat cmp.toNat)) ∧
        (∀ v, r.op = .signal v → sameBytesBut s t .stage key 8 ∧ t.answers = s.answers ++ [.ok []] ∧ told t ∧
          holds t .stage key 8 (s.stage.readNat key 8 + v.toNat))))) ∧
  (∀ s key, ∃ t, exec (.keyRevocation key) s = .next t ∧ t = { s with revoked := t.revoked } ∧ t.keyHolder key = none ∧
    ∀ k, k ≠ key → t.keyHolder k = s.keyHolder k) ∧
  (∀ s on, exec (.podBarrierHold on) s = .next { s with podHold := on })

/-- R304 to R306: GTAB sets a gather table; GTHR and GSUM start with their handles, their table and their count, or take the cause of the
check that fails; each stream word names a row, or none; a row of a table in stage memory sets out from its home with the row's bytes and
joins the image of its gather; and the end of a gather, from either kind of table, writes its output eight or six cycles later, commits
its slot and releases the stream's. -/
def Obligations.Gathers : Prop :=
  (∀ s (d a b : GReg) (g : BitVec 1) (f : BitVec 3) (t0 : BitVec 2), let i := Instr.gtab d a b g f t0
    let nrow := (s.core.rd 5 d).toNat % 2 ^ 32
    let base := s.core.rd 5 a
    let rb := (s.core.rd 5 b).toNat % 2 ^ 17
    let tidy := nrow ≠ 0 ∧ rb ≠ 0 ∧ rb ≤ 65536 ∧ rb % 4 = 0 ∧ rb % tabElem f = 0
    clears s 5 i →
    (¬tidy → ∃ t, exec i s = .next t ∧ stopped s t 5 5 5 (BitVec.ofNat 64 (16 + 4 * 2 ^ 48 + 0xFF * 2 ^ 56))) ∧
    (tidy → base.toNat % 4 ≠ 0 → ∃ t, exec i s = .next t ∧ stopped s t 5 4 5 base) ∧
    (tidy → base.toNat % 4 = 0 → (g = 1 → base.toNat + nrow * rb ≤ 2 ^ 27) → (g = 0 → s.stageTable base (nrow * rb) = none) →
      ∃ t, exec i s = .next t ∧ wentNext s t 5 ∧ sameRegs s t ∧ sameBytes s t ∧
        t = { s with core := { s.core with gtab := t.core.gtab, eng := t.core.eng } } ∧
        ∀ k, k < 4 → t.core.gtab.getD k {} = if k = t0.toNat then { valid := true, base := base, g := g == 1, fmt := f, rb := rb, nrow := nrow }
          else s.core.gtab.getD k {})) ∧
  (∀ s (sum : Bool) h (w : BitVec 6) a, let i : Instr := if sum then .gsum h w a else .gthr h w a
    let c := s.core
    let v := c.rd 5 a
    let oh : HReg := v.setWidth 4
    let n := v.toNat / 2 ^ 16 % 2 ^ 16
    let tab := c.gtab.getD (v.toNat / 16 % 4) {}
    let src (k : Nat) : Nat := (c.hnd h).slotAt ((c.hnd h).cidx + k)
    let out := (c.hnd oh).slotAt (c.hnd oh).pidx
    clears s 5 i → c.handleFault h w.toNat = none → w.toNat ≤ (c.hnd h).fill → c.handleFault oh 1 = none → 1 ≤ (c.hnd oh).free →
    (∀ k, gatherKind c sum h oh w.toNat n tab v = some k →
      ∃ t, exec i s = .next t ∧ stopped s t 5 5 5 (BitVec.ofNat 64 (k * 16 + 4 * 2 ^ 48 + 0xFF * 2 ^ 56))) ∧
    (gatherKind c sum h oh w.toNat n tab v = none → c.underCopy out (c.hnd oh).slot = false →
      (∀ k, k < w.toNat → c.underCopy (src k) (c.hnd h).slot = false) →
      (tab.g = false → ∀ x, s.ctx = some x → x.busyAt tab.base.toNat (tab.nrow * tab.rb) = false) →
      ∃ t j, exec i s = .next t ∧ wentNext s t 5 ∧ sameRegs s t ∧ sameBytes s t ∧
        t = { s with free := t.free, core := { s.core with gjob := some j, eng := t.core.eng } } ∧
        j.sum = sum ∧ j.h = h ∧ j.w = w.toNat ∧ j.rel = v.getLsbD 6 ∧ j.oh = oh ∧ j.out = out ∧ j.tab = tab ∧ j.n = n ∧
        j.srcs = (List.range w.toNat).map src ∧ j.start = c.now ∧ j.mode = (c.engOf 5).mode ∧ j.k = 0 ∧ j.rows = [] ∧ j.beat = 0)) ∧
  (∀ (j : GJob) (c : Core), let v : Int := (BitVec.ofNat 32 (c.scratch.readNat (j.srcs.getD (4 * j.k / j.slot) 0 + 4 * j.k % j.slot) 4)).toInt
    4 * j.k + 4 ≤ j.w * j.slot → j.sum = false → j.kept = [] →
    (v < 0 → ∃ q, j.readWord c = .ok q ∧ q.rows = j.rows ++ [(none, j.k)] ∧ q.k = j.k + 1) ∧
    (0 ≤ v → v < j.tab.nrow → ∃ q, j.readWord c = .ok q ∧ q.rows = j.rows ++ [(some v.toNat, j.k)] ∧ q.k = j.k + 1) ∧
    (j.tab.nrow ≤ v → j.readWord c = .error (2, j.k))) ∧
  (∀ s j, s.core.rowDue = some j →
    ∃ t, exec .gatherRowArrive s = .next t ∧ sameRegs s t ∧ sameBytes s t ∧
      ∃ q ∈ t.core.gtail ++ t.core.gjob.toList, q.pos = j.pos ∧ q.beat = j.beat + 1 ∧ q.got = j.got ++ j.row.getD [] ∧ q.row = none ∧ q.asked = false) ∧
  (∀ (s : State) (f : Flight) n c, s.coreAt f.core = some c →
    ∃ g ∈ (s.landRowAsk f n).flights, g.cargo = Cargo.row (s.copyRead c false f.addr.toNat n) ∧ g.core = f.core ∧ g.pos = f.pos) ∧
  (∀ s j, s.core.gtail = [] → s.core.gjob = some j → j.tab.g = true → j.more = false → beatsOf j.imageLen ≤ j.beat →
    let t := s.gatherTurn
    t.core.gjob = none ∧ sameBytes s t ∧ (∃ o ∈ t.core.fly, o.eff = .atEnd (.commit 5 j.oh 1) ∧ o.due = s.core.now + (if j.sum then 8 else 6)) ∧
      (j.rel = true → ∃ o ∈ t.core.fly, o.eff = .atEnd (.release 5 j.h j.w))) ∧
  (∀ (c : Core) (j : GJob), let t := c.putGather j
    let n := if j.sum then 8 else 6
    (j.read = false → t = { c with gtail := c.gtail ++ [j] }) ∧
    (j.read = true → t = { c with fly := t.fly } ∧ (∃ o ∈ t.fly, o.eff = .atEnd (.commit 5 j.oh 1) ∧ o.due = c.now + n) ∧
      (j.rel = true → ∃ o ∈ t.fly, o.eff = .atEnd (.release 5 j.h j.w) ∧ o.due = c.now + n) ∧
      (j.sum = true ∨ j.tab.g = false → j.output ≠ [] → ∃ o ∈ t.fly, o.eff = .write false j.out j.output ∧ o.due = c.now + n)))

/-- R307 to R310, Table 13-10: CGRP reads its members 32 a cycle, and with the last of them binds its group at the end of the cycle or takes
the fault of a bad table; a sum over one member is canonical; a collective whose group, count, root, alignment and ranges pass their checks
is under way, and its requests to the other members set out for their CL dies (R296); a range that fails its check is its cause, and a member
of a CBC that is not its root has no source to check (Table 13-10); one without a group is cause 0x05 of kind 1; its end writes its result in
rank order, or makes its failure pending, once every earlier one of its context on the group has ended, in the turn of CLV among the effects
of a cycle that the core runs (R140), else at once. How the
member table is read, and that its fault is precise or asynchronous, is the model's choice (log entry 53), and so is what a collective asks
of the fabric (log entry 92). -/
def Obligations.Collectives : Prop :=
  (∀ s (a b : GReg) g, let c := s.core
    let m := (c.rd 6 b).toNat % 2 ^ 14
    let at_ := (c.rd 6 a).toNat
    clears s 6 (.cgrp a b g) → s.groupBusy g = false → at_ % 2 = 0 → at_ + 2 * m ≤ c.size → c.underCopy at_ (2 * m) = false → m ≤ 8192 →
    ∃ t, exec (.cgrp a b g) s = .next t ∧ wentNext s t 6 ∧ sameRegs s t ∧ sameBytes s t ∧
      t = { s with core := { s.core with fly := t.core.fly, eng := t.core.eng } } ∧
      t.core.fly = c.fly ++ (List.range (m / 32 + 1)).map fun j => (
        { due := c.now + 2 + j, eng := 6, pos := (c.engOf 6).pos, eff := .members g at_ j m } : LocalOp)) ∧
  (∀ s (o : LocalOp) g a j m, o.eff = .members g a j m → let c := s.core
    let t := s.doLocal o
    let rest := c.ids.filter fun p => p.1 != o.pos
    let all := ((c.ids.find? fun p => p.1 == o.pos).map Prod.snd).getD [] ++
      (List.range (min 32 (m - 32 * j))).map fun k => c.scratch.readNat (a + 2 * (32 * j + k)) 2
    let good := rises all = true ∧ (∀ k ∈ all, k ≤ 8191) ∧ (all ≠ [] → s.pkgid.toNat ∈ all)
    sameRegs s t ∧ sameBytes s t ∧
    (32 * j + 32 ≤ m → t.core.ids = (o.pos, all) :: rest ∧ t.atWrap = s.atWrap) ∧
    (m < 32 * j + 32 → t.core.ids = rest) ∧
    (m < 32 * j + 32 → good → t.atWrap = s.atWrap ++ [.bind c.ctx g (all.map fun i => BitVec.ofNat 13 i)]) ∧
    (m < 32 * j + 32 → ¬good → t.atWrap = s.atWrap ∧
      ((c.engOf 6).lastPos = o.pos → ∃ z, (t.core.engOf 6).stop = some z ∧ z.cause = 5 ∧ z.eng = 6 ∧ z.pc = (c.engOf 6).lastPc ∧
        z.eval = BitVec.ofNat 64 (4 * 16 + 5 * 2 ^ 48 + 0xFF * 2 ^ 56)) ∧
      ((c.engOf 6).lastPos ≠ o.pos → ∃ z ∈ t.core.trap.pend, z.cause = 5))) ∧
  (∀ s x g ids y, s.ctxOf x = some y → (CycleEff.run s (.bind x g ids)).ctxOf x =
    some { y with pods := (y.pods.filter fun p => p.1 != g) ++ (if ids = [] then [] else [(g, ids)]) }) ∧
  (∀ s (d a b : GReg) (o ty : BitVec 2) g, let c := s.core
    let v (r : GReg) : Dword := c.rd 6 r
    let n := (v b).toNat % 2 ^ 25
    let z := if ty = 1 then 2 else 4
    let rows : List (Instr × CollForm × BitVec 2) := [(.cred d a b o ty g, .red, o), (.crsc d a b o ty g, .rsc, o), (.callg d a b ty g, .allg, 0),
      (.cbc d a b ty g, .bc, 0)]
    ∀ p ∈ rows, clears s 6 p.1 → c.colls.length < 4 →
    (s.podGroup g = none → ∃ t, exec p.1 s = .next t ∧ stopped s t 6 5 6 (BitVec.ofNat 64 (16 + 5 * 2 ^ 48 + 0xFF * 2 ^ 56))) ∧
    (∀ ms, s.podGroup g = some ms →
      let src := if p.2.1 = .bc then v d else v a
      let sl := z * p.2.1.srcLen ms.length n
      let dl := z * p.2.1.dstLen ms.length n
      let exit (q : BitVec 13) : Option Nat := s.ctx.bind fun x => s.collExit x c.site q
      let reads : Prop := p.2.1 ≠ .bc ∨ ms[(v a).toNat % 2 ^ 13]? = some s.pkgid
      0 < n → n ≤ 2 ^ 24 → (p.2.1 = .bc → (v a).toNat % 2 ^ 13 < ms.length) → src.toNat % z = 0 → (v d).toNat % z = 0 →
      (∀ f, reads → s.collRange src sl 1 = some f → ∃ t, exec p.1 s = .next t ∧ stopped s t 6 f.1 6 f.2) ∧
      (∀ f, (reads → s.collRange src sl 1 = none) → s.collRange (v d) dl 2 = some f → ∃ t, exec p.1 s = .next t ∧ stopped s t 6 f.1 6 f.2) ∧
      ((reads → s.collRange src sl 1 = none) → s.collRange (v d) dl 2 = none → c.underCopy src.toNat sl = false → c.underCopy (v d).toNat dl = false →
      let moving : Prop := ∃ y, s.ctx = some y ∧ (y.busyAt src.toNat sl = true ∨ y.busyAt (v d).toNat dl = true)
      (moving → exec p.1 s = waitAt s 6 6) ∧
      (¬moving → ∃ t k fs, exec p.1 s = .next t ∧ wentNext s t 6 ∧ sameRegs s t ∧ sameBytes s t ∧
        t = { s with flights := s.flights ++ fs, core := { s.core with colls := c.colls ++ [k], eng := t.core.eng } } ∧
        (∀ f ∈ fs, reads ∧ f.core = c.id ∧ f.eng = 6 ∧ ∃ q ∈ ms, q ≠ s.pkgid ∧ ∃ cl, exit q = some cl ∧ f.cargo = .hawser q cl) ∧
        (reads → ∀ q ∈ ms, q ≠ s.pkgid → ∀ cl, exit q = some cl → ∃ f ∈ fs, f.cargo = .hawser q cl) ∧
        k.members = ms ∧ k.seq = 1024 * s.clock + c.id.toNat ∧
        k.pos = (c.engOf 6).pos ∧ k.form = p.2.1 ∧ k.group = g ∧ k.rop = p.2.2 ∧ k.type = ty ∧ k.dst = v d ∧ k.src = v a ∧ k.n = n)))) ∧
  (∀ (x : Elem), reduceElem 0 0 [x] = (if expOf x = 255 ∧ fracOf x ≠ 0 then 0x7FC00000 else x)) ∧
  (∀ s g k, let c := s.core
    let ms := k.members
    s.saved = [] → (∀ d ∈ s.others, d.id ≠ c.id) → (c.colls.find? fun q => q.group == g) = some k →
    (∀ x, s.ctxOf c.ctx = some x → x.phase ≠ .killed) →
    (s.collFirst g c = false ∨ c.collEnding g = true → ∀ z, ∃ t f, exec (.collectiveDone c.id g z) s = .next t ∧
      t = { s with flights := s.flights ++ [f] } ∧ f.cargo = .collAns g z ∧ f.core = c.id ∧ f.due = s.clock + 1 ∧ f.hops = []) ∧
    (s.collFirst g c = true → c.collEnding g = false →
      (s.runsCycle c = true → ∀ z, exec (.collectiveDone c.id g z) s = .next { s with core := { c with
        fly := c.fly ++ [{ due := c.now, eng := 6, pos := k.pos, eff := .collEnd g z }] } }) ∧
      (s.runsCycle c = false → ∀ z, exec (.collectiveDone c.id g z) s = .next (s.collDone c.id g z))) ∧
    (∀ xs a, k.clash ms.length = false →
      let rank := (ms.idxOf? s.pkgid).getD 0
      let own := s.collRead c k.type k.srcAddr (k.form.srcLen ms.length k.n)
      let bs := (k.result rank ((List.range ms.length).map fun q => if q = rank then own else xs.getD q [])).flatMap fun e => toBytes (collElem k.type) e.toNat
      s.copyPlace c false k.dst.toNat bs.length = some (.scratch a) → let t := s.collDone c.id g (.ok xs)
      sameRegs s t ∧ t.core.colls = c.colls.filter (fun q => q.pos != k.pos) ∧
        sameBytesBut s t .scratch a bs.length ∧ ∀ j, j < bs.length → t.byteOf .scratch (a + j) = bs.getD j 0) ∧
    (∀ p ∈ [(CollRes.fenced, (0x15 : Byte)), (CollRes.remoteError, (0x16 : Byte))],
      let t := s.collDone c.id g p.1
      sameRegs s t ∧ (∃ q ∈ t.core.trap.pend, q.cause = p.2)))

/-! ### Chapters 5 and 13: traffic over the package, planed regions -/

/-- R108, R119 to R122, R116, R302: a request that has reached its home performs there and its answer leaves, an atomic with the value it
stores, telling every core that waits on the word; the answer fills the register
that waits for it; a claim is granted where no other core has written or claimed the element; a notify brings the next read of its
waiters forward. That the answer clears no mark, since the issue did, is the model's reading of R76 (log entry 68). -/
def Obligations.PackageTraffic : Prop :=
  ∀ s f r, s.landing = some (f, r) →
    (∀ op c home key ent, f.cargo = .req op → s.coreAt f.core = some c → s.locate c f.addr.toNat op.bytes = .ok (.stage home key, ent) →
      ∃ t, exec .stageAccessPerform s = .next t ∧ sameRegs s t ∧
        (∀ n v, op = .store n v → (∀ x, s.ctxOf c.ctx = some x → x.planeAt c.site f.addr.toNat = none) →
          holds t .stage key n v.toNat ∧ sameBytesBut s t .stage key n ∧ t.flights = r) ∧
        (∀ d tag (n : Nat) sx, n ∈ [1, 2, 4, 8] → op = .load d tag n sx → sameBytes s t ∧
          let v := BitVec.ofNat (8 * n) (s.stage.readNat key n)
          ∃ g, t.flights = r ++ [g] ∧ g.core = f.core ∧ g.cargo = .reply d tag (if sx then v.signExtend 64 else v.setWidth 64) false) ∧
        (∀ d tag, op = .own d tag → sameBytes s t ∧
          ∃ g, t.flights = r ++ [g] ∧ g.core = f.core ∧ g.cargo = .reply d tag (s.ownRead c (.stage home key) f.addr.toNat) false) ∧
        (∀ d tag o wide (x cmp : Dword), op = .amo d tag o wide x cmp → sameBytesBut s t .stage key (if wide then 8 else 4) ∧
          let n := if wide then 8 else 4
          holds t .stage key n (amoNew o n (s.stage.readNat key n) x.toNat cmp.toNat) ∧
          (∀ p ∈ s.waiters key, ∃ g ∈ t.flights, g.cargo = .notify p.2 ∧ g.core = p.1) ∧
          ∃ g, g ∈ t.flights ∧ g.core = f.core ∧ g.cargo = .reply d tag ((BitVec.ofNat (8 * n) (s.stage.readNat key n)).signExtend 64) true)) ∧
    (∀ d tag v amo, f.cargo = .reply d tag v amo → f.core = s.core.id → d ≠ 0 → (d, tag) ∈ s.core.ctl.pend →
      ∃ t, exec .stageReply s = .next t ∧ t.flights = r ∧ tookAnswer s t d v ∧ sameBytes s t ∧
        t.core.ctl.ready.getD d.toNat 0 = s.core.now + (if amo then 1 else 0)) ∧
    (∀ a w, f.cargo = .notify a → f.core = s.core.id → s.core.lnk.wsig = some w → w.addr = f.addr →
      ∃ t q, exec .signalNotify s = .next t ∧ t.flights = r ∧ sameRegs s t ∧ sameBytes s t ∧ t.core.lnk.wsig = some q ∧ q.next ≤ s.core.now + 1 ∧
        q.addr = w.addr ∧ q.val = w.val) ∧
    (∀ tag c x n d, f.cargo = .claim tag → s.coreAt f.core = some c → s.ctxOf c.ctx = some x →
      x.planeAt (f.core.toNat / 16) f.addr.toNat = some (n, d) →
      let st := if d.shared then f.core.toNat / 16 else 0
      let e := (f.addr.toNat - d.vbase.toNat) / d.elem
      ∃ t g, exec .claimArrival s = .next t ∧ sameRegs s t ∧ sameBytes s t ∧ t.flights = r ++ [g] ∧ g.core = f.core ∧
        ((∀ y, s.cell c.ctx n st e = some y → y.wr = f.core) → g.cargo = .claimAns true tag ∧
          ∃ y, t.cell c.ctx n st e = some y ∧ y.cl = true ∧ y.wr = f.core) ∧
        (∀ y, s.cell c.ctx n st e = some y → y.wr ≠ f.core → g.cargo = .claimAns false tag ∧ t.planes = s.planes)) ∧
    (∀ good tag, f.cargo = .claimAns good tag → f.core = s.core.id → s.core.ctl.claim = some (tag, none) →
      ∃ t, exec .claimAnswer s = .next t ∧ t.flights = r ∧ t.core.ctl.claim = some (tag, some good) ∧ sameRegs s t ∧ sameBytes s t)

/-- R286, R293, R114, R117, R302: a residue beat carries the first flight that waits over its next link, in a slot of its core's own where
there is one for it, and a copy's beat before its last ends at its die; a store to a planed element changes
its next value and metadata by the rule of its region, and never the present value; the swap makes each written value present, and
an unwritten element keeps its value or is cleared, in stage memory and in die-shared scratch alike. -/
def Obligations.ResidueAndPlanes : Prop :=
  (∀ s f r h rest, s.beatDue = some (f, r) → f.hops = h :: rest →
    let key := if s.slotFor f then 2048 * (1 + f.core.toNat) + 32 * h.1 + h.2 else 32 * h.1 + h.2
    ∃ t, exec .residueBeat s = .next t ∧ t = { s with flights := t.flights, beats := t.beats } ∧
      Store.get 0 t.beats key = Store.get 0 s.beats key + 1 ∧ (∀ k, k ≠ key → Store.get 0 t.beats k = Store.get 0 s.beats k) ∧
      (f.cargo = .beat ∧ rest = [] → t.flights = r) ∧
      (¬(f.cargo = .beat ∧ rest = []) → ∃ g, t.flights = r ++ [g] ∧ g.hops = rest ∧ g.cargo = f.cargo ∧ g.core = f.core ∧
        g.due = s.clock + (if h.2 < 4 then 16 else 24) + (if rest = [] then 26 else 0))) ∧
  (∀ s xid x (k : CoreId) (a v : Dword) n d, s.ctxOf xid = some x → x.planeAt (k.toNat / 16) a.toNat = some (n, d) →
    let st := if d.shared then k.toNat / 16 else 0
    let e := (a.toNat - d.vbase.toNat) / d.elem
    ∃ t y, exec (.planedStore xid k a v) s = .next t ∧ t = { s with planes := t.planes } ∧ t.cell xid n st e = some y ∧
      (s.cell xid n st e = none → y.next = v ∧ y.wr = k ∧ y.coll = false ∧ y.cl = false) ∧
      ∀ o, s.cell xid n st e = some o →
        (o.wr = k → y.next = v ∧ y.wr = k ∧ y.coll = o.coll ∧ y.cl = false) ∧
        (o.wr ≠ k → y.coll = true) ∧
        (o.wr ≠ k → d.collide = 0 → y.next = (if k < o.wr then v else o.next) ∧ y.wr = (if k < o.wr then k else o.wr)) ∧
        (o.wr ≠ k → d.collide = 2 → y.next = ((o.next.setWidth 32 + v.setWidth 32 : BitVec 32)).setWidth 64 ∧ y.wr = 0x3FF) ∧
        (o.wr ≠ k → d.collide = 3 → y.next = o.next + v ∧ y.wr = 0x3FF) ∧
        (o.wr ≠ k → d.collide = 4 → y.next = (fadd 0 (o.next.setWidth 32) (v.setWidth 32)).setWidth 64 ∧ y.wr = 0x3FF)) ∧
  (∀ s p x d base, s.swapDue = some p → s.ctxOf p.1 = some x → x.planes[p.2.1]? = some d →
    (d.shared = true → base = sharedKey x.id p.2.2.1 (d.vbase.toNat - sharedBase)) →
    (d.shared = false → ∃ e home, x.entryAt d.vbase.toNat = some e ∧ x.placeOf e d.vbase.toNat = .stage home base) →
    let m : MemName := if d.shared then .dsh else .stage
    let mine (y : PlaneCell) : Prop := y.ctx = x.id ∧ y.reg = p.2.1 ∧ y.site = if d.shared then p.2.2.1 else 0
    (∀ y ∈ s.planes, mine y → (y.elem + 1) * d.elem ≤ d.units * 65536) →
    ∃ t, exec .planeSwap s = .next t ∧ sameRegs s t ∧ sameBytesBut s t m base (d.units * 65536) ∧
      (∀ y ∈ t.planes, ¬mine y) ∧ (∀ y ∈ s.planes, ¬mine y → y ∈ t.planes) ∧
      ∀ k, (k + 1) * d.elem ≤ d.units * 65536 →
        (∀ v, (∃ y ∈ s.planes, mine y ∧ y.elem = k ∧ y.cl = false) → (∀ y ∈ s.planes, mine y → y.elem = k → y.cl = false → y.next = v) →
          holds t m (base + k * d.elem) d.elem v.toNat) ∧
        ((∀ y ∈ s.planes, mine y → y.elem = k → y.cl = true) → ∀ j, j < d.elem →
          t.byteOf m (base + k * d.elem + j) = if d.clear then 0 else s.byteOf m (base + k * d.elem + j)))

/-! ### Chapters 3, 14, 15: contexts, graphs, errors, the host -/

/-- R20, R126, R152, R315, R320 to R324, R327, R353: contexts start, are placed, frozen, saved once their save stands written, resumed with
the text of their image, halted, killed, cancelled and retired; a killed one leaves once its key is revoked and its requests to other
packages are answered; a thermal trip asks for the kill of every context and moors the module. What a save and a restore keep is the
model's choice (log entry 34); that the kill of a step's context follows where a member cannot restart (log entry 37), and what a kill
drops at once (log entry 55), are its readings. -/
def Obligations.ContextEvents : Prop :=
  let gone (t : State) (x : Context) : Prop := (∀ y ∈ t.ctxs, y.id ≠ x.id) ∧ (∀ c ∈ t.allCores, c.within x.id = false) ∧
    ∀ c ∈ t.saved, c.within x.id = false
  let stands (t : State) (x : Context) (ph : CtxPhase) : Prop := (∃ y ∈ t.ctxs, y.id = x.id) ∧ ∀ y ∈ t.ctxs, y.id = x.id → y.phase = ph
  (∀ s, s.exitDue = true → ∃ t, exec .coreExitRetire s = .next t ∧ t.core.retired = true ∧ t.core.spr.level = 0 ∧ sameRegs s t ∧ sameBytes s t) ∧
  (∀ s x, s.exitDue = false → s.ctxDone = some x → ∃ t, exec .coreExitRetire s = .next t ∧ gone t x ∧
    ∃ n ∈ t.host.notices, n.2 = .retired x.id x.launch x.energy) ∧
  (∀ s x, s.startDue = some x → ∃ t, exec .contextStart s = .next t ∧ stands t x .running ∧ sameRegs s t ∧ sameBytes s t ∧
    ∀ c ∈ t.allCores, c.within x.id = true → c.frozen = false ∧ c.delay = 4 * Config.capstan c.site) ∧
  (∀ s img v, s.pick = some (.exclude img v) → ∃ t, exec .launchPlace s = .next t ∧ t = { s with host := { s.host with images := t.host.images } } ∧
    (∀ g ∈ t.host.images, g.id = img.id → v ∈ g.excluded) ∧ ∀ g ∈ s.host.images, g.id ≠ img.id → g ∈ t.host.images) ∧
  (∀ s l i img v x, s.pick = some (.place l i img v x) → ∃ t, exec .launchPlace s = .next t ∧
    ∃ y ∈ t.ctxs, y.id = x ∧ y.phase = .placed ∧ y.variant = v.id ∧ y.launch = l.id ∧ y.cores = v.binds.map fun b => b.core) ∧
  (∀ s l scan, s.pick = some (.refuse l scan) → ∃ t, exec .launchPlace s = .next t ∧ sameRegs s t ∧ sameBytes s t ∧ t.ctxs = s.ctxs ∧
    ∃ n ∈ t.host.notices, n.2 = if scan then .refusal l.seq 4 else .mix l.id) ∧
  (∀ s xs, s.pick = some (.preempt xs) → ∃ t, exec .launchPlace s = .next t ∧ sameRegs s t ∧ sameBytes s t ∧
    ∀ x ∈ xs, ∀ y ∈ t.ctxs, y.id = x.id → ∃ f ∈ y.freeze, f.1 = .preempt) ∧
  (∀ s x k, (s.frozenNext fun q => q != .cancel) = some (x, k) → ∃ t, exec .preemptFreeze s = .next t ∧
    (k = .preempt → stands t x .saving ∧ sameRegs s t ∧ sameBytes s t ∧ (∀ c ∈ t.allCores, c.within x.id = true → c.frozen = true) ∧
      ∀ y ∈ t.ctxs, y.id = x.id → y.frozeAt = s.clock ∧ s.clock < y.saveAt) ∧
    (k = .halt → stands t x .halted ∧ sameRegs s t ∧ sameBytes s t ∧ ∀ c ∈ t.allCores, c.within x.id = true → c.frozen = true) ∧
    (k = .kill → stands t x .killed ∧ sameBytes s t ∧ ∀ c ∈ t.allCores, c.within x.id = true →
      c.frozen = true ∧ c.fly = [] ∧ c.eoc = [] ∧ c.gjob = none ∧ c.gtail = [] ∧ c.lnk.sends = [])) ∧
  (∀ s x, (s.frozenNext fun q => q != .cancel) = none → s.saveDue = some x → ∃ t, exec .preemptFreeze s = .next t ∧ stands t x .saved ∧
    (∀ c ∈ t.allCores, c.within x.id = false) ∧ (∀ c ∈ s.allCores, c.within x.id = true → c ∈ t.saved) ∧
    (∀ y ∈ t.ctxs, y.id = x.id → y.released = true) ∧ t.stage = s.stage ∧ t.tier2 = s.tier2 ∧ t.gsram = s.gsram ∧ t.dsh = s.dsh ∧
    ∀ a, (∀ h, h < 8 → ∀ r ∈ x.saveAreas h, a < 2 ^ 37 * h + r.1 ∨ 2 ^ 37 * h + r.1 + r.2 ≤ a) → t.byteOf .hbm a = s.byteOf .hbm a) ∧
  (∀ s x, s.killDone = some x → x ∈ s.ctxs ∧ x.phase = .killed ∧ x.keyAt ≤ s.clock ∧
    (∀ c, c ∈ s.allCores ∨ c ∈ s.saved → c.within x.id = true → c.lnk.podq = [] ∧ c.colls = []) ∧
    ∃ t, exec .killComplete s = .next t ∧ gone t x ∧ ∃ n ∈ t.host.notices, n.2 = .killed x.id) ∧
  (∀ s x k q, (s.frozenNext fun q => q == .cancel) = some (x, k) → s.core.within x.id = true → s.core.id ∈ x.cancelled → s.core.ckpt = some q →
    let cs := (s.coresOf x.id).filter fun c => x.cancelled.contains c.id
    ∃ t, exec .stepCancel s = .next t ∧
      ((∀ c ∈ cs, c.canRestart = true ∧ c.ckpt.isSome = true) → stands t x .running ∧ t.core.ctl.g = q.g ∧ t.core.ctl.df = q.df ∧
        t.core.handles = q.handles ∧ t.core.frozen = false) ∧
      (¬(∀ c ∈ cs, c.canRestart = true ∧ c.ckpt.isSome = true) → stands t x .killed ∧ sameBytes s t ∧
        (s.core.canRestart = false → t.core.trap.cause = 0x22))) ∧
  (∀ s x, s.pick = some (.resume x) →
    (∃ t, exec (.contextResume false false) s = .next t ∧ stands t x .running ∧ (∀ c ∈ t.saved, c.within x.id = false) ∧
      ∀ c ∈ s.saved, c.within x.id = true → ∃ p ∈ t.allCores, p.id = c.id ∧ p.ctl.g = c.ctl.g ∧ p.scratch = c.scratch ∧ p.text = c.text0 ∧ p.frozen = false ∧
        ∃ z ∈ p.trap.pend, z.cause = 0x20) ∧
    (∃ t, exec (.contextResume true true) s = .next t ∧ stands t x .killed ∧ (∃ n ∈ t.host.notices, n.2 = .lost x.id) ∧
      ∃ p ∈ t.dev.pend, p.cause = 0x25)) ∧
  (∀ s, ∃ t, exec .thermalTrip s = .next t ∧ t.host.boot = .moored ∧ sameRegs s t ∧ sameBytes s t ∧ t.ctxs.length = s.ctxs.length ∧
    ∀ y ∈ t.ctxs, ∃ f ∈ y.freeze, f.1 = .kill)

/-- R319: a node whose predecessors have finished is evaluated: a COND or SWITCH node releases the successors its word chooses and skips the
others, a WAIT node finishes or polls again within 10 microseconds, a KERNEL or LOOP node is queued. -/
def Obligations.GraphNodes : Prop :=
  let after (t : State) (l : Launch) (p : Launch → Prop) : Prop := ∀ q ∈ t.host.launches, q.id = l.id → p q
  let waits (s t : State) (l : Launch) (i : Nat) (n : GNode) : Prop :=
    ((BitVec.ofNat 64 n.arg).toInt ≤ (s.graphWord l n).toInt → after t l fun q => q = l.finish i (n.succs 0 7) []) ∧
    ((s.graphWord l n).toInt < (BitVec.ofNat 64 n.arg).toInt → after t l fun q => ∃ k, q = { l with state := l.state.set i (.polling k) } ∧
      s.clock < k ∧ k ≤ s.clock + 20000)
  (∀ s l i n, s.nodeDue Launch.readyNode = some (l, i, n) →
    let w := (s.graphWord l n).toNat
    ∃ t, exec .graphNodeReady s = .next t ∧ t = { s with host := t.host, free := t.free } ∧ sameBytes s t ∧
      (n.kind = 2 → after t l fun q => q = if w ≠ 0 then l.finish i (n.succs 0 3) (n.succs 4 7) else l.finish i (n.succs 4 7) (n.succs 0 3)) ∧
      (n.kind = 4 → let v := if w ≤ 6 then w else 7
        after t l fun q => q = l.finish i (n.succs v v) ((n.succs 0 7).filter fun j => !(n.succs v v).contains j)) ∧
      (n.kind = 5 → waits s t l i n) ∧
      (n.kind = 1 ∨ n.kind = 3 → after t l fun q => q = { l with state := l.state.set i .queued })) ∧
  (∀ s l i n, (s.nodeDue fun l => l.pollNode s.clock) = some (l, i, n) →
    ∃ t, exec .graphWaitPoll s = .next t ∧ t = { s with host := t.host, free := t.free } ∧ sameBytes s t ∧ waits s t l i n)

/-- R292, R325, R332 to R334, R349 to R353: an uncorrectable error is logged, but where no BF die works (a choice, log entry 91), and asks for the
cancellation of the core's step; a block that could not be corrected marks its push, or is such an error; what the scrub corrects is logged and waits for its write-back, which writes it, and what
it cannot correct is poisoned; a word that a read of an engine corrects is logged, and reads on as it is; HBM4E and
LPDDR-6 log with kinds of their own; throttling raises cause 0x21 and is seen in THRN; energy is charged, to the device context too; charge injection is bounded, and a droop beyond the bound throttles; no die
budget rises. Which ACTION a record says is the model's reading (log entry 38), the write-back of a corrected word is presumed in part
(log entry 40), and what a bad link block does is its reading (log entry 41). -/
def Obligations.ErrorsAndPower : Prop :=
  let far (l : EccLoc) : Bool := match l with
    | .hbm _ _ => true
    | .tier2 _ _ => true
    | _ => false
  let kind (l : EccLoc) : Byte := match l with
    | .hbm _ _ => 6
    | .tier2 _ _ => 7
    | _ => 1
  let works (s : State) : Prop := ∃ b ∈ List.range 8, s.bfGood b = true
  (∀ s (e : ErrInfo), let c := s.core
    ∃ t, exec (.uncorrectableError c.id e) s = .next t ∧ sameRegs s t ∧ sameBytes s t ∧ t.core.err = none ∧
      (¬works s → t.host.logs = s.host.logs) ∧
      (works s → ∃ r ∈ (t.host.log (saveHome s.deadBf e.site.toNat)).recs, r.kind = e.kind ∧ r.unit = e.unit ∧ r.addr = e.addr ∧ r.synd = e.synd ∧ r.site = e.site.toNat ∧
        r.ctx = c.ctx ∧ r.time = s.clock ∧ r.action = if c.canRestart then 2 else 3) ∧
      ∀ x ∈ t.ctxs, x.id = c.ctx → (∃ f ∈ x.freeze, f.1 = .cancel) ∧ (c.step.map fun p => p.1) ∈ x.cancels) ∧
  (∀ s k f, s.flights[k]? = some f →
    (∀ a b c, f.cargo = .push a b c → exec (.fecFailure k) s = .next { s with flights := s.flights.set k { f with bad := true } }) ∧
    ((∀ a b c, f.cargo ≠ .push a b c) → f.core = s.core.id → ∃ t, exec (.fecFailure k) s = .next t ∧ sameRegs s t ∧ sameBytes s t ∧
      ∀ x ∈ t.ctxs, x.id = s.core.ctx → ∃ f ∈ x.freeze, f.1 = .cancel)) ∧
  (∀ s l, exec (.scrubRead l .clean) s = .next s) ∧
  (∀ s l, ∃ t, exec (.scrubRead l .corrected) s = .next t ∧ t.wback = (if far l then s.wback else s.wback ++ [(l, s.scrubWord l)]) ∧
    sameRegs s t ∧ sameBytes s t ∧
    (works s → ∃ r ∈ (t.host.log (saveHome s.deadBf (eccSite l))).recs, r.kind = kind l)) ∧
  (∀ s l k, ∃ t, exec (.scrubRead l (.onRead k)) s = .next t ∧ sameRegs s t ∧ sameBytes s t ∧ t.wback = s.wback ∧ t.poison = s.poison ∧
    (works s → ∃ r ∈ (t.host.log (saveHome s.deadBf (eccSite l))).recs, r.kind = kind l ∧ r.site = eccSite l ∧ r.time = s.clock ∧
      r.ctx = ((s.coreAt k).map fun c => c.ctx).getD 0)) ∧
  (∀ s l, ∃ t, exec (.scrubRead l .uncorrectable) s = .next t ∧ l ∈ t.poison ∧ sameRegs s t ∧
    (far l = true → t.host = s.host) ∧
    (far l = false → works s → ∃ r ∈ (t.host.log (saveHome s.deadBf (eccSite l))).recs, r.kind = 3)) ∧
  (∀ s p r, s.wback = p :: r → ∃ t, exec .scrubWriteback s = .next t ∧ t.wback = r ∧ sameRegs s t ∧ sameBytes s t) ∧
  (∀ s (site : BitVec 6) share, ∀ i ∈ [Instr.throttleStart site share, .throttleEscalate site share],
    (s.victim site.toNat = none → exec i s = .next s) ∧
    (∀ x, s.victim site.toNat = some x → ∃ t, exec i s = .next t ∧ t.power.thr = s.power.thr ++ [(site.toNat, x)] ∧ sameRegs s t ∧ sameBytes s t ∧
      ∀ c ∈ t.allCores, c.live = true → c.ctx = x → c.site = site.toNat → c.spr.thrAct = true ∧ c.spr.thrShare = share ∧ c.spr.denies = true ∧ c.spr.denied = share ∧ ∃ p ∈ c.trap.pend, p.cause = 0x21)) ∧
  (∀ s (site : BitVec 6), ∃ t, exec (.throttleEnd site) s = .next t ∧ (∀ p ∈ t.power.thr, p.1 ≠ site.toNat) ∧ sameRegs s t ∧ sameBytes s t ∧
    ∀ c ∈ t.allCores, c.live = true → c.site = site.toNat → (site.toNat, c.ctx) ∈ s.power.thr → c.spr.thrAct = false ∧ c.spr.denies = false ∧ ∃ p ∈ c.trap.pend, p.cause = 0x21) ∧
  (∀ s x n, x ≠ 0 → exec (.energyAccount x n) s = .next { s with ctxs := s.ctxs.map fun y =>
    if y.id = x then { y with energy := BitVec.ofNat 64 (min (y.energy.toNat + n) (2 ^ 64 - 1)) } else y }) ∧
  (∀ s n, exec (.energyAccount 0 n) s = .next { s with dev := { s.dev with
    energy := BitVec.ofNat 64 (min (s.dev.energy.toNat + n) (2 ^ 64 - 1)) } }) ∧
  (∀ s (site : BitVec 6) (quad : BitVec 2),
    let used := (s.power.droop.filter fun q => q.1 == site.toNat && q.2.1 == quad.toNat && decide (s.clock < q.2.2 + 1024)).length
    ∃ t, exec (.droopInjection site quad) s = .next t ∧ sameRegs s t ∧ sameBytes s t ∧
      (∀ p ∈ t.power.droop, p ∈ s.power.droop ∨ p = (site.toNat, quad.toNat, s.clock) ∧ used < 64) ∧
      (used < 64 → t = { s with power := { s.power with droop := t.power.droop } } ∧ (site.toNat, quad.toNat, s.clock) ∈ t.power.droop) ∧
      (64 ≤ used → (∃ p ∈ s.power.thr, p.1 = site.toNat) → t.power.thr = s.power.thr) ∧
      (64 ≤ used → (∀ p ∈ s.power.thr, p.1 ≠ site.toNat) → (s.victim site.toNat).isSome = true →
        ∃ x, t.power.thr = s.power.thr ++ [(site.toNat, x)])) ∧
  (∀ s bs, ∃ t, exec (.lowerDieBudgets bs) s = .next t ∧ t = { s with power := { s.power with budget := t.power.budget } } ∧
    ∀ site, t.dieBudget site ≤ s.dieBudget site) ∧
  (∀ s (b : BitVec 6) n, ∃ t, exec (.lowerDieBudgets [(b, n)]) s = .next t ∧ t.dieBudget b.toNat = min n (s.dieBudget b.toNat))

/-- R67, R317, R318, R324, R343, R346 to R348, R352, R355, R22, Tables 15-3 to 15-5: what each message of the host does when its turn in its
session comes, and that its result is kept and acknowledged; a quote is signed as R68 says. The codes of the memory spaces are presumed
(log entry 45), the reasons of a refused KEYSET are the model's reading (log entry 46), the layout of signatures and quotes is presumed
(log entry 56), that memory of a BF die that is not good is refused is its choice (log entry 82), and that a message whose payload LEN
cannot hold is dropped is its reading (log entry 81). -/
def Obligations.HostMessages : Prop :=
  ∀ s (h : MsgHdr), heard s h →
    (∀ img off bytes, let old := ((s.host.uploads.find? fun u => u.1 == img).map Prod.snd).getD ([], 0)
      let mem := Memory.writeBytes old.1 off bytes
      let len := max old.2 (off + bytes.length)
      h.len = 12 + bytes.length → ∃ t, exec (.imgput h img off bytes) s = .next t ∧ answered s t h 0 ∧ onlyHost s t ∧
        (h.last = false → (t.host.uploads.find? fun u => u.1 == img) = some (img, mem, len) ∧ t.host.images = s.host.images) ∧
        (h.last = true → ∀ g, s.host.checkImage img (Memory.readBytes mem 0 len) = .ok g → g ∈ t.host.images) ∧
        (h.last = true → ∀ k, s.host.checkImage img (Memory.readBytes mem 0 len) = .error k → t.host.images = s.host.images ∧
          ∃ n ∈ t.host.notices, n.2 = .refusal h.seq k)) ∧
    (∀ bytes, let all := ((s.host.frag.find? fun f => f.1 == h.session).map Prod.snd).getD [] ++ bytes
      h.last = true → h.len = bytes.length →
      let reached : Prop := s.bfGood ((recordOf all).garea.toNat / 2 ^ 29 % 8) = true ∨ ∀ n ∈ nodesOf all, n.kind = 1
      (recordOk all = true → reached → (∀ n ∈ nodesOf all, n.kind = 1 ∨ n.kind = 3 → ∃ g ∈ s.host.images, g.id = n.image) →
        ∃ t l, exec (.launch h bytes) s = .next t ∧ answered s t h 0 ∧ onlyHost s t ∧ t.host.launches = s.host.launches ++ [l] ∧
          l.rec_ = recordOf all ∧ l.nodes = nodesOf all ∧ l.id = s.host.nlaunch ∧ l.seq = h.seq) ∧
      (recordOk all = true → reached → (∃ n ∈ nodesOf all, (n.kind = 1 ∨ n.kind = 3) ∧ ∀ g ∈ s.host.images, g.id ≠ n.image) →
        ∃ t, exec (.launch h bytes) s = .next t ∧ answered s t h 6 ∧ onlyHost s t ∧ t.host.launches = s.host.launches) ∧
      (recordOk all = false ∨ ¬reached → ∃ t, exec (.launch h bytes) s = .next t ∧ answered s t h 5 ∧ onlyHost s t ∧ t.host.launches = s.host.launches)) ∧
    (∀ x : Byte, 1 ≤ h.len →
      (∀ y, s.named x = some y → ∃ t, exec (.kill h x) s = .next t ∧ answered s t h 0 ∧ y.rec_.key ∈ t.revoked ∧ sameRegs s t ∧ sameBytes s t ∧
        ∀ z ∈ t.ctxs, z.id = y.id → ∃ f ∈ z.freeze, f.1 = .kill) ∧
      (s.named x = none → ∃ t, exec (.kill h x) s = .next t ∧ answered s t h 7 ∧ onlyHost s t)) ∧
    (∃ t ds, exec (.status h) s = .next t ∧ answered s t h 0 ∧ onlyHost s t ∧
      .status h.session h.seq s.mix.toList s.host.record (s.ctxs.map fun x => x.id) ds ∈ t.host.replies) ∧
    (∀ (space bf : Byte) off len, let m : MemName := if space = 0 then .stage else if space = 1 then .hbm else .tier2
      let cap := if space = 0 then 2 ^ 29 else if space = 1 then 2 ^ 37 else 3 * 2 ^ 38
      let good (n : Nat) : Prop := windowOk space bf off n = true ∧ s.bfGood bf.toNat = true
      let beats (t : State) (n : Nat) : Prop := ∃ fs, t.flights = s.flights ++ fs ∧ (fs = [] ∨ fs.length = (n + 63) / 64) ∧
        ∀ f ∈ fs, f.cargo = .beat ∧ f.core = 0 ∧ f.hops ≠ []
      (good len → ∃ t, exec (.memrd h space bf off len) s = .next t ∧ answered s t h 0 ∧ sameRegs s t ∧ sameBytes s t ∧
        (s.poisoned (windowMem space).has (cap * bf.toNat + off) len = [] → t = { s with host := t.host, flights := t.flights }) ∧
        (s.poisoned (windowMem space).has (cap * bf.toNat + off) len ≠ [] → ∃ b, b < 8 ∧ ∃ e ∈ (t.host.log b).recs,
          e.time = s.clock ∧ e.ctx = 0 ∧ e.kind = if space = 0 then 2 else if space = 1 then 6 else 7) ∧ beats t len ∧
        .bytes h.session h.seq ((List.range len).map fun k => s.byteOf m (cap * bf.toNat + off + k)) ∈ t.host.replies) ∧
      (¬good len → ∃ t, exec (.memrd h space bf off len) s = .next t ∧ answered s t h 8 ∧ onlyHost s t) ∧
      ∀ bytes, len = bytes.length → len ≤ h.len →
        (good len → ∃ t, exec (.memwr h space bf off bytes) s = .next t ∧ answered s t h 0 ∧ sameRegs s t ∧
          sameBytesBut s t m (cap * bf.toNat + off) len ∧ (∀ k, k < len → t.byteOf m (cap * bf.toNat + off + k) = bytes.getD k 0) ∧ t.planes = s.planes ∧
          beats t len ∧ ∀ l ∈ t.poison, l ∈ s.poison) ∧
        (¬good len → ∃ t, exec (.memwr h space bf off bytes) s = .next t ∧ answered s t h 8 ∧ onlyHost s t)) ∧
    (∀ (x : Byte) y (cores : List CoreId) w, s.named x = some y → 9 ≤ h.len →
      ((∃ k ∈ cores, k ∉ y.cores) → ∃ t, exec (.notify h x cores w) s = .next t ∧ answered s t h 7 ∧ onlyHost s t) ∧
      (s.core.id ∈ y.cores → s.core.within y.id = true → s.saved = [] →
        ∃ t, exec (.notify h x [s.core.id] w) s = .next t ∧ answered s t h 0 ∧ sameRegs s t ∧ sameBytes s t ∧ (∃ p ∈ t.core.trap.pend, p.cause = 0x24) ∧
          ((∀ p ∈ s.core.trap.pend, p.cause ≠ 0x24) → ∃ p ∈ t.core.trap.pend, p.cause = 0x24 ∧ p.eval = w))) ∧
    (∀ (bf : Byte) first count, let l := s.host.log bf.toNat
      bf.toNat < 8 →
      ∃ t, exec (.logrd h bf first count) s = .next t ∧ answered s t h 0 ∧ onlyHost s t ∧
        .records h.session h.seq ((l.recs.drop first).take count) ∈ t.host.replies ∧
        ∀ k, (t.host.log bf.toNat).recs[k]? = l.recs[k]?.map fun r => if first ≤ k ∧ k < first + count then { r with read := true } else r) ∧
    (∀ nonce, let q := (match if s.host.copyB then s.host.fwB else s.host.fwA with
          | none => Config.factoryFirmware
          | some p => Memory.readBytes p.1 0 p.2) ++ (List.range 8).flatMap s.host.keyAt ++ s.mix.toList.flatMap (fun v => toBytes 8 v.toNat) ++
        s.host.record.map stepByte ++ s.host.images.flatMap (fun g => g.digest) ++ nonce
      h.len = 32 → nonce.length = 32 → ∃ t salt, exec (.quote h nonce) s = .next t ∧ answered s t h 0 ∧ sameBytes s t ∧
        t = { s with free := t.free, host := t.host } ∧ salt.length = 64 ∧
        .quote h.session h.seq (sha512 q) (pssSign Config.identityKey (sha512 q) salt) Config.certificate ∈ t.host.replies) ∧
    (∀ (slot : Byte) key sig, let good (k : List Byte) : Prop := k ≠ [] ∧ sigVerifies k (slot :: key) sig = true
      1 + key.length + sig.length ≤ h.len →
      let may := (key = [] ∨ rsa4096 (Config.rsaKey key) = true) ∧ (good Config.siradeKey ∨ good (s.host.keys.getD slot.toNat []))
      (1 ≤ slot.toNat → slot.toNat ≤ 7 → may → ∃ t, exec (.keyset h slot key sig) s = .next t ∧ answered s t h 0 ∧ onlyHost s t ∧
        t.host.keys = s.host.keys.setIfInBounds slot.toNat key) ∧
      (slot = 0 ∨ 7 < slot.toNat ∨ ¬may → ∃ t, exec (.keyset h slot key sig) s = .next t ∧ answered s t h 3 ∧ onlyHost s t ∧ t.host.keys = s.host.keys)) ∧
    (∀ off bytes, bytes.length ≤ h.len → ∃ t, exec (.fwupd h off bytes) s = .next t ∧ answered s t h 0 ∧ onlyHost s t ∧ t.host.copyB = s.host.copyB ∧
      (let used (u : HostUnit) : FwCopy := if s.host.copyB then u.fwB else u.fwA
       let idle (u : HostUnit) : FwCopy := if s.host.copyB then u.fwA else u.fwB
       let old := (idle s.host).getD ([], 0)
       used t.host = used s.host ∧ ∃ m n, idle t.host = some (m, n) ∧ (n = if h.last then off + bytes.length else max old.2 (off + bytes.length)) ∧
         (∀ k, k < bytes.length → Memory.byte m (off + k) = bytes.getD k 0) ∧
         ∀ k, k < off ∨ off + bytes.length ≤ k → Memory.byte m k = Memory.byte old.1 k)) ∧
    (∃ t, exec (.clearboot h) s = .next t ∧ answered s t h 0 ∧ onlyHost s t ∧ t.host.record = []) ∧
    (∀ (x : Byte) space bf off bytes cores w slot key sig,
      (h.len = 0 → exec (.kill h x) s = .next s) ∧ (h.len < 9 → exec (.notify h x cores w) s = .next s) ∧
      (h.len < bytes.length → exec (.memwr h space bf off bytes) s = .next s ∧ exec (.fwupd h off bytes) s = .next s) ∧
      (h.len < 1 + key.length + sig.length → exec (.keyset h slot key sig) s = .next s))

/-- R328 to R330, R336, R342 to R347: boot runs its steps as the boot record says and starts or moors the module, marks the dies that fail,
keeps the alternate last used, and uses the firmware copy that verifies; a repeated message is answered again and not done again; a message
of a stranger, or with a header that breaks Table 15-3, is dropped, an ACK too, and so is a fid command that its LEN cannot hold (that a broken header is dropped is the model's choice, log entry
81); a moored module refuses with reason 1; a reset leaves flash and memories alone; an acknowledged notice goes; and what the fid may do
to contexts, dies and cores that stand halted. The refusal reasons of fid commands are the model's reading (log entry 46), and so are what
a reset keeps (log entry 47), what the halt of a die stops (log entry 66) and how a step uses the boot record (log entry 80); the numbers
by which the fid names parts of a core are presumed (log entry 45); that a read empties the trace is its choice (log entry 83); that the host port of a die that executes nothing reads nothing, while the
fid's connector works, is its reading (log entry 100), and so is that a fid command comes with the bytes that it writes (log entry 81). -/
def Obligations.BootResetFid : Prop :=
  (∀ s (r : BootRes), s.host.boot = .off →
    let u := s.host
    let res (n : Nat) : StepRes := ((bootSteps u r).getD (n - 1) {}).res
    let moors := res 1 = .fail ∨ res 2 = .fail ∨ res 8 = .fail
    let byte (t : State) (site : Nat) : Nat := (t.mix.getD (site / 8) 0).toNat / 256 ^ (site % 8) % 256
    let code (site : Nat) : Nat := (Config.siteType site).code.toNat
    let fused (site : Nat) : Prop := ∃ f ∈ u.fuses, f.toNat = site
    ∃ t, exec (.boot r) s = .next t ∧
      t = { s with mix := t.mix, pkgid := t.pkgid, host := { s.host with boot := t.host.boot, record := t.host.record, copyB := t.host.copyB } } ∧
      (moors → t.host.boot = .moored ∧ t.host.copyB = u.copyB) ∧ (¬moors → t.host.boot = .running ∧ (t.host.copyB = true ↔ res 8 = .alternate)) ∧
      (r.rails.1 = true → res 1 = .pass) ∧ (r.rails = (false, false) → res 1 = .fail) ∧
      (r.timing.1 = true → res 2 = .pass) ∧ (r.timing = (false, false) → res 2 = .fail) ∧
      (u.lastRes 8 = .pass → res 8 = if fwVerifies u.fwA then .pass else if fwVerifies u.fwB then .alternate else .fail) ∧
      (u.lastRes 8 = .alternate → res 8 = if fwVerifies u.fwB then .alternate else if fwVerifies u.fwA then .pass else .fail) ∧
      (u.lastRes 8 = .fail → res 8 = if fwVerifies u.fwB then .alternate else .fail) ∧
      (∀ n ∈ [2, 3, 4, 5, 6, 7], ((bootSteps u r).getD n {}).alt = none → (u.record.getD n {}).alt = none) ∧
      (res 1 = .fail ∨ res 2 = .fail → t.mix = s.mix ∧ t.pkgid = s.pkgid) ∧
      (res 1 ≠ .fail → res 2 ≠ .fail → t.pkgid = r.pkg ∧ t.host.record = bootSteps u r ++ u.record.drop 8 ∧
        ∀ site, site < 50 →
          (fused site → byte t site = code site + 16) ∧
          (¬fused site → (∃ p ∈ r.dies, p.1.toNat = site ∧ p.2 = false) → byte t site = code site + 8) ∧
          (¬fused site → (site, 1) ∉ bootMarks u r → (∃ p ∈ r.dies, p.1.toNat = site ∧ p.2 = true) → byte t site = code site + 24) ∧
          (¬fused site → (∀ k, (site, k) ∉ bootMarks u r) → byte t site = code site))) ∧
  (∀ s (h : MsgHdr) k, s.host.boot ≠ .off → s.reads h = true → 1 ≤ h.len → ((s.host.session h).done.find? fun d => d.1 == h.seq) = some (h.seq, k) →
    ∀ i ∈ [Instr.clearboot h, .status h, .reset h, .kill h 1], h.seq.toNat ≠ (s.host.session h).next →
      exec i s = .next (if h.answer then { s with host := { s.host with replies := s.host.replies ++ [.ack h.session h.seq k] } } else s)) ∧
  (∀ s (h : MsgHdr) b r, s.reads h = false → ∀ i ∈ [Instr.clearboot h, .status h, .reset h, .kill h 1, .ack h b r], exec i s = .next s) ∧
  (∀ s (h : MsgHdr) x, s.host.boot = .moored → s.reads h = true → 1 ≤ h.len → (∀ d ∈ (s.host.session h).done, d.1 ≠ h.seq) → h.seq.toNat = (s.host.session h).next →
    (s.host.session h).held = [] → ∀ i ∈ [Instr.kill h x, .clearboot h], ∃ t, exec i s = .next t ∧ answered s t h 1 ∧ onlyHost s t) ∧
  (∀ s (h : MsgHdr), heard s h → ∃ t, exec (.reset h) s = .next t ∧ t.host.boot = .off ∧ t.ctxs = [] ∧ t.others = [] ∧ t.flights = [] ∧ t.core = State.reset.core ∧
    t.host.keys = s.host.keys ∧ t.host.fwA = s.host.fwA ∧ t.host.fwB = s.host.fwB ∧ t.host.record = s.host.record ∧ t.stage = s.stage ∧ t.hbm = s.hbm ∧ t.tier2 = s.tier2 ∧
    (h.answer = true → .ack h.session h.seq 0 ∈ t.host.replies)) ∧
  (∀ s (h : MsgHdr) b r, s.host.boot ≠ .off → s.reads h = true → h.len = 5 → ∃ t, exec (.ack h b r) s = .next t ∧ onlyHost s t ∧ (∀ n ∈ t.host.notices, n.1 ≠ b) ∧ ∀ n ∈ s.host.notices, n.1 ≠ b → n ∈ t.host.notices) ∧
  (∀ (s : State) (h : MsgHdr), s.reads h = true ↔ s.siteStatus 20 = 0 ∧ h.src ∈ s.host.hosts ∧ h.ver = 1 ∧ h.flags.toNat < 4 ∧ h.len + 16 ≤ 8960) ∧
  (∀ s (h : MsgHdr) (c : FidCmd), h.len < c.payload → exec (.fid h c) s = .next s) ∧
  (∀ s (h : MsgHdr), s.host.reads h = true → inTurn s h → let k := s.core.id
    let shows : Core := if s.core.frozen then s.core.vecDone else s.core
    (∀ x y, s.ctxOf x = some y → ∃ t, exec (.fid h (.haltCtx x)) s = .next t ∧ answered s t h 0 ∧ sameRegs s t ∧ sameBytes s t ∧
      ∀ z ∈ t.ctxs, z.id = x → ∃ f ∈ z.freeze, f.1 = .halt) ∧
    (∀ on, ∃ t, exec (.fid h (.session on)) s = .next t ∧ answered s t h 0 ∧ onlyHost s t ∧ t.host.fid = on) ∧
    (∀ x y, s.ctxOf x = some y → ∃ t, exec (.fid h (.killCtx x)) s = .next t ∧ answered s t h 0 ∧ sameRegs s t ∧ sameBytes s t ∧
      ∀ z ∈ t.ctxs, z.id = x → ∃ f ∈ z.freeze, f.1 = .kill) ∧
    (∀ x y, s.ctxOf x = some y → y.phase = .halted → ∃ t, exec (.fid h (.resumeCtx x)) s = .next t ∧ answered s t h 0 ∧ sameRegs s t ∧ sameBytes s t ∧
      (∀ z ∈ t.ctxs, z.id = x → z.phase = .running) ∧
      ∀ c ∈ t.allCores, c.within x = true → c.frozen = false ∧ ∃ p ∈ c.trap.pend, p.cause = 0x23) ∧
    (∀ site : BitVec 6, ∃ t, exec (.fid h (.haltDie site)) s = .next t ∧ answered s t h 0 ∧ sameRegs s t ∧ sameBytes s t ∧
      ∀ c ∈ t.allCores, c.live = true → c.site = site.toNat → c.halted = true ∧ c.trap.detlost = true) ∧
    (∀ site : BitVec 6, ∃ t, exec (.fid h (.resumeDie site)) s = .next t ∧ answered s t h 0 ∧ sameRegs s t ∧ sameBytes s t ∧
      ∀ c ∈ t.allCores, c.live = true → c.site = site.toNat → c.halted = false) ∧
    (s.fidCore k = true →
      (∀ r v, 8 ≤ h.len → ∃ t, exec (.fid h (.writeG k r v)) s = .next t ∧ answered s t h 0 ∧ sameBytes s t ∧
        ∀ q, t.core.g q = if q = r ∧ r ≠ 0 then v else s.core.g q) ∧
      (∀ a w, 4 ≤ h.len → ∃ t, exec (.fid h (.patchText k a w)) s = .next t ∧ answered s t h 0 ∧ sameRegs s t ∧ sameBytes s t ∧
        ∀ n, Store.get 0 t.core.text n = if n = a.toNat then w else Store.get 0 s.core.text n) ∧
      (∀ (e : BitVec 3) a, e ≠ 7 → 2 ≤ h.len → ∃ t, exec (.fid h (.writePc k e a)) s = .next t ∧ answered s t h 0 ∧ sameRegs s t ∧ sameBytes s t ∧
        let taken : Prop := s.core.trap.tl = true ∧ s.core.trap.stopped.getLsbD e.toNat = true ∧ e ≠ 0
        (taken → t.core.trap.epc.getD e.toNat 0 = a) ∧ (¬taken → (t.core.engOf e.toNat).pc = a)) ∧
      (∀ r n, ∀ p ∈ [(FidCmd.readG k r, Reply.word k (shows.g r)), (.readCsr k n, .word k (s.csrRead shows n.toNat)), (.readCore k, .core k shows)],
        ∃ t, exec (.fid h p.1) s = .next t ∧ answered s t h 0 ∧ onlyHost s t ∧ p.2 ∈ t.host.replies) ∧
      (∀ (n : BitVec 13) v, 8 ≤ h.len → ∃ t, exec (.fid h (.writeCsr k n v)) s = .next t ∧ answered s t h 0 ∧ sameBytes s t ∧
        (n = 0x12 → t.core.spr.budget = v.setWidth 32) ∧ (n = 0x4A → s.core.has 2 = true → t.core.trap.epc.getD 2 0 = v.setWidth 16) ∧
        (n = 0x40 → t.core.trap.fidarm = v.getLsbD 7 ∧ t.core.trap.pmode = v.getLsbD 1 ∧ t.core.trap.mode = s.core.trap.mode) ∧
        (n = 0x48 → s.core.trap.tl = false → (t.core.engOf 0).pc = v.setWidth 16)) ∧
      (∀ u i vs, FidUnit.width u * vs.length ≤ h.len → ∃ t, exec (.fid h (.writeUnit k u i vs)) s = .next t ∧ answered s t h 0 ∧ sameRegs s t ∧ sameBytes s t ∧
        (∀ v, vs = [v] → i < 16384 →
          (u = .acc → ∀ j, Store.get 0 t.core.mtx.acc j = if j = i then v.setWidth 32 else Store.get 0 s.core.mtx.acc j) ∧
          (u = .tile → ∀ j, Store.get 0 t.core.mtx.tile j = if j = i then v.setWidth 32 else Store.get 0 s.core.mtx.tile j) ∧
          (u = .vreg → ∀ j, Store.get 0 t.core.vec.v j = if j = i then v.setWidth 32 else Store.get 0 s.core.vec.v j) ∧
          (u = .handle → ∀ x : HReg, i = 7 * x.toNat + 4 → t.core.hnd x = { s.core.hnd x with fill := v.toNat }) ∧
          (u = .channel → ∀ ch, ch < 8 → i = 21 * ch + 20 → t.core.ch ch = { s.core.ch ch with status := v })) ∧
        (u = .fq → t.core.mtx.fq = vs.take 16) ∧ (u = .dq → vs = [] → t.core.vec.dq = []) ∧
        (∀ v, vs = [v] → (u = .check → i = 1 → t.core.mtx.mismCnt = v.toNat % 256) ∧
          (u = .engine → ∀ e, e < 7 → (i = 32 * e → (t.core.engOf e).mode = v.setWidth 4) ∧ (i = 32 * e + 1 → (t.core.engOf e).late = v.setWidth 16)) ∧
          (u = .count → t.core.stepRel = v.toNat)) ∧
        (u = .gvc → t.core.mtx.gvc = if vs = [] then none else gvcOf (vs.getD 0 0) (vs.getD 1 0)) ∧
        (u = .twc → t.core.mtx.twc = if vs = [] then none else twcOf (vs.getD 0 0) (vs.getD 1 0) ((vs.getD 2 0).getLsbD 0)) ∧
        (u = .bind → ∀ ch, ch < 8 → i = ch → (t.core.ch ch).sched = if vs = [] then none else
          some { addr := vs.getD 0 0, count := (vs.getD 1 0).toNat, next := (vs.getD 2 0).toNat }) ∧
        (u = .log → ∀ a v p : Dword, vs = [a, v, p] →
          t.core.ctl.log = [{ reg := a.setWidth 5, val := v, df := a.getLsbD 8, pos := p.toNat, tag := none }])) ∧
      (∀ (a : Dword) n, a.toNat < 2 ^ 24 → a.toNat + n ≤ s.core.size → ∃ t, exec (.fid h (.readMem k a n)) s = .next t ∧ answered s t h 0 ∧
        onlyHost s t ∧ .memory k a ((List.range n).map fun j => s.byteOf .scratch (a.toNat + j)) ∈ t.host.replies) ∧
      (∀ (a : Dword) bs, a.toNat < 2 ^ 24 → a.toNat + bs.length ≤ s.core.size → bs.length ≤ h.len → ∃ t, exec (.fid h (.writeMem k a bs)) s = .next t ∧
        answered s t h 0 ∧ sameRegs s t ∧ sameBytesBut s t .scratch a.toNat bs.length ∧
        ∀ j, j < bs.length → t.byteOf .scratch (a.toNat + j) = bs.getD j 0)) ∧
    (s.fidCore k = false → 8 ≤ h.len → ∀ r n a (v : Dword) w, ∀ c ∈ [FidCmd.readG k r, .writeG k r v, .readCsr k n, .readCore k, .patchText k a w, .writePc k 0 a],
      ∃ t, exec (.fid h c) s = .next t ∧ answered s t h 7 ∧ onlyHost s t) ∧
    (∃ t, exec (.fid h (.readTrace k)) s = .next t ∧ answered s t h 0 ∧ .trace k s.core.trace ∈ t.host.replies ∧ t.core.trace = [] ∧ sameRegs s t) ∧
    (∀ on, ∃ t, exec (.fid h (.trace k on)) s = .next t ∧ answered s t h 0 ∧ t.core.tracing = on ∧ sameRegs s t ∧ sameBytes s t))

/-! ### Chapter 2: decoding; sound states -/

/-- R27, R28, R38, Tables 2-2 to 2-6: every instruction that has an encoding, with every value of its operands whose selectors are assigned
and whose unused fields are zero, is what its own word decodes to. -/
def Obligations.DecodeEncode : Prop :=
  ∀ i : Instr, i.isWord = true → i.selectorOk = true → i.unusedZero = true → decode (encode i) = .ok i

/-- Tables 2-2 to 2-15 on words written out by hand: one or two of each engine, an unassigned OP, an unassigned fn, a reserved bit. The
LPUSH word is the one that the tables give, against the number that the manual prints beside its example (log entry 21). -/
def Obligations.DecodeWords : Prop :=
  decode 0x0094C700 = .ok (.add 5 6 7) ∧ decode 0x05140091 = .ok (.lui 5 0x91) ∧ decode 0x010C0002 = .ok (.addi 3 0 2) ∧
  decode 0x068C1FFE = .ok (.bne 3 0 0x1FFE) ∧ decode 0x18000005 = .ok (.trap 5) ∧ decode 0x22102003 = .ok (.mgo 2 1 1 1) ∧
  decode 0x42091800 = .ok (.vadd 1 2 3) ∧ decode 0x61A12A1A = .ok (.cgo 8 9 10 0 0 3 2) ∧ decode 0x80902580 = .ok (.lpush 2 1 5 1) ∧
  decode 0xA1082600 = .ok (.gthr 1 1 6) ∧ decode 0xC1212A00 = .ok (.cred 8 9 10 0 0 0) ∧ decode 0xE180000A = .ok (.fenceM 0xA) ∧
  decode 0xE100001B = .ok (.bar 0 3 3) ∧ decode 0xE2000000 = .ok .exit ∧ decode 0xFFFFFFFF = .ok (.unassignedOpcode 0xFFFFFFFF) ∧
  decode 0x0094C70E = .error .badSelector ∧ decode 0xE2000001 = .error .reservedNonzero

/-- What runs leave standing: TWIN is a size that R35 admits and VSH a shape that R255 admits, on every core, and so are the
TWIN values of the images that are to be loaded (R62). -/
def Claims.Sound (s : State) : Prop :=
  (∀ c, c = s.core ∨ c ∈ s.others ∨ c ∈ s.saved → 8 ≤ c.spr.twin.toNat ∧ c.spr.twin.toNat ≤ 4096 ∧ shapeOk c) ∧
  ∀ g ∈ s.host.images, 8 ≤ g.twin ∧ g.twin ≤ 4096

/-- R20, R75, R311, R318, R342, Tables 9-1 and 12-1: what stands after reset, and what a core holds when the loader has set it up: g2 is
the size of its local scratch and every other register zero, unmarked; the handler addresses, budget and window as the image and the
launch record have them; no handle defined but the rings of the variant; matrix and vector state at their reset values. That the
registers of the core stand at these values before any loading, and that every memory reads zero then, is the model's own choice (log entries
2 and 1); the entry address is the low 16 bits of the field that gives it (log entry 71). -/
def Obligations.ResetState : Prop :=
  (let s := State.reset
   s.host.boot = .off ∧ s.ctxs = [] ∧ s.core.live = false ∧ s.others = [] ∧ s.saved = [] ∧ s.flights = [] ∧ s.host.notices = [] ∧
   s.host.launches = [] ∧ s.host.images = [] ∧ Claims.Sound s ∧ s.memWf ∧ (∀ m a, s.byteOf m a = 0) ∧
   (∀ r, s.core.g r = (if r = 2 then 0x400000 else 0) ∧ s.core.df r = false) ∧ s.core.spr.twin = 256 ∧ s.core.trap.svec = 63488) ∧
  (∀ (b : Binding) r img v x, let c := b.start r img v x
    let size := (Config.siteType (b.core.toNat / 16)).scratch
    c.id = b.core ∧ c.ctx = x ∧ c.live = true ∧ c.now = 0 ∧
    (∀ k, c.g k = (if k = 2 then BitVec.ofNat 64 size else 0) ∧ c.df k = false) ∧
    (∀ e, e < 7 → (c.engOf e).pc = BitVec.ofNat 16 (img.sections.getD b.sect {}).entry ∧ (c.engOf e).mode = 0 ∧ (c.engOf e).late = b.late ∧
      (c.engOf e).stop = none ∧ (c.engOf e).lateMax = 0) ∧
    c.trap.mode = false ∧ c.trap.tl = false ∧ c.trap.pmask = false ∧ c.trap.fidarm = false ∧ c.trap.svec = 63488 ∧
    c.trap.uvec = BitVec.ofNat 16 (img.sections.getD b.sect {}).utrap ∧
    (∀ k, c.trap.tdeleg.getLsbD k = (r.deleg.getLsbD k && !(k == 2 || k == 3 || k == 0x22 || k == 0x25))) ∧
    c.spr.budget = b.budget ∧ c.spr.level = r.plevel ∧ c.spr.stepcnt = 0 ∧
    (∀ h, (∀ q ∈ v.rings, q.core = b.core → q.h ≠ h) → c.hnd h = {}) ∧ c.mtx = {} ∧ c.vec = {} ∧ c.scratch = [] ∧ c.wstack = [])

/-- R35, R255: every step, of any state, keeps the window sizes and the shapes within what the rules admit. -/
def Obligations.StepKeepsSound : Prop :=
  ∀ s t : State, Claims.Sound s → step s = .next t → Claims.Sound t

/-- Every step, of any state, keeps every memory in its canonical form: addresses rising, and no entry that reads as an unlisted one. -/
def Obligations.StepKeepsMemories : Prop :=
  ∀ s t : State, s.memWf → step s = .next t → t.memWf
end

