-- ==== Sys2Proof/Laws/Encode.lean ====
section
/-! SUPPORT. Encode.lean: fields of a word built by appending fields. -/
namespace Sys2Proof

/-- A field above the last part of a word is a field of the rest. -/
theorem extract_hi {n m : Nat} (x : BitVec n) (y : BitVec m) (s l : Nat) (h : m ≤ s) :
    BitVec.extractLsb' s l (x ++ y) = BitVec.extractLsb' (s - m) l x := by
  apply BitVec.eq_of_getLsbD_eq
  intro i hi
  have h1 : ¬ s + i < m := by omega
  have h2 : s + i - m = s - m + i := by omega
  simp [BitVec.getLsbD_append, h1, h2]

/-- A field within the last part of a word is a field of that part. -/
theorem extract_lo {n m : Nat} (x : BitVec n) (y : BitVec m) (s l : Nat) (h : s + l ≤ m) :
    BitVec.extractLsb' s l (x ++ y) = BitVec.extractLsb' s l y := by
  apply BitVec.eq_of_getLsbD_eq
  intro i hi
  have h1 : s + i < m := by omega
  simp [BitVec.getLsbD_append, h1]

/-- The whole of a field. -/
theorem extract_all {n : Nat} (x : BitVec n) : BitVec.extractLsb' 0 n x = x := by
  apply BitVec.eq_of_getLsbD_eq
  intro i hi
  simp [hi]

/-- The engine of each instruction's words, by Table 2-1; an event belongs to CTL's core. -/
def Instr.engNum : Instr → BitVec 3
  | .mnest _ _ _ _ | .mnestc _ _ _ | .mbase _ _ _ | .mgo _ _ _ _ | .mdrain _ _ _ _ _ | .mdrainAuto _ _ _ _ | .mldt _ _ _ _ |
    .mstt _ _ _ _ | .mtrn _ _ _ _ _ _ | .mact _ _ | .mtwc _ _ _ | .mbfly _ _ _ _ | .mdrev _ _ _ | .mtexpSet _ _ |
    .mtexpAdd _ _ | .mtexpSt _ | .mgvcfg _ _ | .mgvr _ _ _ _ _ | .mchkr _ _ | .mdropkKey _ _ | .mdropkCtr _ _ | .mdropkThr _ _ |
    .mres _ _ _ | .mclra => 1
  | .vshape _ _ | .vldq _ _ _ | .vstq _ _ _ _ _ | .vadd _ _ _ | .vsub _ _ _ | .vmul _ _ _ | .vmin _ _ _ | .vmax _ _ _ |
    .viadd _ _ _ | .visub _ _ _ | .vimul _ _ _ | .vand _ _ _ | .vor _ _ _ | .vxor _ _ _ | .vshl _ _ _ | .vshr _ _ _ |
    .vfma _ _ _ _ | .vneg _ _ | .vabs _ _ | .vrcp _ _ | .vrsq _ _ | .vsqrt _ _ | .vexp2 _ _ | .vlog2 _ _ | .vsinp _ _ |
    .vfloor _ _ | .vcvt _ _ _ _ | .vqbx _ _ _ _ | .vdqbx _ _ _ | .vpack _ _ _ _ | .vunpk _ _ _ _ | .vcmp _ _ _ _ _ |
    .vsel _ _ _ _ _ | .vredSumRow _ _ | .vredMaxRow _ _ | .vredMinRow _ _ | .vredSumCol _ _ | .vredMaxCol _ _ |
    .vredMinCol _ _ | .vredSumAll _ _ | .vredMaxAll _ _ | .vredMinAll _ _ | .vbcast _ _ _ | .vxdef _ _ _ | .vexpr _ _ |
    .vdefer _ _ _ | .vdrain _ _ _ | .vdret _ _ _ | .vrng _ _ | .vrngkKey _ _ | .vrngkCtr _ _ | .vrngkAdd _ _ | .vrngkSave _ |
    .vgrpc _ _ _ _ _ | .viota _ _ | .vperm _ _ _ | .vtrn _ _ | .vamxr => 2
  | .cgeo _ _ _ _ _ | .clay _ _ _ | .cgo _ _ _ _ _ _ _ | .csched _ _ _ | .cadv _ _ | .cpage _ _ _ _ _ | .cstop _ |
    .cfill _ _ _ _ _ _ => 3
  | .lpush _ _ _ _ | .lslot _ | .lslotRel _ | .lput _ _ _ | .lget _ _ _ | .lsig _ _ | .laadd _ _ _ _ | .laswp _ _ _ _ |
    .lacas _ _ _ _ | .lamin _ _ _ _ | .lamax _ _ _ _ | .laand _ _ _ _ | .laor _ _ _ _ | .laxor _ _ _ _ | .lwsig _ _ _ |
    .lquiet => 4
  | .gtab _ _ _ _ _ _ | .gthr _ _ _ | .gsum _ _ _ => 5
  | .cgrp _ _ _ | .cred _ _ _ _ _ _ | .crsc _ _ _ _ _ _ | .callg _ _ _ _ _ | .cbc _ _ _ _ _ => 6
  | .step _ _ _ | .bar _ _ _ | .fenceM _ | .fpcw _ _ _ | .latew _ _ | .budg _ | .bndset _ _ _ _ | .mark _ | .exit => 7
  | .unassignedOpcode w => engField w
  | _ => 0

set_option maxHeartbeats 4000000 in
/-- An instruction's word names its engine. -/
@[simp] theorem Instr.eng_eq (i : Instr) : i.eng = i.engNum := by
  cases i <;> unfold Instr.eng engField encode Instr.engNum <;> dsimp only <;>
    (repeat rw [extract_hi _ _ _ _ (by decide)]) <;> rfl

end Sys2Proof
end

