-- ==== Sys2Proof/Laws/Regs.lean ====
section
/-! SUPPORT. Regs.lean: what writing a register, moving an engine and issuing a word change, and what they leave. -/
namespace Sys2Proof.Machine

/-! ### Bits and vectors -/

theorem getLsbD_putBit {n : Nat} (x : BitVec n) (i j : Nat) (b : Bool) (h : i < n) :
    (putBit x i b).getLsbD j = if j = i then b else x.getLsbD j := by
  have e : (BitVec.ofNat n (2 ^ i)).getLsbD j = (decide (j < n) && decide (i = j)) := by
    rw [BitVec.getLsbD_ofNat, Nat.testBit_two_pow]
  unfold putBit
  cases b
  · rw [if_neg (by decide), BitVec.getLsbD_and, BitVec.getLsbD_not, e]
    by_cases hj : j = i
    · subst hj; rw [if_pos rfl]; simp only [h, decide_true, Bool.and_self, Bool.not_true, Bool.and_false]
    · rw [if_neg hj, decide_eq_false (Ne.symm hj), Bool.and_false, Bool.not_false, Bool.and_true]
      by_cases hn : j < n
      · rw [decide_eq_true hn, Bool.and_true]
      · rw [decide_eq_false hn, Bool.and_false, BitVec.getLsbD_of_ge x j (by omega)]
  · rw [if_pos rfl, BitVec.getLsbD_or, e]
    by_cases hj : j = i
    · subst hj; rw [if_pos rfl, decide_eq_true h, decide_eq_true rfl, Bool.and_self, Bool.or_true]
    · rw [if_neg hj, decide_eq_false (Ne.symm hj), Bool.and_false, Bool.or_false]

theorem vector_getD_set {α : Type} {n : Nat} (v : Vector α n) (i j : Nat) (x d : α) :
    (v.setIfInBounds i x).getD j d = if i = j ∧ i < n then x else v.getD j d := by
  simp only [Vector.getD]
  by_cases hj : j < n <;> simp [hj] <;> grind

/-! ### Engines -/

theorem engOf_setEng (c : Core) (e n : Nat) (x : Engine) :
    (c.setEng e x).engOf n = if e = n ∧ e < 7 then x else c.engOf n := by
  simp [Core.setEng, Core.engOf, vector_getD_set]

theorem engOf_modEng (c : Core) (e n : Nat) (f : Engine → Engine) :
    (c.modEng e f).engOf n = if e = n ∧ e < 7 then f (c.engOf e) else c.engOf n := by
  simp [Core.modEng, engOf_setEng]

theorem modEng_eq (c : Core) (e : Nat) (f : Engine → Engine) : c.modEng e f = { c with eng := (c.modEng e f).eng } := rfl

/-! ### General registers -/

theorem g_writeG (c : Core) (d r : GReg) (v : Dword) (m : Bool) (k : Nat) :
    (c.writeG d v m k).g r = if r = d ∧ d ≠ 0 then v else c.g r := by
  unfold Core.writeG
  by_cases hd : d = 0
  · simp [hd]
  · have hlt : d.toNat < 32 := d.isLt
    simp only [hd, if_false, Core.g, vector_getD_set]
    by_cases hr : r = d
    · subst hr
      have h0 : ¬ r = 0#5 := hd
      simp [h0, hlt]
    · have : d.toNat ≠ r.toNat := fun h => hr (BitVec.eq_of_toNat_eq h.symm)
      simp [hr, this]

theorem df_writeG (c : Core) (d r : GReg) (v : Dword) (m : Bool) (k : Nat) :
    (c.writeG d v m k).df r = if r = d ∧ d ≠ 0 then m else c.df r := by
  unfold Core.writeG
  by_cases hd : d = 0
  · simp [hd]
  · have hlt : d.toNat < 32 := d.isLt
    simp only [hd, if_false, Core.df, getLsbD_putBit _ _ _ _ hlt]
    by_cases hr : r = d
    · subst hr
      have h0 : ¬ r = 0#5 := hd
      simp [h0]
    · have : r.toNat ≠ d.toNat := fun h => hr (BitVec.eq_of_toNat_eq h)
      simp [hr, this]

end Sys2Proof.Machine
end

