-- ==== Sys2Proof/Laws/Ctl.lean ====
section
/-! SUPPORT. Ctl.lean: what issuing a CTL word does, said once. -/
namespace Sys2Proof.Machine

theorem gate_clear (i : Instr) (s : State) (r : Out) (h : decodeFault s i = none) : gate i s r = r := by
  simp [gate, h]

theorem logged_fits (s : State) (d : GReg) (n : Nat) (r : Out)
    (h : d = 0 ∨ s.core.loggedHere d = true ∨ s.core.logRoom n = true) : logged s d n r = r := by
  unfold logged
  rcases h with h | h | h <;> simp [h]

theorem unmarked_none (s : State) (e : Nat) (rs : List GReg) (r : Out) (h : s.core.firstMarked e rs = none) :
    unmarked s e rs r = r := by simp [unmarked, h]

theorem powered_fits (s : State) (e : Nat) (i : Instr) (r : Out) (h : e ≠ 0 → s.core.excess (addedDraw e i) = none) :
    powered s e i r = r := by
  unfold powered
  cases hx : s.core.excess (addedDraw e i) with
  | none => rfl
  | some d =>
    by_cases he : e = 0
    · simp [he]
    · rw [h he] at hx; cases hx

/-- A word whose fields name something runs on, on a die that has its engine, when its dynamic check holds. -/
theorem decodeFault_none (s : State) (i : Instr) (he : i.eng = 7 ∨ s.core.has i.eng.toNat = true) (h1 : i.selectorOk = true)
    (h2 : i.unusedZero = true) (h3 : i.operandOk = true) (h4 : dynFault s i = none) (h0 : noOp i = false) :
    decodeFault s i = none := by
  rcases he with he | he
  · rw [decodeFault, he]; simp [h0, h1, h2, h3, h4]
  · rw [decodeFault, he]; simp [h0, h1, h2, h3, h4]

/-! ### Issue -/

@[simp] theorem g_setEng (c : Core) (e : Nat) (x : Engine) (r : GReg) : (c.setEng e x).g r = c.g r := rfl
@[simp] theorem df_setEng (c : Core) (e : Nat) (x : Engine) (r : GReg) : (c.setEng e x).df r = c.df r := rfl
@[simp] theorem g_modEng (c : Core) (e : Nat) (f : Engine → Engine) (r : GReg) : (c.modEng e f).g r = c.g r := rfl
@[simp] theorem df_modEng (c : Core) (e : Nat) (f : Engine → Engine) (r : GReg) : (c.modEng e f).df r = c.df r := rfl
@[simp] theorem g_issue (c : Core) (e k w : Nat) (r : GReg) : (c.issue e k w).g r = c.g r := rfl
@[simp] theorem df_issue (c : Core) (e k w : Nat) (r : GReg) : (c.issue e k w).df r = c.df r := rfl
@[simp] theorem g_toRetire (c : Core) (k : Nat) (t : Option Nat) (o : Option Outc) (r : GReg) : (c.toRetire k t o).g r = c.g r := rfl
@[simp] theorem df_toRetire (c : Core) (k : Nat) (t : Option Nat) (o : Option Outc) (r : GReg) : (c.toRetire k t o).df r = c.df r := rfl
@[simp] theorem eng_toRetire (c : Core) (k : Nat) (t : Option Nat) (o : Option Outc) : (c.toRetire k t o).eng = c.eng := rfl
@[simp] theorem engOf_toRetire (c : Core) (k : Nat) (t : Option Nat) (o : Option Outc) (n : Nat) :
    (c.toRetire k t o).engOf n = c.engOf n := by simp [Core.engOf]
@[simp] theorem eng_writeG (c : Core) (d : GReg) (v : Dword) (m : Bool) (k : Nat) : (c.writeG d v m k).eng = c.eng := by
  unfold Core.writeG; split <;> rfl
@[simp] theorem engOf_writeG (c : Core) (d : GReg) (v : Dword) (m : Bool) (k n : Nat) :
    (c.writeG d v m k).engOf n = c.engOf n := by simp [Core.engOf]

@[simp] theorem ready_toRetire (c : Core) (k : Nat) (t : Option Nat) (o : Option Outc) :
    (c.toRetire k t o).ctl.ready = c.ctl.ready := rfl
theorem ready_writeG (c : Core) (d : GReg) (v : Dword) (m : Bool) (k : Nat) (h : d ≠ 0) :
    (c.writeG d v m k).ctl.ready.getD d.toNat 0 = k := by
  unfold Core.writeG
  have hb : d.toNat < 32 := d.isLt
  simp only [h, if_false, vector_getD_set, hb, and_true, if_true]
/-- What retiring a word of CTL touches. -/
theorem toRetire_eq (c : Core) (k : Nat) (t : Option Nat) (o : Option Outc) :
    c.toRetire k t o = { c with ctl := (c.toRetire k t o).ctl } := rfl
/-- What writing a register touches. -/
theorem writeG_eq (c : Core) (d : GReg) (v : Dword) (m : Bool) (k : Nat) :
    c.writeG d v m k = { c with ctl := (c.writeG d v m k).ctl } := by
  unfold Core.writeG; split <;> rfl
/-- What issuing a word touches. -/
theorem issue_eq (c : Core) (e k w : Nat) : c.issue e k w = { c with eng := (c.issue e k w).eng } := rfl

/-- The engines after a word of engine e has issued: e stands at the next word, with its modes as they were. -/
theorem issue_other (c : Core) (e k w n : Nat) (h : n ≠ e) : (c.issue e k w).engOf n = c.engOf n := by
  simp [Core.issue, Core.goTo, Core.issueAs, engOf_modEng, Ne.symm h]
theorem issue_at (c : Core) (e k w : Nat) (h : e < 7) :
    let y := (c.issue e k w).engOf e
    let x := c.engOf e
    y.pc = x.pc + 1 ∧ y.mode = x.mode ∧ y.bnd = x.bnd ∧ y.late = x.late ∧ y.stop = x.stop ∧ y.exited = x.exited ∧
    y.lastCause = x.lastCause ∧ y.outcomes = x.outcomes := by
  simp [Core.issue, Core.goTo, Core.issueAs, engOf_modEng, h]

end Sys2Proof.Machine
end

