-- ==== Sys2Proof/Laws/Dispatch.lean ====
section
/-! SUPPORT. Dispatch.lean: exec of each constructor is its meaning. -/
namespace Sys2Proof.Machine

@[simp] theorem exec_ill (n : BitVec 23) (z : State) : exec (.ill n) z = execIll n z := rfl
@[simp] theorem exec_add (d : BitVec 5) (a : BitVec 5) (b : BitVec 5) (z : State) : exec (.add d a b) z = execAdd d a b z := rfl
@[simp] theorem exec_sub (d : BitVec 5) (a : BitVec 5) (b : BitVec 5) (z : State) : exec (.sub d a b) z = execSub d a b z := rfl
@[simp] theorem exec_and (d : BitVec 5) (a : BitVec 5) (b : BitVec 5) (z : State) : exec (.and d a b) z = execAnd d a b z := rfl
@[simp] theorem exec_or (d : BitVec 5) (a : BitVec 5) (b : BitVec 5) (z : State) : exec (.or d a b) z = execOr d a b z := rfl
@[simp] theorem exec_xor (d : BitVec 5) (a : BitVec 5) (b : BitVec 5) (z : State) : exec (.xor d a b) z = execXor d a b z := rfl
@[simp] theorem exec_sll (d : BitVec 5) (a : BitVec 5) (b : BitVec 5) (z : State) : exec (.sll d a b) z = execSll d a b z := rfl
@[simp] theorem exec_srl (d : BitVec 5) (a : BitVec 5) (b : BitVec 5) (z : State) : exec (.srl d a b) z = execSrl d a b z := rfl
@[simp] theorem exec_sra (d : BitVec 5) (a : BitVec 5) (b : BitVec 5) (z : State) : exec (.sra d a b) z = execSra d a b z := rfl
@[simp] theorem exec_slt (d : BitVec 5) (a : BitVec 5) (b : BitVec 5) (z : State) : exec (.slt d a b) z = execSlt d a b z := rfl
@[simp] theorem exec_sltn (d : BitVec 5) (a : BitVec 5) (b : BitVec 5) (z : State) : exec (.sltn d a b) z = execSltn d a b z := rfl
@[simp] theorem exec_min (d : BitVec 5) (a : BitVec 5) (b : BitVec 5) (z : State) : exec (.min d a b) z = execMin d a b z := rfl
@[simp] theorem exec_max (d : BitVec 5) (a : BitVec 5) (b : BitVec 5) (z : State) : exec (.max d a b) z = execMax d a b z := rfl
@[simp] theorem exec_minn (d : BitVec 5) (a : BitVec 5) (b : BitVec 5) (z : State) : exec (.minn d a b) z = execMinn d a b z := rfl
@[simp] theorem exec_maxn (d : BitVec 5) (a : BitVec 5) (b : BitVec 5) (z : State) : exec (.maxn d a b) z = execMaxn d a b z := rfl
@[simp] theorem exec_mul (d : BitVec 5) (a : BitVec 5) (b : BitVec 5) (z : State) : exec (.mul d a b) z = execMul d a b z := rfl
@[simp] theorem exec_mulh (d : BitVec 5) (a : BitVec 5) (b : BitVec 5) (z : State) : exec (.mulh d a b) z = execMulh d a b z := rfl
@[simp] theorem exec_mulhn (d : BitVec 5) (a : BitVec 5) (b : BitVec 5) (z : State) : exec (.mulhn d a b) z = execMulhn d a b z := rfl
@[simp] theorem exec_div (d : BitVec 5) (a : BitVec 5) (b : BitVec 5) (z : State) : exec (.div d a b) z = execDiv d a b z := rfl
@[simp] theorem exec_divn (d : BitVec 5) (a : BitVec 5) (b : BitVec 5) (z : State) : exec (.divn d a b) z = execDivn d a b z := rfl
@[simp] theorem exec_rem (d : BitVec 5) (a : BitVec 5) (b : BitVec 5) (z : State) : exec (.rem d a b) z = execRem d a b z := rfl
@[simp] theorem exec_remn (d : BitVec 5) (a : BitVec 5) (b : BitVec 5) (z : State) : exec (.remn d a b) z = execRemn d a b z := rfl
@[simp] theorem exec_clz (d : BitVec 5) (a : BitVec 5) (z : State) : exec (.clz d a) z = execClz d a z := rfl
@[simp] theorem exec_ctz (d : BitVec 5) (a : BitVec 5) (z : State) : exec (.ctz d a) z = execCtz d a z := rfl
@[simp] theorem exec_popc (d : BitVec 5) (a : BitVec 5) (z : State) : exec (.popc d a) z = execPopc d a z := rfl
@[simp] theorem exec_addi (d : BitVec 5) (a : BitVec 5) (i : BitVec 13) (z : State) : exec (.addi d a i) z = execAddi d a i z := rfl
@[simp] theorem exec_andi (d : BitVec 5) (a : BitVec 5) (i : BitVec 13) (z : State) : exec (.andi d a i) z = execAndi d a i z := rfl
@[simp] theorem exec_ori (d : BitVec 5) (a : BitVec 5) (i : BitVec 13) (z : State) : exec (.ori d a i) z = execOri d a i z := rfl
@[simp] theorem exec_xori (d : BitVec 5) (a : BitVec 5) (i : BitVec 13) (z : State) : exec (.xori d a i) z = execXori d a i z := rfl
@[simp] theorem exec_slli (d : BitVec 5) (a : BitVec 5) (s : BitVec 6) (z : State) : exec (.slli d a s) z = execSlli d a s z := rfl
@[simp] theorem exec_srli (d : BitVec 5) (a : BitVec 5) (s : BitVec 6) (z : State) : exec (.srli d a s) z = execSrli d a s z := rfl
@[simp] theorem exec_srai (d : BitVec 5) (a : BitVec 5) (s : BitVec 6) (z : State) : exec (.srai d a s) z = execSrai d a s z := rfl
@[simp] theorem exec_slti (d : BitVec 5) (a : BitVec 5) (i : BitVec 13) (z : State) : exec (.slti d a i) z = execSlti d a i z := rfl
@[simp] theorem exec_lui (d : BitVec 5) (i : BitVec 18) (z : State) : exec (.lui d i) z = execLui d i z := rfl
@[simp] theorem exec_sloi (d : BitVec 5) (a : BitVec 5) (i : BitVec 13) (z : State) : exec (.sloi d a i) z = execSloi d a i z := rfl
@[simp] theorem exec_beq (a : BitVec 5) (b : BitVec 5) (o : BitVec 13) (z : State) : exec (.beq a b o) z = execBeq a b o z := rfl
@[simp] theorem exec_bne (a : BitVec 5) (b : BitVec 5) (o : BitVec 13) (z : State) : exec (.bne a b o) z = execBne a b o z := rfl
@[simp] theorem exec_blt (a : BitVec 5) (b : BitVec 5) (o : BitVec 13) (z : State) : exec (.blt a b o) z = execBlt a b o z := rfl
@[simp] theorem exec_bge (a : BitVec 5) (b : BitVec 5) (o : BitVec 13) (z : State) : exec (.bge a b o) z = execBge a b o z := rfl
@[simp] theorem exec_bltn (a : BitVec 5) (b : BitVec 5) (o : BitVec 13) (z : State) : exec (.bltn a b o) z = execBltn a b o z := rfl
@[simp] theorem exec_bgen (a : BitVec 5) (b : BitVec 5) (o : BitVec 13) (z : State) : exec (.bgen a b o) z = execBgen a b o z := rfl
@[simp] theorem exec_jal (d : BitVec 5) (o : BitVec 18) (z : State) : exec (.jal d o) z = execJal d o z := rfl
@[simp] theorem exec_jalr (d : BitVec 5) (a : BitVec 5) (i : BitVec 13) (z : State) : exec (.jalr d a i) z = execJalr d a i z := rfl
@[simp] theorem exec_ldb (d : BitVec 5) (a : BitVec 5) (i : BitVec 13) (z : State) : exec (.ldb d a i) z = execLdb d a i z := rfl
@[simp] theorem exec_ldbn (d : BitVec 5) (a : BitVec 5) (i : BitVec 13) (z : State) : exec (.ldbn d a i) z = execLdbn d a i z := rfl
@[simp] theorem exec_ldh (d : BitVec 5) (a : BitVec 5) (i : BitVec 13) (z : State) : exec (.ldh d a i) z = execLdh d a i z := rfl
@[simp] theorem exec_ldhn (d : BitVec 5) (a : BitVec 5) (i : BitVec 13) (z : State) : exec (.ldhn d a i) z = execLdhn d a i z := rfl
@[simp] theorem exec_ldw (d : BitVec 5) (a : BitVec 5) (i : BitVec 13) (z : State) : exec (.ldw d a i) z = execLdw d a i z := rfl
@[simp] theorem exec_ldwn (d : BitVec 5) (a : BitVec 5) (i : BitVec 13) (z : State) : exec (.ldwn d a i) z = execLdwn d a i z := rfl
@[simp] theorem exec_ldd (d : BitVec 5) (a : BitVec 5) (i : BitVec 13) (z : State) : exec (.ldd d a i) z = execLdd d a i z := rfl
@[simp] theorem exec_ldo (d : BitVec 5) (a : BitVec 5) (i : BitVec 13) (z : State) : exec (.ldo d a i) z = execLdo d a i z := rfl
@[simp] theorem exec_lds (d : BitVec 5) (a : BitVec 5) (i : BitVec 13) (z : State) : exec (.lds d a i) z = execLds d a i z := rfl
@[simp] theorem exec_chk (a : BitVec 5) (o : BitVec 13) (z : State) : exec (.chk a o) z = execChk a o z := rfl
@[simp] theorem exec_stb (s : BitVec 5) (a : BitVec 5) (i : BitVec 13) (z : State) : exec (.stb s a i) z = execStb s a i z := rfl
@[simp] theorem exec_sth (s : BitVec 5) (a : BitVec 5) (i : BitVec 13) (z : State) : exec (.sth s a i) z = execSth s a i z := rfl
@[simp] theorem exec_stw (s : BitVec 5) (a : BitVec 5) (i : BitVec 13) (z : State) : exec (.stw s a i) z = execStw s a i z := rfl
@[simp] theorem exec_std (s : BitVec 5) (a : BitVec 5) (i : BitVec 13) (z : State) : exec (.std s a i) z = execStd s a i z := rfl
@[simp] theorem exec_aadd (d : BitVec 5) (a : BitVec 5) (b : BitVec 5) (w : BitVec 1) (z : State) : exec (.aadd d a b w) z = execAadd d a b w z := rfl
@[simp] theorem exec_aswp (d : BitVec 5) (a : BitVec 5) (b : BitVec 5) (w : BitVec 1) (z : State) : exec (.aswp d a b w) z = execAswp d a b w z := rfl
@[simp] theorem exec_acas (d : BitVec 5) (a : BitVec 5) (b : BitVec 5) (w : BitVec 1) (z : State) : exec (.acas d a b w) z = execAcas d a b w z := rfl
@[simp] theorem exec_amin (d : BitVec 5) (a : BitVec 5) (b : BitVec 5) (w : BitVec 1) (z : State) : exec (.amin d a b w) z = execAmin d a b w z := rfl
@[simp] theorem exec_amax (d : BitVec 5) (a : BitVec 5) (b : BitVec 5) (w : BitVec 1) (z : State) : exec (.amax d a b w) z = execAmax d a b w z := rfl
@[simp] theorem exec_aand (d : BitVec 5) (a : BitVec 5) (b : BitVec 5) (w : BitVec 1) (z : State) : exec (.aand d a b w) z = execAand d a b w z := rfl
@[simp] theorem exec_aor (d : BitVec 5) (a : BitVec 5) (b : BitVec 5) (w : BitVec 1) (z : State) : exec (.aor d a b w) z = execAor d a b w z := rfl
@[simp] theorem exec_axor (d : BitVec 5) (a : BitVec 5) (b : BitVec 5) (w : BitVec 1) (z : State) : exec (.axor d a b w) z = execAxor d a b w z := rfl
@[simp] theorem exec_ldq (k : BitVec 3) (q : BitVec 2) (a : BitVec 5) (i : BitVec 13) (z : State) : exec (.ldq k q a i) z = execLdq k q a i z := rfl
@[simp] theorem exec_stq (k : BitVec 3) (q : BitVec 2) (a : BitVec 5) (i : BitVec 13) (z : State) : exec (.stq k q a i) z = execStq k q a i z := rfl
@[simp] theorem exec_csrr (d : BitVec 5) (c : BitVec 13) (z : State) : exec (.csrr d c) z = execCsrr d c z := rfl
@[simp] theorem exec_csrw (a : BitVec 5) (c : BitVec 13) (z : State) : exec (.csrw a c) z = execCsrw a c z := rfl
@[simp] theorem exec_csrs (d : BitVec 5) (a : BitVec 5) (c : BitVec 13) (z : State) : exec (.csrs d a c) z = execCsrs d a c z := rfl
@[simp] theorem exec_csrc (d : BitVec 5) (a : BitVec 5) (c : BitVec 13) (z : State) : exec (.csrc d a c) z = execCsrc d a c z := rfl
@[simp] theorem exec_csrWrite (c : BitVec 13) (v : Dword) (z : State) : exec (.csrWrite c v) z = execCsrWrite c v z := rfl
@[simp] theorem exec_dfmaskWrite (v : Dword) (z : State) : exec (.dfmaskWrite v) z = execDfmaskWrite v z := rfl
@[simp] theorem exec_lateWrite (v : Dword) (z : State) : exec (.lateWrite v) z = execLateWrite v z := rfl
@[simp] theorem exec_budgetWrite (v : Dword) (z : State) : exec (.budgetWrite v) z = execBudgetWrite v z := rfl
@[simp] theorem exec_twinWrite (v : Dword) (z : State) : exec (.twinWrite v) z = execTwinWrite v z := rfl
@[simp] theorem exec_statusWrite (v : Dword) (z : State) : exec (.statusWrite v) z = execStatusWrite v z := rfl
@[simp] theorem exec_rde (d : BitVec 5) (e : BitVec 3) (z : State) : exec (.rde d e) z = execRde d e z := rfl
@[simp] theorem exec_fpush (a : BitVec 5) (z : State) : exec (.fpush a) z = execFpush a z := rfl
@[simp] theorem exec_hdef (h : BitVec 4) (c : BitVec 6) (a : BitVec 5) (s : BitVec 4) (z : State) : exec (.hdef h c a s) z = execHdef h c a s z := rfl
@[simp] theorem exec_hadvC (h : BitVec 4) (w : BitVec 6) (z : State) : exec (.hadvC h w) z = execHadvC h w z := rfl
@[simp] theorem exec_hadvP (h : BitVec 4) (w : BitVec 6) (z : State) : exec (.hadvP h w) z = execHadvP h w z := rfl
@[simp] theorem exec_hrd (h : BitVec 4) (d : BitVec 5) (z : State) : exec (.hrd h d) z = execHrd h d z := rfl
@[simp] theorem exec_pacq (a : BitVec 5) (i : BitVec 13) (z : State) : exec (.pacq a i) z = execPacq a i z := rfl
@[simp] theorem exec_prel (l : BitVec 4) (z : State) : exec (.prel l) z = execPrel l z := rfl
@[simp] theorem exec_trap (c : BitVec 18) (z : State) : exec (.trap c) z = execTrap c z := rfl
@[simp] theorem exec_wev (d : BitVec 5) (a : BitVec 5) (i : BitVec 13) (z : State) : exec (.wev d a i) z = execWev d a i z := rfl
@[simp] theorem exec_adq (d : BitVec 5) (a : BitVec 5) (z : State) : exec (.adq d a) z = execAdq d a z := rfl
@[simp] theorem exec_brk (c : BitVec 18) (z : State) : exec (.brk c) z = execBrk c z := rfl
@[simp] theorem exec_step (r : BitVec 1) (g : BitVec 6) (s : BitVec 3) (z : State) : exec (.step r g s) z = execStep r g s z := rfl
@[simp] theorem exec_bar (f : BitVec 1) (i : BitVec 4) (s : BitVec 3) (z : State) : exec (.bar f i s) z = execBar f i s z := rfl
@[simp] theorem exec_fenceM (m : BitVec 7) (z : State) : exec (.fenceM m) z = execFenceM m z := rfl
@[simp] theorem exec_fpcw (o : BitVec 1) (i : BitVec 1) (r : BitVec 2) (z : State) : exec (.fpcw o i r) z = execFpcw o i r z := rfl
@[simp] theorem exec_latew (a : BitVec 5) (m : BitVec 7) (z : State) : exec (.latew a m) z = execLatew a m z := rfl
@[simp] theorem exec_budg (a : BitVec 5) (z : State) : exec (.budg a) z = execBudg a z := rfl
@[simp] theorem exec_bndset (n : BitVec 3) (a : BitVec 5) (b : BitVec 5) (c : BitVec 2) (z : State) : exec (.bndset n a b c) z = execBndset n a b c z := rfl
@[simp] theorem exec_mark (v : BitVec 18) (z : State) : exec (.mark v) z = execMark v z := rfl
@[simp] theorem exec_mnest (a : BitVec 5) (b : BitVec 5) (r : BitVec 1) (l : BitVec 3) (z : State) : exec (.mnest a b r l) z = execMnest a b r l z := rfl
@[simp] theorem exec_mnestc (a : BitVec 5) (b : BitVec 5) (l : BitVec 3) (z : State) : exec (.mnestc a b l) z = execMnestc a b l z := rfl
@[simp] theorem exec_mbase (d : BitVec 5) (a : BitVec 5) (b : BitVec 5) (z : State) : exec (.mbase d a b) z = execMbase d a b z := rfl
@[simp] theorem exec_mgo (h : BitVec 4) (w : BitVec 6) (c : BitVec 1) (r : BitVec 1) (z : State) : exec (.mgo h w c r) z = execMgo h w c r z := rfl
@[simp] theorem exec_mdrain (d : BitVec 5) (a : BitVec 5) (c : BitVec 1) (i : BitVec 4) (k : BitVec 2) (z : State) : exec (.mdrain d a c i k) z = execMdrain d a c i k z := rfl
@[simp] theorem exec_mdrainAuto (a : BitVec 5) (c : BitVec 1) (i : BitVec 4) (k : BitVec 2) (z : State) : exec (.mdrainAuto a c i k) z = execMdrainAuto a c i k z := rfl
@[simp] theorem exec_mldt (a : BitVec 5) (b : BitVec 5) (v : BitVec 1) (m : BitVec 3) (z : State) : exec (.mldt a b v m) z = execMldt a b v m z := rfl
@[simp] theorem exec_mstt (a : BitVec 5) (b : BitVec 5) (v : BitVec 1) (m : BitVec 3) (z : State) : exec (.mstt a b v m) z = execMstt a b v m z := rfl
@[simp] theorem exec_mtrn (d : BitVec 5) (a : BitVec 5) (b : BitVec 5) (x : BitVec 1) (c : BitVec 2) (m : BitVec 3) (z : State) : exec (.mtrn d a b x c m) z = execMtrn d a b x c m z := rfl
@[simp] theorem exec_mact (c : BitVec 1) (m : BitVec 3) (z : State) : exec (.mact c m) z = execMact c m z := rfl
@[simp] theorem exec_mtwc (a : BitVec 5) (b : BitVec 5) (v : BitVec 1) (z : State) : exec (.mtwc a b v) z = execMtwc a b v z := rfl
@[simp] theorem exec_mbfly (d : BitVec 3) (s : BitVec 3) (t : BitVec 4) (h : BitVec 3) (z : State) : exec (.mbfly d s t h) z = execMbfly d s t h z := rfl
@[simp] theorem exec_mdrev (d : BitVec 3) (s : BitVec 3) (v : BitVec 1) (z : State) : exec (.mdrev d s v) z = execMdrev d s v z := rfl
@[simp] theorem exec_mtexpSet (a : BitVec 5) (m : BitVec 3) (z : State) : exec (.mtexpSet a m) z = execMtexpSet a m z := rfl
@[simp] theorem exec_mtexpAdd (a : BitVec 5) (m : BitVec 3) (z : State) : exec (.mtexpAdd a m) z = execMtexpAdd a m z := rfl
@[simp] theorem exec_mtexpSt (a : BitVec 5) (z : State) : exec (.mtexpSt a) z = execMtexpSt a z := rfl
@[simp] theorem exec_mgvcfg (a : BitVec 5) (b : BitVec 5) (z : State) : exec (.mgvcfg a b) z = execMgvcfg a b z := rfl
@[simp] theorem exec_mgvr (h : BitVec 4) (w : BitVec 6) (a : BitVec 5) (n : BitVec 7) (r : BitVec 1) (z : State) : exec (.mgvr h w a n r) z = execMgvr h w a n r z := rfl
@[simp] theorem exec_mchkr (d : BitVec 5) (c : BitVec 1) (z : State) : exec (.mchkr d c) z = execMchkr d c z := rfl
@[simp] theorem exec_mdropkKey (a : BitVec 5) (b : BitVec 5) (z : State) : exec (.mdropkKey a b) z = execMdropkKey a b z := rfl
@[simp] theorem exec_mdropkCtr (a : BitVec 5) (b : BitVec 5) (z : State) : exec (.mdropkCtr a b) z = execMdropkCtr a b z := rfl
@[simp] theorem exec_mdropkThr (a : BitVec 5) (b : BitVec 5) (z : State) : exec (.mdropkThr a b) z = execMdropkThr a b z := rfl
@[simp] theorem exec_mres (a : BitVec 5) (b : BitVec 5) (f : BitVec 1) (z : State) : exec (.mres a b f) z = execMres a b f z := rfl
@[simp] theorem exec_vshape (c : BitVec 5) (r : BitVec 5) (z : State) : exec (.vshape c r) z = execVshape c r z := rfl
@[simp] theorem exec_vldq (d : BitVec 4) (b : BitVec 1) (q : BitVec 2) (z : State) : exec (.vldq d b q) z = execVldq d b q z := rfl
@[simp] theorem exec_vstq (a : BitVec 4) (n : BitVec 3) (e : BitVec 1) (b : BitVec 1) (q : BitVec 1) (z : State) : exec (.vstq a n e b q) z = execVstq a n e b q z := rfl
@[simp] theorem exec_vadd (d : BitVec 4) (a : BitVec 4) (b : BitVec 4) (z : State) : exec (.vadd d a b) z = execVadd d a b z := rfl
@[simp] theorem exec_vsub (d : BitVec 4) (a : BitVec 4) (b : BitVec 4) (z : State) : exec (.vsub d a b) z = execVsub d a b z := rfl
@[simp] theorem exec_vmul (d : BitVec 4) (a : BitVec 4) (b : BitVec 4) (z : State) : exec (.vmul d a b) z = execVmul d a b z := rfl
@[simp] theorem exec_vmin (d : BitVec 4) (a : BitVec 4) (b : BitVec 4) (z : State) : exec (.vmin d a b) z = execVmin d a b z := rfl
@[simp] theorem exec_vmax (d : BitVec 4) (a : BitVec 4) (b : BitVec 4) (z : State) : exec (.vmax d a b) z = execVmax d a b z := rfl
@[simp] theorem exec_viadd (d : BitVec 4) (a : BitVec 4) (b : BitVec 4) (z : State) : exec (.viadd d a b) z = execViadd d a b z := rfl
@[simp] theorem exec_visub (d : BitVec 4) (a : BitVec 4) (b : BitVec 4) (z : State) : exec (.visub d a b) z = execVisub d a b z := rfl
@[simp] theorem exec_vimul (d : BitVec 4) (a : BitVec 4) (b : BitVec 4) (z : State) : exec (.vimul d a b) z = execVimul d a b z := rfl
@[simp] theorem exec_vand (d : BitVec 4) (a : BitVec 4) (b : BitVec 4) (z : State) : exec (.vand d a b) z = execVand d a b z := rfl
@[simp] theorem exec_vor (d : BitVec 4) (a : BitVec 4) (b : BitVec 4) (z : State) : exec (.vor d a b) z = execVor d a b z := rfl
@[simp] theorem exec_vxor (d : BitVec 4) (a : BitVec 4) (b : BitVec 4) (z : State) : exec (.vxor d a b) z = execVxor d a b z := rfl
@[simp] theorem exec_vshl (d : BitVec 4) (a : BitVec 4) (b : BitVec 4) (z : State) : exec (.vshl d a b) z = execVshl d a b z := rfl
@[simp] theorem exec_vshr (d : BitVec 4) (a : BitVec 4) (b : BitVec 4) (z : State) : exec (.vshr d a b) z = execVshr d a b z := rfl
@[simp] theorem exec_vfma (d : BitVec 4) (a : BitVec 4) (b : BitVec 4) (c : BitVec 4) (z : State) : exec (.vfma d a b c) z = execVfma d a b c z := rfl
@[simp] theorem exec_vneg (d : BitVec 4) (a : BitVec 4) (z : State) : exec (.vneg d a) z = execVneg d a z := rfl
@[simp] theorem exec_vabs (d : BitVec 4) (a : BitVec 4) (z : State) : exec (.vabs d a) z = execVabs d a z := rfl
@[simp] theorem exec_vrcp (d : BitVec 4) (a : BitVec 4) (z : State) : exec (.vrcp d a) z = execVrcp d a z := rfl
@[simp] theorem exec_vrsq (d : BitVec 4) (a : BitVec 4) (z : State) : exec (.vrsq d a) z = execVrsq d a z := rfl
@[simp] theorem exec_vsqrt (d : BitVec 4) (a : BitVec 4) (z : State) : exec (.vsqrt d a) z = execVsqrt d a z := rfl
@[simp] theorem exec_vexp2 (d : BitVec 4) (a : BitVec 4) (z : State) : exec (.vexp2 d a) z = execVexp2 d a z := rfl
@[simp] theorem exec_vlog2 (d : BitVec 4) (a : BitVec 4) (z : State) : exec (.vlog2 d a) z = execVlog2 d a z := rfl
@[simp] theorem exec_vsinp (d : BitVec 4) (a : BitVec 4) (z : State) : exec (.vsinp d a) z = execVsinp d a z := rfl
@[simp] theorem exec_vfloor (d : BitVec 4) (a : BitVec 4) (z : State) : exec (.vfloor d a) z = execVfloor d a z := rfl
@[simp] theorem exec_vcvt (d : BitVec 4) (a : BitVec 4) (x : BitVec 1) (o : BitVec 3) (z : State) : exec (.vcvt d a x o) z = execVcvt d a x o z := rfl
@[simp] theorem exec_vqbx (d : BitVec 4) (a : BitVec 4) (x : BitVec 1) (f : BitVec 3) (z : State) : exec (.vqbx d a x f) z = execVqbx d a x f z := rfl
@[simp] theorem exec_vdqbx (d : BitVec 4) (a : BitVec 4) (f : BitVec 3) (z : State) : exec (.vdqbx d a f) z = execVdqbx d a f z := rfl
@[simp] theorem exec_vpack (d : BitVec 4) (a : BitVec 4) (u : BitVec 1) (k : BitVec 2) (z : State) : exec (.vpack d a u k) z = execVpack d a u k z := rfl
@[simp] theorem exec_vunpk (d : BitVec 4) (a : BitVec 4) (u : BitVec 1) (k : BitVec 2) (z : State) : exec (.vunpk d a u k) z = execVunpk d a u k z := rfl
@[simp] theorem exec_vcmp (d : BitVec 4) (a : BitVec 4) (b : BitVec 4) (i : BitVec 1) (c : BitVec 3) (z : State) : exec (.vcmp d a b i c) z = execVcmp d a b i c z := rfl
@[simp] theorem exec_vsel (d : BitVec 4) (a : BitVec 4) (b : BitVec 4) (c : BitVec 4) (i : BitVec 1) (z : State) : exec (.vsel d a b c i) z = execVsel d a b c i z := rfl
@[simp] theorem exec_vredSumRow (d : BitVec 4) (a : BitVec 4) (z : State) : exec (.vredSumRow d a) z = execVredSumRow d a z := rfl
@[simp] theorem exec_vredMaxRow (d : BitVec 4) (a : BitVec 4) (z : State) : exec (.vredMaxRow d a) z = execVredMaxRow d a z := rfl
@[simp] theorem exec_vredMinRow (d : BitVec 4) (a : BitVec 4) (z : State) : exec (.vredMinRow d a) z = execVredMinRow d a z := rfl
@[simp] theorem exec_vredSumCol (d : BitVec 4) (a : BitVec 4) (z : State) : exec (.vredSumCol d a) z = execVredSumCol d a z := rfl
@[simp] theorem exec_vredMaxCol (d : BitVec 4) (a : BitVec 4) (z : State) : exec (.vredMaxCol d a) z = execVredMaxCol d a z := rfl
@[simp] theorem exec_vredMinCol (d : BitVec 4) (a : BitVec 4) (z : State) : exec (.vredMinCol d a) z = execVredMinCol d a z := rfl
@[simp] theorem exec_vredSumAll (d : BitVec 4) (a : BitVec 4) (z : State) : exec (.vredSumAll d a) z = execVredSumAll d a z := rfl
@[simp] theorem exec_vredMaxAll (d : BitVec 4) (a : BitVec 4) (z : State) : exec (.vredMaxAll d a) z = execVredMaxAll d a z := rfl
@[simp] theorem exec_vredMinAll (d : BitVec 4) (a : BitVec 4) (z : State) : exec (.vredMinAll d a) z = execVredMinAll d a z := rfl
@[simp] theorem exec_vbcast (d : BitVec 4) (a : BitVec 4) (m : BitVec 2) (z : State) : exec (.vbcast d a m) z = execVbcast d a m z := rfl
@[simp] theorem exec_vxdef (x : BitVec 4) (a : BitVec 5) (b : BitVec 5) (z : State) : exec (.vxdef x a b) z = execVxdef x a b z := rfl
@[simp] theorem exec_vexpr (d : BitVec 4) (x : BitVec 4) (z : State) : exec (.vexpr d x) z = execVexpr d x z := rfl
@[simp] theorem exec_vdefer (a : BitVec 4) (b : BitVec 4) (k : BitVec 2) (z : State) : exec (.vdefer a b k) z = execVdefer a b k z := rfl
@[simp] theorem exec_vdrain (d : BitVec 4) (a : BitVec 4) (k : BitVec 2) (z : State) : exec (.vdrain d a k) z = execVdrain d a k z := rfl
@[simp] theorem exec_vdret (d : BitVec 4) (a : BitVec 4) (b : BitVec 4) (z : State) : exec (.vdret d a b) z = execVdret d a b z := rfl
@[simp] theorem exec_vrng (d : BitVec 4) (u : BitVec 1) (z : State) : exec (.vrng d u) z = execVrng d u z := rfl
@[simp] theorem exec_vrngkKey (a : BitVec 5) (b : BitVec 5) (z : State) : exec (.vrngkKey a b) z = execVrngkKey a b z := rfl
@[simp] theorem exec_vrngkCtr (a : BitVec 5) (b : BitVec 5) (z : State) : exec (.vrngkCtr a b) z = execVrngkCtr a b z := rfl
@[simp] theorem exec_vrngkAdd (a : BitVec 5) (b : BitVec 5) (z : State) : exec (.vrngkAdd a b) z = execVrngkAdd a b z := rfl
@[simp] theorem exec_vrngkSave (d : BitVec 4) (z : State) : exec (.vrngkSave d) z = execVrngkSave d z := rfl
@[simp] theorem exec_vgrpc (d : BitVec 4) (a : BitVec 4) (b : BitVec 4) (c : BitVec 4) (l : BitVec 4) (z : State) : exec (.vgrpc d a b c l) z = execVgrpc d a b c l z := rfl
@[simp] theorem exec_viota (d : BitVec 4) (m : BitVec 2) (z : State) : exec (.viota d m) z = execViota d m z := rfl
@[simp] theorem exec_vperm (d : BitVec 4) (a : BitVec 4) (b : BitVec 4) (z : State) : exec (.vperm d a b) z = execVperm d a b z := rfl
@[simp] theorem exec_vtrn (d : BitVec 4) (a : BitVec 4) (z : State) : exec (.vtrn d a) z = execVtrn d a z := rfl
@[simp] theorem exec_cgeo (d : BitVec 5) (a : BitVec 5) (b : BitVec 5) (l : BitVec 3) (c : BitVec 3) (z : State) : exec (.cgeo d a b l c) z = execCgeo d a b l c z := rfl
@[simp] theorem exec_clay (a : BitVec 5) (b : BitVec 5) (c : BitVec 3) (z : State) : exec (.clay a b c) z = execClay a b c z := rfl
@[simp] theorem exec_cgo (d : BitVec 5) (a : BitVec 5) (b : BitVec 5) (s : BitVec 1) (g : BitVec 1) (e : BitVec 3) (c : BitVec 3) (z : State) : exec (.cgo d a b s g e c) z = execCgo d a b s g e c z := rfl
@[simp] theorem exec_csched (a : BitVec 5) (b : BitVec 5) (c : BitVec 3) (z : State) : exec (.csched a b c) z = execCsched a b c z := rfl
@[simp] theorem exec_cadv (c : BitVec 5) (n : BitVec 13) (z : State) : exec (.cadv c n) z = execCadv c n z := rfl
@[simp] theorem exec_cpage (d : BitVec 5) (a : BitVec 5) (b : BitVec 5) (f : BitVec 1) (c : BitVec 3) (z : State) : exec (.cpage d a b f c) z = execCpage d a b f c z := rfl
@[simp] theorem exec_cstop (m : BitVec 8) (z : State) : exec (.cstop m) z = execCstop m z := rfl
@[simp] theorem exec_cfill (d : BitVec 5) (a : BitVec 5) (b : BitVec 5) (g : BitVec 1) (e : BitVec 3) (c : BitVec 3) (z : State) : exec (.cfill d a b g e c) z = execCfill d a b g e c z := rfl
@[simp] theorem exec_copyElement (c : BitVec 3) (z : State) : exec (.copyElement c) z = execCopyElement c z := rfl
@[simp] theorem exec_copyPiece (c : BitVec 3) (z : State) : exec (.copyPiece c) z = execCopyPiece c z := rfl
@[simp] theorem exec_pageMove (c : BitVec 3) (err : Bool) (z : State) : exec (.pageMove c err) z = execPageMove c err z := rfl
@[simp] theorem exec_lpush (h : BitVec 4) (w : BitVec 6) (a : BitVec 5) (r : BitVec 1) (z : State) : exec (.lpush h w a r) z = execLpush h w a r z := rfl
@[simp] theorem exec_lslot (a : BitVec 5) (z : State) : exec (.lslot a) z = execLslot a z := rfl
@[simp] theorem exec_lslotRel (a : BitVec 5) (z : State) : exec (.lslotRel a) z = execLslotRel a z := rfl
@[simp] theorem exec_lput (d : BitVec 5) (a : BitVec 5) (b : BitVec 5) (z : State) : exec (.lput d a b) z = execLput d a b z := rfl
@[simp] theorem exec_lget (d : BitVec 5) (a : BitVec 5) (b : BitVec 5) (z : State) : exec (.lget d a b) z = execLget d a b z := rfl
@[simp] theorem exec_lsig (a : BitVec 5) (b : BitVec 5) (z : State) : exec (.lsig a b) z = execLsig a b z := rfl
@[simp] theorem exec_laadd (d : BitVec 5) (a : BitVec 5) (b : BitVec 5) (w : BitVec 1) (z : State) : exec (.laadd d a b w) z = execLaadd d a b w z := rfl
@[simp] theorem exec_laswp (d : BitVec 5) (a : BitVec 5) (b : BitVec 5) (w : BitVec 1) (z : State) : exec (.laswp d a b w) z = execLaswp d a b w z := rfl
@[simp] theorem exec_lacas (d : BitVec 5) (a : BitVec 5) (b : BitVec 5) (w : BitVec 1) (z : State) : exec (.lacas d a b w) z = execLacas d a b w z := rfl
@[simp] theorem exec_lamin (d : BitVec 5) (a : BitVec 5) (b : BitVec 5) (w : BitVec 1) (z : State) : exec (.lamin d a b w) z = execLamin d a b w z := rfl
@[simp] theorem exec_lamax (d : BitVec 5) (a : BitVec 5) (b : BitVec 5) (w : BitVec 1) (z : State) : exec (.lamax d a b w) z = execLamax d a b w z := rfl
@[simp] theorem exec_laand (d : BitVec 5) (a : BitVec 5) (b : BitVec 5) (w : BitVec 1) (z : State) : exec (.laand d a b w) z = execLaand d a b w z := rfl
@[simp] theorem exec_laor (d : BitVec 5) (a : BitVec 5) (b : BitVec 5) (w : BitVec 1) (z : State) : exec (.laor d a b w) z = execLaor d a b w z := rfl
@[simp] theorem exec_laxor (d : BitVec 5) (a : BitVec 5) (b : BitVec 5) (w : BitVec 1) (z : State) : exec (.laxor d a b w) z = execLaxor d a b w z := rfl
@[simp] theorem exec_lwsig (d : BitVec 5) (a : BitVec 5) (i : BitVec 13) (z : State) : exec (.lwsig d a i) z = execLwsig d a i z := rfl
@[simp] theorem exec_podAnswer (k : CoreId) (pkg : BitVec 13) (r : PodAns) (z : State) : exec (.podAnswer k pkg r) z = execPodAnswer k pkg r z := rfl
@[simp] theorem exec_gtab (d : BitVec 5) (a : BitVec 5) (b : BitVec 5) (g : BitVec 1) (f : BitVec 3) (t : BitVec 2) (z : State) : exec (.gtab d a b g f t) z = execGtab d a b g f t z := rfl
@[simp] theorem exec_gthr (h : BitVec 4) (w : BitVec 6) (a : BitVec 5) (z : State) : exec (.gthr h w a) z = execGthr h w a z := rfl
@[simp] theorem exec_gsum (h : BitVec 4) (w : BitVec 6) (a : BitVec 5) (z : State) : exec (.gsum h w a) z = execGsum h w a z := rfl
@[simp] theorem exec_cgrp (a : BitVec 5) (b : BitVec 5) (g : BitVec 3) (z : State) : exec (.cgrp a b g) z = execCgrp a b g z := rfl
@[simp] theorem exec_cred (d : BitVec 5) (a : BitVec 5) (b : BitVec 5) (o : BitVec 2) (t : BitVec 2) (g : BitVec 3) (z : State) : exec (.cred d a b o t g) z = execCred d a b o t g z := rfl
@[simp] theorem exec_crsc (d : BitVec 5) (a : BitVec 5) (b : BitVec 5) (o : BitVec 2) (t : BitVec 2) (g : BitVec 3) (z : State) : exec (.crsc d a b o t g) z = execCrsc d a b o t g z := rfl
@[simp] theorem exec_callg (d : BitVec 5) (a : BitVec 5) (b : BitVec 5) (t : BitVec 2) (g : BitVec 3) (z : State) : exec (.callg d a b t g) z = execCallg d a b t g z := rfl
@[simp] theorem exec_cbc (d : BitVec 5) (a : BitVec 5) (b : BitVec 5) (t : BitVec 2) (g : BitVec 3) (z : State) : exec (.cbc d a b t g) z = execCbc d a b t g z := rfl
@[simp] theorem exec_collectiveDone (k : CoreId) (g : BitVec 3) (r : CollRes) (z : State) : exec (.collectiveDone k g r) z = execCollectiveDone k g r z := rfl
@[simp] theorem exec_planedStore (x : CtxId) (k : CoreId) (a : Dword) (v : Dword) (z : State) : exec (.planedStore x k a v) z = execPlanedStore x k a v z := rfl
@[simp] theorem exec_fecFailure (k : Nat) (z : State) : exec (.fecFailure k) z = execFecFailure k z := rfl
@[simp] theorem exec_contextResume (bad : Bool) (mirrorBad : Bool) (z : State) : exec (.contextResume bad mirrorBad) z = execContextResume bad mirrorBad z := rfl
@[simp] theorem exec_uncorrectableError (k : CoreId) (e : ErrInfo) (z : State) : exec (.uncorrectableError k e) z = execUncorrectableError k e z := rfl
@[simp] theorem exec_throttleStart (site : BitVec 6) (share : Byte) (z : State) : exec (.throttleStart site share) z = execThrottleStart site share z := rfl
@[simp] theorem exec_throttleEnd (site : BitVec 6) (z : State) : exec (.throttleEnd site) z = execThrottleEnd site z := rfl
@[simp] theorem exec_throttleEscalate (site : BitVec 6) (share : Byte) (z : State) : exec (.throttleEscalate site share) z = execThrottleEscalate site share z := rfl
@[simp] theorem exec_energyAccount (x : CtxId) (uj : Nat) (z : State) : exec (.energyAccount x uj) z = execEnergyAccount x uj z := rfl
@[simp] theorem exec_boot (r : BootRes) (z : State) : exec (.boot r) z = execBoot r z := rfl
@[simp] theorem exec_imgput (h : MsgHdr) (img : BitVec 32) (off : Nat) (bytes : List Byte) (z : State) : exec (.imgput h img off bytes) z = execImgput h img off bytes z := rfl
@[simp] theorem exec_launch (h : MsgHdr) (bytes : List Byte) (z : State) : exec (.launch h bytes) z = execLaunch h bytes z := rfl
@[simp] theorem exec_kill (h : MsgHdr) (x : Byte) (z : State) : exec (.kill h x) z = execKill h x z := rfl
@[simp] theorem exec_status (h : MsgHdr) (z : State) : exec (.status h) z = execStatus h z := rfl
@[simp] theorem exec_memrd (h : MsgHdr) (space : Byte) (bf : Byte) (off : Nat) (len : Nat) (z : State) : exec (.memrd h space bf off len) z = execMemrd h space bf off len z := rfl
@[simp] theorem exec_memwr (h : MsgHdr) (space : Byte) (bf : Byte) (off : Nat) (bytes : List Byte) (z : State) : exec (.memwr h space bf off bytes) z = execMemwr h space bf off bytes z := rfl
@[simp] theorem exec_notify (h : MsgHdr) (x : Byte) (cores : List CoreId) (w : Dword) (z : State) : exec (.notify h x cores w) z = execNotify h x cores w z := rfl
@[simp] theorem exec_fid (h : MsgHdr) (c : FidCmd) (z : State) : exec (.fid h c) z = execFid h c z := rfl
@[simp] theorem exec_logrd (h : MsgHdr) (bf : Byte) (first : Nat) (count : Nat) (z : State) : exec (.logrd h bf first count) z = execLogrd h bf first count z := rfl
@[simp] theorem exec_quote (h : MsgHdr) (nonce : List Byte) (z : State) : exec (.quote h nonce) z = execQuote h nonce z := rfl
@[simp] theorem exec_keyset (h : MsgHdr) (slot : Byte) (key : List Byte) (sig : List Byte) (z : State) : exec (.keyset h slot key sig) z = execKeyset h slot key sig z := rfl
@[simp] theorem exec_fwupd (h : MsgHdr) (off : Nat) (bytes : List Byte) (z : State) : exec (.fwupd h off bytes) z = execFwupd h off bytes z := rfl
@[simp] theorem exec_clearboot (h : MsgHdr) (z : State) : exec (.clearboot h) z = execClearboot h z := rfl
@[simp] theorem exec_reset (h : MsgHdr) (z : State) : exec (.reset h) z = execReset h z := rfl
@[simp] theorem exec_ack (h : MsgHdr) (seq : BitVec 32) (result : Byte) (z : State) : exec (.ack h seq result) z = execAck h seq result z := rfl
@[simp] theorem exec_scrubRead (l : EccLoc) (r : EccRes) (z : State) : exec (.scrubRead l r) z = execScrubRead l r z := rfl
@[simp] theorem exec_droopInjection (site : BitVec 6) (quad : BitVec 2) (z : State) : exec (.droopInjection site quad) z = execDroopInjection site quad z := rfl
@[simp] theorem exec_unassignedOpcode (w : Word) (z : State) : exec (.unassignedOpcode w) z = execUnassignedOpcode w z := rfl
@[simp] theorem exec_podRequestArrival (r : PodReq) (z : State) : exec (.podRequestArrival r) z = execPodRequestArrival r z := rfl
@[simp] theorem exec_podBarrierHold (on : Bool) (z : State) : exec (.podBarrierHold on) z = execPodBarrierHold on z := rfl
@[simp] theorem exec_keyRevocation (key : BitVec 16) (z : State) : exec (.keyRevocation key) z = execKeyRevocation key z := rfl
@[simp] theorem exec_lowerDieBudgets (budgets : List (BitVec 6 × Nat)) (z : State) : exec (.lowerDieBudgets budgets) z = execLowerDieBudgets budgets z := rfl
@[simp] theorem exec_sret (z : State) : exec (.sret) z = execSret z := rfl
@[simp] theorem exec_exit (z : State) : exec (.exit) z = execExit z := rfl
@[simp] theorem exec_mgoPass (z : State) : exec (.mgoPass) z = execMgoPass z := rfl
@[simp] theorem exec_autoDrain (z : State) : exec (.autoDrain) z = execAutoDrain z := rfl
@[simp] theorem exec_mclra (z : State) : exec (.mclra) z = execMclra z := rfl
@[simp] theorem exec_mgvrChunk (z : State) : exec (.mgvrChunk) z = execMgvrChunk z := rfl
@[simp] theorem exec_vamxr (z : State) : exec (.vamxr) z = execVamxr z := rfl
@[simp] theorem exec_vecRetire (z : State) : exec (.vecRetire) z = execVecRetire z := rfl
@[simp] theorem exec_copyStatusWrite (z : State) : exec (.copyStatusWrite) z = execCopyStatusWrite z := rfl
@[simp] theorem exec_copyStopComplete (z : State) : exec (.copyStopComplete) z = execCopyStopComplete z := rfl
@[simp] theorem exec_scheduleEntryStart (z : State) : exec (.scheduleEntryStart) z = execScheduleEntryStart z := rfl
@[simp] theorem exec_pushBeatDepart (z : State) : exec (.pushBeatDepart) z = execPushBeatDepart z := rfl
@[simp] theorem exec_pushLanding (z : State) : exec (.pushLanding) z = execPushLanding z := rfl
@[simp] theorem exec_lquiet (z : State) : exec (.lquiet) z = execLquiet z := rfl
@[simp] theorem exec_waitWordRead (z : State) : exec (.waitWordRead) z = execWaitWordRead z := rfl
@[simp] theorem exec_signalNotify (z : State) : exec (.signalNotify) z = execSignalNotify z := rfl
@[simp] theorem exec_waitPeriodicRead (z : State) : exec (.waitPeriodicRead) z = execWaitPeriodicRead z := rfl
@[simp] theorem exec_gatherRowArrive (z : State) : exec (.gatherRowArrive) z = execGatherRowArrive z := rfl
@[simp] theorem exec_ctlRetire (z : State) : exec (.ctlRetire) z = execCtlRetire z := rfl
@[simp] theorem exec_stageAccessPerform (z : State) : exec (.stageAccessPerform) z = execStageAccessPerform z := rfl
@[simp] theorem exec_stageReply (z : State) : exec (.stageReply) z = execStageReply z := rfl
@[simp] theorem exec_claimArrival (z : State) : exec (.claimArrival) z = execClaimArrival z := rfl
@[simp] theorem exec_claimAnswer (z : State) : exec (.claimAnswer) z = execClaimAnswer z := rfl
@[simp] theorem exec_residueBeat (z : State) : exec (.residueBeat) z = execResidueBeat z := rfl
@[simp] theorem exec_deviationTrap (z : State) : exec (.deviationTrap) z = execDeviationTrap z := rfl
@[simp] theorem exec_deadlineFault (z : State) : exec (.deadlineFault) z = execDeadlineFault z := rfl
@[simp] theorem exec_cleatRelease (z : State) : exec (.cleatRelease) z = execCleatRelease z := rfl
@[simp] theorem exec_podBarrierExchange (z : State) : exec .podBarrierExchange z = execPodBarrierExchange z := rfl
@[simp] theorem exec_stepContinue (z : State) : exec (.stepContinue) z = execStepContinue z := rfl
@[simp] theorem exec_planeSwap (z : State) : exec (.planeSwap) z = execPlaneSwap z := rfl
@[simp] theorem exec_coreExitRetire (z : State) : exec (.coreExitRetire) z = execCoreExitRetire z := rfl
@[simp] theorem exec_trapEntry (z : State) : exec (.trapEntry) z = execTrapEntry z := rfl
@[simp] theorem exec_contextStart (z : State) : exec (.contextStart) z = execContextStart z := rfl
@[simp] theorem exec_launchPlace (z : State) : exec (.launchPlace) z = execLaunchPlace z := rfl
@[simp] theorem exec_graphNodeReady (z : State) : exec (.graphNodeReady) z = execGraphNodeReady z := rfl
@[simp] theorem exec_graphWaitPoll (z : State) : exec (.graphWaitPoll) z = execGraphWaitPoll z := rfl
@[simp] theorem exec_preemptFreeze (z : State) : exec (.preemptFreeze) z = execPreemptFreeze z := rfl
@[simp] theorem exec_pmaskTimeout (z : State) : exec (.pmaskTimeout) z = execPmaskTimeout z := rfl
@[simp] theorem exec_killComplete (z : State) : exec (.killComplete) z = execKillComplete z := rfl
@[simp] theorem exec_stepCancel (z : State) : exec (.stepCancel) z = execStepCancel z := rfl
@[simp] theorem exec_powerGrant (z : State) : exec (.powerGrant) z = execPowerGrant z := rfl
@[simp] theorem exec_scrubWriteback (z : State) : exec (.scrubWriteback) z = execScrubWriteback z := rfl
@[simp] theorem exec_thermalTrip (z : State) : exec (.thermalTrip) z = execThermalTrip z := rfl

end Sys2Proof.Machine
end

