-- ==== Sys2Proof/Laws/Poison.lean ====
section
/-! SUPPORT. Poison.lean: where no word is poisoned (R351), reads and writes have nothing to say; a write marks no word; a home of saves is
a BF die that works where there is one (R22). -/
namespace Sys2Proof.Machine

theorem touchIf_clean (s : State) (k : CoreId) (l : State → List Span) (h : s.poison = []) : s.touchIf k l = s := by
  simp [State.touchIf, h]

theorem fetch_clean (s : State) (e : Nat) (h : s.poison = []) : s.fetch e = s := by simp [State.fetch, h]

theorem unpoison_clean (s : State) (m : EccLoc → Bool) (k n : Nat) (h : s.poison = []) : s.unpoison m k n = s := by
  simp [State.unpoison, h]

theorem withRegs_clean (run : Instr → State → Out) (e : Nat) (i : Instr) (s : State) (h : s.poison = []) :
    withRegs run e i s = run i s := by simp [withRegs, h]

theorem regTouch_clean (t : State) (c : Core) (e : Nat) (i : Instr) (h : t.poison = []) : t.regTouch c e i = t := by
  simp [State.regTouch, h]

theorem touchWaits_clean (s : State) (h : s.poison = []) : s.touchWaits = s := by simp [State.touchWaits, h]

/-- A write clears marks and changes nothing else. -/
theorem unpoison_eq (s : State) (m : EccLoc → Bool) (k n : Nat) :
    s.unpoison m k n = { s with poison := s.poison.filter fun l => !(m l && eccWithin l k n) } := by
  unfold State.unpoison
  split
  · rename_i h
    have h' : s.poison = [] := by simpa using h
    simp [h']
    rw [← h']
  · rfl

/-- A range that holds no poisoned word is read without effect. -/
theorem readPoison_none (s : State) (c : CoreId) (m : EccLoc → Bool) (k n : Nat) (h : s.poisoned m k n = []) :
    s.readPoison c m k n = s := by simp [State.readPoison, h]

theorem near_mem (f : Nat → Nat → Bool) (l : List Nat) (b : Nat) :
    (l.foldl (fun b k => if f b k then k else b) b) ∈ b :: l := by
  induction l generalizing b with
  | nil => simp
  | cons x t ih =>
    rw [List.foldl_cons]
    split
    · exact List.mem_cons_of_mem _ (ih x)
    · rcases List.mem_cons.mp (ih b) with h | h
      · rw [h]; exact List.mem_cons_self
      · exact List.mem_cons_of_mem _ (List.mem_cons_of_mem _ h)

/-- While some BF die works, saves and error records go to one that does. -/
theorem saveHome_good (dead : List Nat) (site b : Nat) (hb : b < 8) (hg : b ∉ dead) : saveHome dead site ∉ dead := by
  have hm : b ∈ (List.range 8).filter fun b => !dead.contains b := by simp [hb, hg]
  unfold saveHome
  generalize hl : ((List.range 8).filter fun b => !dead.contains b) = l at hm
  cases l with
  | nil => cases hm
  | cons x t =>
    have key := near_mem (fun b k => decide (Config.gridDist site (Config.bfSite k) < Config.gridDist site (Config.bfSite b))) (x :: t) x
    have hin : ∀ y ∈ x :: t, y ∉ dead := by
      intro y hy
      rw [← hl] at hy
      simpa using (List.mem_filter.mp hy).2
    simp only [List.isEmpty_cons, Bool.false_eq_true, if_false, List.headD_cons, decide_eq_true_eq] at key ⊢
    rcases List.mem_cons.mp key with h | h
    · rw [h]; exact hin x List.mem_cons_self
    · exact hin _ h

end Sys2Proof.Machine
end

