-- ==== Sys2Proof/Laws/State.lean ====
section
/-! SUPPORT. State.lean: one lemma per field per update: what each named update of a core or of the package leaves as it is,
so that no proof unfolds a record update. -/
namespace Sys2Proof.Machine

/-! ### Replacing an engine -/

@[simp] theorem setEng_id (c : Core) (e : Nat) (x : Engine) : (c.setEng e x).id = c.id := rfl
@[simp] theorem setEng_ctx (c : Core) (e : Nat) (x : Engine) : (c.setEng e x).ctx = c.ctx := rfl
@[simp] theorem setEng_live (c : Core) (e : Nat) (x : Engine) : (c.setEng e x).live = c.live := rfl
@[simp] theorem setEng_frozen (c : Core) (e : Nat) (x : Engine) : (c.setEng e x).frozen = c.frozen := rfl
@[simp] theorem setEng_halted (c : Core) (e : Nat) (x : Engine) : (c.setEng e x).halted = c.halted := rfl
@[simp] theorem setEng_haltAt (c : Core) (e : Nat) (x : Engine) : (c.setEng e x).haltAt = c.haltAt := rfl
@[simp] theorem setEng_ready (c : Core) (e : Nat) (x : Engine) : (c.setEng e x).ready = c.ready := rfl
@[simp] theorem setEng_retired (c : Core) (e : Nat) (x : Engine) : (c.setEng e x).retired = c.retired := rfl
@[simp] theorem setEng_retiredAt (c : Core) (e : Nat) (x : Engine) : (c.setEng e x).retiredAt = c.retiredAt := rfl
@[simp] theorem setEng_quit (c : Core) (e : Nat) (x : Engine) : (c.setEng e x).quit = c.quit := rfl
@[simp] theorem setEng_dying (c : Core) (e : Nat) (x : Engine) : (c.setEng e x).dying = c.dying := rfl
@[simp] theorem setEng_told (c : Core) (e : Nat) (x : Engine) : (c.setEng e x).told = c.told := rfl
@[simp] theorem setEng_nested (c : Core) (e : Nat) (x : Engine) : (c.setEng e x).nested = c.nested := rfl
@[simp] theorem setEng_err (c : Core) (e : Nat) (x : Engine) : (c.setEng e x).err = c.err := rfl
@[simp] theorem setEng_delay (c : Core) (e : Nat) (x : Engine) : (c.setEng e x).delay = c.delay := rfl
@[simp] theorem setEng_free (c : Core) (e : Nat) (x : Engine) : (c.setEng e x).free = c.free := rfl
@[simp] theorem setEng_turn (c : Core) (e : Nat) (x : Engine) : (c.setEng e x).turn = c.turn := rfl
@[simp] theorem setEng_tail (c : Core) (e : Nat) (x : Engine) : (c.setEng e x).tail = c.tail := rfl
@[simp] theorem setEng_now (c : Core) (e : Nat) (x : Engine) : (c.setEng e x).now = c.now := rfl
@[simp] theorem setEng_text (c : Core) (e : Nat) (x : Engine) : (c.setEng e x).text = c.text := rfl
@[simp] theorem setEng_text0 (c : Core) (e : Nat) (x : Engine) : (c.setEng e x).text0 = c.text0 := rfl
@[simp] theorem setEng_tt (c : Core) (e : Nat) (x : Engine) : (c.setEng e x).tt = c.tt := rfl
@[simp] theorem setEng_ctl (c : Core) (e : Nat) (x : Engine) : (c.setEng e x).ctl = c.ctl := rfl
@[simp] theorem setEng_trap (c : Core) (e : Nat) (x : Engine) : (c.setEng e x).trap = c.trap := rfl
@[simp] theorem setEng_seen (c : Core) (e : Nat) (x : Engine) : (c.setEng e x).seen = c.seen := rfl
@[simp] theorem setEng_shown (c : Core) (e : Nat) (x : Engine) : (c.setEng e x).shown = c.shown := rfl
@[simp] theorem setEng_low (c : Core) (e : Nat) (x : Engine) : (c.setEng e x).low = c.low := rfl
@[simp] theorem setEng_eoc (c : Core) (e : Nat) (x : Engine) : (c.setEng e x).eoc = c.eoc := rfl
@[simp] theorem setEng_fly (c : Core) (e : Nat) (x : Engine) : (c.setEng e x).fly = c.fly := rfl
@[simp] theorem setEng_spr (c : Core) (e : Nat) (x : Engine) : (c.setEng e x).spr = c.spr := rfl
@[simp] theorem setEng_handles (c : Core) (e : Nat) (x : Engine) : (c.setEng e x).handles = c.handles := rfl
@[simp] theorem setEng_scratch (c : Core) (e : Nat) (x : Engine) : (c.setEng e x).scratch = c.scratch := rfl
@[simp] theorem setEng_wstack (c : Core) (e : Nat) (x : Engine) : (c.setEng e x).wstack = c.wstack := rfl
@[simp] theorem setEng_wsrec (c : Core) (e : Nat) (x : Engine) : (c.setEng e x).wsrec = c.wsrec := rfl
@[simp] theorem setEng_chan (c : Core) (e : Nat) (x : Engine) : (c.setEng e x).chan = c.chan := rfl
@[simp] theorem setEng_cpyReads (c : Core) (e : Nat) (x : Engine) : (c.setEng e x).cpyReads = c.cpyReads := rfl
@[simp] theorem setEng_mtx (c : Core) (e : Nat) (x : Engine) : (c.setEng e x).mtx = c.mtx := rfl
@[simp] theorem setEng_vec (c : Core) (e : Nat) (x : Engine) : (c.setEng e x).vec = c.vec := rfl
@[simp] theorem setEng_gtab (c : Core) (e : Nat) (x : Engine) : (c.setEng e x).gtab = c.gtab := rfl
@[simp] theorem setEng_gjob (c : Core) (e : Nat) (x : Engine) : (c.setEng e x).gjob = c.gjob := rfl
@[simp] theorem setEng_gtail (c : Core) (e : Nat) (x : Engine) : (c.setEng e x).gtail = c.gtail := rfl
@[simp] theorem setEng_ids (c : Core) (e : Nat) (x : Engine) : (c.setEng e x).ids = c.ids := rfl
@[simp] theorem setEng_lnk (c : Core) (e : Nat) (x : Engine) : (c.setEng e x).lnk = c.lnk := rfl
@[simp] theorem setEng_colls (c : Core) (e : Nat) (x : Engine) : (c.setEng e x).colls = c.colls := rfl
@[simp] theorem setEng_bar (c : Core) (e : Nat) (x : Engine) : (c.setEng e x).bar = c.bar := rfl
@[simp] theorem setEng_stepRel (c : Core) (e : Nat) (x : Engine) : (c.setEng e x).stepRel = c.stepRel := rfl
@[simp] theorem setEng_late (c : Core) (e : Nat) (x : Engine) : (c.setEng e x).late = c.late := rfl
@[simp] theorem setEng_step (c : Core) (e : Nat) (x : Engine) : (c.setEng e x).step = c.step := rfl
@[simp] theorem setEng_ckpt (c : Core) (e : Nat) (x : Engine) : (c.setEng e x).ckpt = c.ckpt := rfl
@[simp] theorem setEng_tracing (c : Core) (e : Nat) (x : Engine) : (c.setEng e x).tracing = c.tracing := rfl
@[simp] theorem setEng_trace (c : Core) (e : Nat) (x : Engine) : (c.setEng e x).trace = c.trace := rfl

/-! ### Changing an engine -/

@[simp] theorem modEng_id (c : Core) (e : Nat) (f : Engine → Engine) : (c.modEng e f).id = c.id := rfl
@[simp] theorem modEng_ctx (c : Core) (e : Nat) (f : Engine → Engine) : (c.modEng e f).ctx = c.ctx := rfl
@[simp] theorem modEng_live (c : Core) (e : Nat) (f : Engine → Engine) : (c.modEng e f).live = c.live := rfl
@[simp] theorem modEng_frozen (c : Core) (e : Nat) (f : Engine → Engine) : (c.modEng e f).frozen = c.frozen := rfl
@[simp] theorem modEng_halted (c : Core) (e : Nat) (f : Engine → Engine) : (c.modEng e f).halted = c.halted := rfl
@[simp] theorem modEng_haltAt (c : Core) (e : Nat) (f : Engine → Engine) : (c.modEng e f).haltAt = c.haltAt := rfl
@[simp] theorem modEng_ready (c : Core) (e : Nat) (f : Engine → Engine) : (c.modEng e f).ready = c.ready := rfl
@[simp] theorem modEng_retired (c : Core) (e : Nat) (f : Engine → Engine) : (c.modEng e f).retired = c.retired := rfl
@[simp] theorem modEng_retiredAt (c : Core) (e : Nat) (f : Engine → Engine) : (c.modEng e f).retiredAt = c.retiredAt := rfl
@[simp] theorem modEng_quit (c : Core) (e : Nat) (f : Engine → Engine) : (c.modEng e f).quit = c.quit := rfl
@[simp] theorem modEng_dying (c : Core) (e : Nat) (f : Engine → Engine) : (c.modEng e f).dying = c.dying := rfl
@[simp] theorem modEng_told (c : Core) (e : Nat) (f : Engine → Engine) : (c.modEng e f).told = c.told := rfl
@[simp] theorem modEng_nested (c : Core) (e : Nat) (f : Engine → Engine) : (c.modEng e f).nested = c.nested := rfl
@[simp] theorem modEng_err (c : Core) (e : Nat) (f : Engine → Engine) : (c.modEng e f).err = c.err := rfl
@[simp] theorem modEng_delay (c : Core) (e : Nat) (f : Engine → Engine) : (c.modEng e f).delay = c.delay := rfl
@[simp] theorem modEng_free (c : Core) (e : Nat) (f : Engine → Engine) : (c.modEng e f).free = c.free := rfl
@[simp] theorem modEng_turn (c : Core) (e : Nat) (f : Engine → Engine) : (c.modEng e f).turn = c.turn := rfl
@[simp] theorem modEng_tail (c : Core) (e : Nat) (f : Engine → Engine) : (c.modEng e f).tail = c.tail := rfl
@[simp] theorem modEng_now (c : Core) (e : Nat) (f : Engine → Engine) : (c.modEng e f).now = c.now := rfl
@[simp] theorem modEng_text (c : Core) (e : Nat) (f : Engine → Engine) : (c.modEng e f).text = c.text := rfl
@[simp] theorem modEng_text0 (c : Core) (e : Nat) (f : Engine → Engine) : (c.modEng e f).text0 = c.text0 := rfl
@[simp] theorem modEng_tt (c : Core) (e : Nat) (f : Engine → Engine) : (c.modEng e f).tt = c.tt := rfl
@[simp] theorem modEng_ctl (c : Core) (e : Nat) (f : Engine → Engine) : (c.modEng e f).ctl = c.ctl := rfl
@[simp] theorem modEng_trap (c : Core) (e : Nat) (f : Engine → Engine) : (c.modEng e f).trap = c.trap := rfl
@[simp] theorem modEng_seen (c : Core) (e : Nat) (f : Engine → Engine) : (c.modEng e f).seen = c.seen := rfl
@[simp] theorem modEng_shown (c : Core) (e : Nat) (f : Engine → Engine) : (c.modEng e f).shown = c.shown := rfl
@[simp] theorem modEng_low (c : Core) (e : Nat) (f : Engine → Engine) : (c.modEng e f).low = c.low := rfl
@[simp] theorem modEng_eoc (c : Core) (e : Nat) (f : Engine → Engine) : (c.modEng e f).eoc = c.eoc := rfl
@[simp] theorem modEng_fly (c : Core) (e : Nat) (f : Engine → Engine) : (c.modEng e f).fly = c.fly := rfl
@[simp] theorem modEng_spr (c : Core) (e : Nat) (f : Engine → Engine) : (c.modEng e f).spr = c.spr := rfl
@[simp] theorem modEng_handles (c : Core) (e : Nat) (f : Engine → Engine) : (c.modEng e f).handles = c.handles := rfl
@[simp] theorem modEng_scratch (c : Core) (e : Nat) (f : Engine → Engine) : (c.modEng e f).scratch = c.scratch := rfl
@[simp] theorem modEng_wstack (c : Core) (e : Nat) (f : Engine → Engine) : (c.modEng e f).wstack = c.wstack := rfl
@[simp] theorem modEng_wsrec (c : Core) (e : Nat) (f : Engine → Engine) : (c.modEng e f).wsrec = c.wsrec := rfl
@[simp] theorem modEng_chan (c : Core) (e : Nat) (f : Engine → Engine) : (c.modEng e f).chan = c.chan := rfl
@[simp] theorem modEng_cpyReads (c : Core) (e : Nat) (f : Engine → Engine) : (c.modEng e f).cpyReads = c.cpyReads := rfl
@[simp] theorem modEng_mtx (c : Core) (e : Nat) (f : Engine → Engine) : (c.modEng e f).mtx = c.mtx := rfl
@[simp] theorem modEng_vec (c : Core) (e : Nat) (f : Engine → Engine) : (c.modEng e f).vec = c.vec := rfl
@[simp] theorem modEng_gtab (c : Core) (e : Nat) (f : Engine → Engine) : (c.modEng e f).gtab = c.gtab := rfl
@[simp] theorem modEng_gjob (c : Core) (e : Nat) (f : Engine → Engine) : (c.modEng e f).gjob = c.gjob := rfl
@[simp] theorem modEng_gtail (c : Core) (e : Nat) (f : Engine → Engine) : (c.modEng e f).gtail = c.gtail := rfl
@[simp] theorem modEng_ids (c : Core) (e : Nat) (f : Engine → Engine) : (c.modEng e f).ids = c.ids := rfl
@[simp] theorem modEng_lnk (c : Core) (e : Nat) (f : Engine → Engine) : (c.modEng e f).lnk = c.lnk := rfl
@[simp] theorem modEng_colls (c : Core) (e : Nat) (f : Engine → Engine) : (c.modEng e f).colls = c.colls := rfl
@[simp] theorem modEng_bar (c : Core) (e : Nat) (f : Engine → Engine) : (c.modEng e f).bar = c.bar := rfl
@[simp] theorem modEng_stepRel (c : Core) (e : Nat) (f : Engine → Engine) : (c.modEng e f).stepRel = c.stepRel := rfl
@[simp] theorem modEng_late (c : Core) (e : Nat) (f : Engine → Engine) : (c.modEng e f).late = c.late := rfl
@[simp] theorem modEng_step (c : Core) (e : Nat) (f : Engine → Engine) : (c.modEng e f).step = c.step := rfl
@[simp] theorem modEng_ckpt (c : Core) (e : Nat) (f : Engine → Engine) : (c.modEng e f).ckpt = c.ckpt := rfl
@[simp] theorem modEng_tracing (c : Core) (e : Nat) (f : Engine → Engine) : (c.modEng e f).tracing = c.tracing := rfl
@[simp] theorem modEng_trace (c : Core) (e : Nat) (f : Engine → Engine) : (c.modEng e f).trace = c.trace := rfl

/-! ### Going to a word -/

@[simp] theorem goTo_id (c : Core) (e : Nat) (p : TextAddr) : (c.goTo e p).id = c.id := rfl
@[simp] theorem goTo_ctx (c : Core) (e : Nat) (p : TextAddr) : (c.goTo e p).ctx = c.ctx := rfl
@[simp] theorem goTo_live (c : Core) (e : Nat) (p : TextAddr) : (c.goTo e p).live = c.live := rfl
@[simp] theorem goTo_frozen (c : Core) (e : Nat) (p : TextAddr) : (c.goTo e p).frozen = c.frozen := rfl
@[simp] theorem goTo_halted (c : Core) (e : Nat) (p : TextAddr) : (c.goTo e p).halted = c.halted := rfl
@[simp] theorem goTo_haltAt (c : Core) (e : Nat) (p : TextAddr) : (c.goTo e p).haltAt = c.haltAt := rfl
@[simp] theorem goTo_ready (c : Core) (e : Nat) (p : TextAddr) : (c.goTo e p).ready = c.ready := rfl
@[simp] theorem goTo_retired (c : Core) (e : Nat) (p : TextAddr) : (c.goTo e p).retired = c.retired := rfl
@[simp] theorem goTo_retiredAt (c : Core) (e : Nat) (p : TextAddr) : (c.goTo e p).retiredAt = c.retiredAt := rfl
@[simp] theorem goTo_quit (c : Core) (e : Nat) (p : TextAddr) : (c.goTo e p).quit = c.quit := rfl
@[simp] theorem goTo_dying (c : Core) (e : Nat) (p : TextAddr) : (c.goTo e p).dying = c.dying := rfl
@[simp] theorem goTo_told (c : Core) (e : Nat) (p : TextAddr) : (c.goTo e p).told = c.told := rfl
@[simp] theorem goTo_nested (c : Core) (e : Nat) (p : TextAddr) : (c.goTo e p).nested = c.nested := rfl
@[simp] theorem goTo_err (c : Core) (e : Nat) (p : TextAddr) : (c.goTo e p).err = c.err := rfl
@[simp] theorem goTo_delay (c : Core) (e : Nat) (p : TextAddr) : (c.goTo e p).delay = c.delay := rfl
@[simp] theorem goTo_free (c : Core) (e : Nat) (p : TextAddr) : (c.goTo e p).free = c.free := rfl
@[simp] theorem goTo_turn (c : Core) (e : Nat) (p : TextAddr) : (c.goTo e p).turn = c.turn := rfl
@[simp] theorem goTo_tail (c : Core) (e : Nat) (p : TextAddr) : (c.goTo e p).tail = c.tail := rfl
@[simp] theorem goTo_now (c : Core) (e : Nat) (p : TextAddr) : (c.goTo e p).now = c.now := rfl
@[simp] theorem goTo_text (c : Core) (e : Nat) (p : TextAddr) : (c.goTo e p).text = c.text := rfl
@[simp] theorem goTo_text0 (c : Core) (e : Nat) (p : TextAddr) : (c.goTo e p).text0 = c.text0 := rfl
@[simp] theorem goTo_tt (c : Core) (e : Nat) (p : TextAddr) : (c.goTo e p).tt = c.tt := rfl
@[simp] theorem goTo_ctl (c : Core) (e : Nat) (p : TextAddr) : (c.goTo e p).ctl = c.ctl := rfl
@[simp] theorem goTo_trap (c : Core) (e : Nat) (p : TextAddr) : (c.goTo e p).trap = c.trap := rfl
@[simp] theorem goTo_seen (c : Core) (e : Nat) (p : TextAddr) : (c.goTo e p).seen = c.seen := rfl
@[simp] theorem goTo_shown (c : Core) (e : Nat) (p : TextAddr) : (c.goTo e p).shown = c.shown := rfl
@[simp] theorem goTo_low (c : Core) (e : Nat) (p : TextAddr) : (c.goTo e p).low = c.low := rfl
@[simp] theorem goTo_eoc (c : Core) (e : Nat) (p : TextAddr) : (c.goTo e p).eoc = c.eoc := rfl
@[simp] theorem goTo_fly (c : Core) (e : Nat) (p : TextAddr) : (c.goTo e p).fly = c.fly := rfl
@[simp] theorem goTo_spr (c : Core) (e : Nat) (p : TextAddr) : (c.goTo e p).spr = c.spr := rfl
@[simp] theorem goTo_handles (c : Core) (e : Nat) (p : TextAddr) : (c.goTo e p).handles = c.handles := rfl
@[simp] theorem goTo_scratch (c : Core) (e : Nat) (p : TextAddr) : (c.goTo e p).scratch = c.scratch := rfl
@[simp] theorem goTo_wstack (c : Core) (e : Nat) (p : TextAddr) : (c.goTo e p).wstack = c.wstack := rfl
@[simp] theorem goTo_wsrec (c : Core) (e : Nat) (p : TextAddr) : (c.goTo e p).wsrec = c.wsrec := rfl
@[simp] theorem goTo_chan (c : Core) (e : Nat) (p : TextAddr) : (c.goTo e p).chan = c.chan := rfl
@[simp] theorem goTo_cpyReads (c : Core) (e : Nat) (p : TextAddr) : (c.goTo e p).cpyReads = c.cpyReads := rfl
@[simp] theorem goTo_mtx (c : Core) (e : Nat) (p : TextAddr) : (c.goTo e p).mtx = c.mtx := rfl
@[simp] theorem goTo_vec (c : Core) (e : Nat) (p : TextAddr) : (c.goTo e p).vec = c.vec := rfl
@[simp] theorem goTo_gtab (c : Core) (e : Nat) (p : TextAddr) : (c.goTo e p).gtab = c.gtab := rfl
@[simp] theorem goTo_gjob (c : Core) (e : Nat) (p : TextAddr) : (c.goTo e p).gjob = c.gjob := rfl
@[simp] theorem goTo_gtail (c : Core) (e : Nat) (p : TextAddr) : (c.goTo e p).gtail = c.gtail := rfl
@[simp] theorem goTo_ids (c : Core) (e : Nat) (p : TextAddr) : (c.goTo e p).ids = c.ids := rfl
@[simp] theorem goTo_lnk (c : Core) (e : Nat) (p : TextAddr) : (c.goTo e p).lnk = c.lnk := rfl
@[simp] theorem goTo_colls (c : Core) (e : Nat) (p : TextAddr) : (c.goTo e p).colls = c.colls := rfl
@[simp] theorem goTo_bar (c : Core) (e : Nat) (p : TextAddr) : (c.goTo e p).bar = c.bar := rfl
@[simp] theorem goTo_stepRel (c : Core) (e : Nat) (p : TextAddr) : (c.goTo e p).stepRel = c.stepRel := rfl
@[simp] theorem goTo_late (c : Core) (e : Nat) (p : TextAddr) : (c.goTo e p).late = c.late := rfl
@[simp] theorem goTo_step (c : Core) (e : Nat) (p : TextAddr) : (c.goTo e p).step = c.step := rfl
@[simp] theorem goTo_ckpt (c : Core) (e : Nat) (p : TextAddr) : (c.goTo e p).ckpt = c.ckpt := rfl
@[simp] theorem goTo_tracing (c : Core) (e : Nat) (p : TextAddr) : (c.goTo e p).tracing = c.tracing := rfl
@[simp] theorem goTo_trace (c : Core) (e : Nat) (p : TextAddr) : (c.goTo e p).trace = c.trace := rfl

/-! ### Issuing a word -/

@[simp] theorem issueAs_id (c : Core) (e k w l : Nat) : (c.issueAs e k w l).id = c.id := rfl
@[simp] theorem issueAs_ctx (c : Core) (e k w l : Nat) : (c.issueAs e k w l).ctx = c.ctx := rfl
@[simp] theorem issueAs_live (c : Core) (e k w l : Nat) : (c.issueAs e k w l).live = c.live := rfl
@[simp] theorem issueAs_frozen (c : Core) (e k w l : Nat) : (c.issueAs e k w l).frozen = c.frozen := rfl
@[simp] theorem issueAs_halted (c : Core) (e k w l : Nat) : (c.issueAs e k w l).halted = c.halted := rfl
@[simp] theorem issueAs_haltAt (c : Core) (e k w l : Nat) : (c.issueAs e k w l).haltAt = c.haltAt := rfl
@[simp] theorem issueAs_ready (c : Core) (e k w l : Nat) : (c.issueAs e k w l).ready = c.ready := rfl
@[simp] theorem issueAs_retired (c : Core) (e k w l : Nat) : (c.issueAs e k w l).retired = c.retired := rfl
@[simp] theorem issueAs_retiredAt (c : Core) (e k w l : Nat) : (c.issueAs e k w l).retiredAt = c.retiredAt := rfl
@[simp] theorem issueAs_quit (c : Core) (e k w l : Nat) : (c.issueAs e k w l).quit = c.quit := rfl
@[simp] theorem issueAs_dying (c : Core) (e k w l : Nat) : (c.issueAs e k w l).dying = c.dying := rfl
@[simp] theorem issueAs_told (c : Core) (e k w l : Nat) : (c.issueAs e k w l).told = c.told := rfl
@[simp] theorem issueAs_nested (c : Core) (e k w l : Nat) : (c.issueAs e k w l).nested = c.nested := rfl
@[simp] theorem issueAs_err (c : Core) (e k w l : Nat) : (c.issueAs e k w l).err = c.err := rfl
@[simp] theorem issueAs_delay (c : Core) (e k w l : Nat) : (c.issueAs e k w l).delay = c.delay := rfl
@[simp] theorem issueAs_free (c : Core) (e k w l : Nat) : (c.issueAs e k w l).free = c.free := rfl
@[simp] theorem issueAs_turn (c : Core) (e k w l : Nat) : (c.issueAs e k w l).turn = c.turn := rfl
@[simp] theorem issueAs_tail (c : Core) (e k w l : Nat) : (c.issueAs e k w l).tail = c.tail := rfl
@[simp] theorem issueAs_now (c : Core) (e k w l : Nat) : (c.issueAs e k w l).now = c.now := rfl
@[simp] theorem issueAs_text (c : Core) (e k w l : Nat) : (c.issueAs e k w l).text = c.text := rfl
@[simp] theorem issueAs_text0 (c : Core) (e k w l : Nat) : (c.issueAs e k w l).text0 = c.text0 := rfl
@[simp] theorem issueAs_tt (c : Core) (e k w l : Nat) : (c.issueAs e k w l).tt = c.tt := rfl
@[simp] theorem issueAs_ctl (c : Core) (e k w l : Nat) : (c.issueAs e k w l).ctl = c.ctl := rfl
@[simp] theorem issueAs_trap (c : Core) (e k w l : Nat) : (c.issueAs e k w l).trap = c.trap := rfl
@[simp] theorem issueAs_seen (c : Core) (e k w l : Nat) : (c.issueAs e k w l).seen = c.seen := rfl
@[simp] theorem issueAs_shown (c : Core) (e k w l : Nat) : (c.issueAs e k w l).shown = c.shown := rfl
@[simp] theorem issueAs_low (c : Core) (e k w l : Nat) : (c.issueAs e k w l).low = c.low := rfl
@[simp] theorem issueAs_eoc (c : Core) (e k w l : Nat) : (c.issueAs e k w l).eoc = c.eoc := rfl
@[simp] theorem issueAs_fly (c : Core) (e k w l : Nat) : (c.issueAs e k w l).fly = c.fly := rfl
@[simp] theorem issueAs_spr (c : Core) (e k w l : Nat) : (c.issueAs e k w l).spr = c.spr := rfl
@[simp] theorem issueAs_handles (c : Core) (e k w l : Nat) : (c.issueAs e k w l).handles = c.handles := rfl
@[simp] theorem issueAs_scratch (c : Core) (e k w l : Nat) : (c.issueAs e k w l).scratch = c.scratch := rfl
@[simp] theorem issueAs_wstack (c : Core) (e k w l : Nat) : (c.issueAs e k w l).wstack = c.wstack := rfl
@[simp] theorem issueAs_wsrec (c : Core) (e k w l : Nat) : (c.issueAs e k w l).wsrec = c.wsrec := rfl
@[simp] theorem issueAs_chan (c : Core) (e k w l : Nat) : (c.issueAs e k w l).chan = c.chan := rfl
@[simp] theorem issueAs_cpyReads (c : Core) (e k w l : Nat) : (c.issueAs e k w l).cpyReads = c.cpyReads := rfl
@[simp] theorem issueAs_mtx (c : Core) (e k w l : Nat) : (c.issueAs e k w l).mtx = c.mtx := rfl
@[simp] theorem issueAs_vec (c : Core) (e k w l : Nat) : (c.issueAs e k w l).vec = c.vec := rfl
@[simp] theorem issueAs_gtab (c : Core) (e k w l : Nat) : (c.issueAs e k w l).gtab = c.gtab := rfl
@[simp] theorem issueAs_gjob (c : Core) (e k w l : Nat) : (c.issueAs e k w l).gjob = c.gjob := rfl
@[simp] theorem issueAs_gtail (c : Core) (e k w l : Nat) : (c.issueAs e k w l).gtail = c.gtail := rfl
@[simp] theorem issueAs_ids (c : Core) (e k w l : Nat) : (c.issueAs e k w l).ids = c.ids := rfl
@[simp] theorem issueAs_lnk (c : Core) (e k w l : Nat) : (c.issueAs e k w l).lnk = c.lnk := rfl
@[simp] theorem issueAs_colls (c : Core) (e k w l : Nat) : (c.issueAs e k w l).colls = c.colls := rfl
@[simp] theorem issueAs_bar (c : Core) (e k w l : Nat) : (c.issueAs e k w l).bar = c.bar := rfl
@[simp] theorem issueAs_stepRel (c : Core) (e k w l : Nat) : (c.issueAs e k w l).stepRel = c.stepRel := rfl
@[simp] theorem issueAs_late (c : Core) (e k w l : Nat) : (c.issueAs e k w l).late = c.late := rfl
@[simp] theorem issueAs_step (c : Core) (e k w l : Nat) : (c.issueAs e k w l).step = c.step := rfl
@[simp] theorem issueAs_ckpt (c : Core) (e k w l : Nat) : (c.issueAs e k w l).ckpt = c.ckpt := rfl
@[simp] theorem issueAs_tracing (c : Core) (e k w l : Nat) : (c.issueAs e k w l).tracing = c.tracing := rfl
@[simp] theorem issueAs_trace (c : Core) (e k w l : Nat) : (c.issueAs e k w l).trace = c.trace := rfl

/-! ### Issuing a word and going on -/

@[simp] theorem issue_id (c : Core) (e k w : Nat) : (c.issue e k w).id = c.id := rfl
@[simp] theorem issue_ctx (c : Core) (e k w : Nat) : (c.issue e k w).ctx = c.ctx := rfl
@[simp] theorem issue_live (c : Core) (e k w : Nat) : (c.issue e k w).live = c.live := rfl
@[simp] theorem issue_frozen (c : Core) (e k w : Nat) : (c.issue e k w).frozen = c.frozen := rfl
@[simp] theorem issue_halted (c : Core) (e k w : Nat) : (c.issue e k w).halted = c.halted := rfl
@[simp] theorem issue_haltAt (c : Core) (e k w : Nat) : (c.issue e k w).haltAt = c.haltAt := rfl
@[simp] theorem issue_ready (c : Core) (e k w : Nat) : (c.issue e k w).ready = c.ready := rfl
@[simp] theorem issue_retired (c : Core) (e k w : Nat) : (c.issue e k w).retired = c.retired := rfl
@[simp] theorem issue_retiredAt (c : Core) (e k w : Nat) : (c.issue e k w).retiredAt = c.retiredAt := rfl
@[simp] theorem issue_quit (c : Core) (e k w : Nat) : (c.issue e k w).quit = c.quit := rfl
@[simp] theorem issue_dying (c : Core) (e k w : Nat) : (c.issue e k w).dying = c.dying := rfl
@[simp] theorem issue_told (c : Core) (e k w : Nat) : (c.issue e k w).told = c.told := rfl
@[simp] theorem issue_nested (c : Core) (e k w : Nat) : (c.issue e k w).nested = c.nested := rfl
@[simp] theorem issue_err (c : Core) (e k w : Nat) : (c.issue e k w).err = c.err := rfl
@[simp] theorem issue_delay (c : Core) (e k w : Nat) : (c.issue e k w).delay = c.delay := rfl
@[simp] theorem issue_free (c : Core) (e k w : Nat) : (c.issue e k w).free = c.free := rfl
@[simp] theorem issue_turn (c : Core) (e k w : Nat) : (c.issue e k w).turn = c.turn := rfl
@[simp] theorem issue_tail (c : Core) (e k w : Nat) : (c.issue e k w).tail = c.tail := rfl
@[simp] theorem issue_now (c : Core) (e k w : Nat) : (c.issue e k w).now = c.now := rfl
@[simp] theorem issue_text (c : Core) (e k w : Nat) : (c.issue e k w).text = c.text := rfl
@[simp] theorem issue_text0 (c : Core) (e k w : Nat) : (c.issue e k w).text0 = c.text0 := rfl
@[simp] theorem issue_tt (c : Core) (e k w : Nat) : (c.issue e k w).tt = c.tt := rfl
@[simp] theorem issue_ctl (c : Core) (e k w : Nat) : (c.issue e k w).ctl = c.ctl := rfl
@[simp] theorem issue_trap (c : Core) (e k w : Nat) : (c.issue e k w).trap = c.trap := rfl
@[simp] theorem issue_seen (c : Core) (e k w : Nat) : (c.issue e k w).seen = c.seen := rfl
@[simp] theorem issue_shown (c : Core) (e k w : Nat) : (c.issue e k w).shown = c.shown := rfl
@[simp] theorem issue_low (c : Core) (e k w : Nat) : (c.issue e k w).low = c.low := rfl
@[simp] theorem issue_eoc (c : Core) (e k w : Nat) : (c.issue e k w).eoc = c.eoc := rfl
@[simp] theorem issue_fly (c : Core) (e k w : Nat) : (c.issue e k w).fly = c.fly := rfl
@[simp] theorem issue_spr (c : Core) (e k w : Nat) : (c.issue e k w).spr = c.spr := rfl
@[simp] theorem issue_handles (c : Core) (e k w : Nat) : (c.issue e k w).handles = c.handles := rfl
@[simp] theorem issue_scratch (c : Core) (e k w : Nat) : (c.issue e k w).scratch = c.scratch := rfl
@[simp] theorem issue_wstack (c : Core) (e k w : Nat) : (c.issue e k w).wstack = c.wstack := rfl
@[simp] theorem issue_wsrec (c : Core) (e k w : Nat) : (c.issue e k w).wsrec = c.wsrec := rfl
@[simp] theorem issue_chan (c : Core) (e k w : Nat) : (c.issue e k w).chan = c.chan := rfl
@[simp] theorem issue_cpyReads (c : Core) (e k w : Nat) : (c.issue e k w).cpyReads = c.cpyReads := rfl
@[simp] theorem issue_mtx (c : Core) (e k w : Nat) : (c.issue e k w).mtx = c.mtx := rfl
@[simp] theorem issue_vec (c : Core) (e k w : Nat) : (c.issue e k w).vec = c.vec := rfl
@[simp] theorem issue_gtab (c : Core) (e k w : Nat) : (c.issue e k w).gtab = c.gtab := rfl
@[simp] theorem issue_gjob (c : Core) (e k w : Nat) : (c.issue e k w).gjob = c.gjob := rfl
@[simp] theorem issue_gtail (c : Core) (e k w : Nat) : (c.issue e k w).gtail = c.gtail := rfl
@[simp] theorem issue_ids (c : Core) (e k w : Nat) : (c.issue e k w).ids = c.ids := rfl
@[simp] theorem issue_lnk (c : Core) (e k w : Nat) : (c.issue e k w).lnk = c.lnk := rfl
@[simp] theorem issue_colls (c : Core) (e k w : Nat) : (c.issue e k w).colls = c.colls := rfl
@[simp] theorem issue_bar (c : Core) (e k w : Nat) : (c.issue e k w).bar = c.bar := rfl
@[simp] theorem issue_stepRel (c : Core) (e k w : Nat) : (c.issue e k w).stepRel = c.stepRel := rfl
@[simp] theorem issue_late (c : Core) (e k w : Nat) : (c.issue e k w).late = c.late := rfl
@[simp] theorem issue_step (c : Core) (e k w : Nat) : (c.issue e k w).step = c.step := rfl
@[simp] theorem issue_ckpt (c : Core) (e k w : Nat) : (c.issue e k w).ckpt = c.ckpt := rfl
@[simp] theorem issue_tracing (c : Core) (e k w : Nat) : (c.issue e k w).tracing = c.tracing := rfl
@[simp] theorem issue_trace (c : Core) (e k w : Nat) : (c.issue e k w).trace = c.trace := rfl

/-! ### Standing again at a word -/

@[simp] theorem rewind_id (c : Core) (e : Nat) : (c.rewind e).id = c.id := rfl
@[simp] theorem rewind_ctx (c : Core) (e : Nat) : (c.rewind e).ctx = c.ctx := rfl
@[simp] theorem rewind_live (c : Core) (e : Nat) : (c.rewind e).live = c.live := rfl
@[simp] theorem rewind_frozen (c : Core) (e : Nat) : (c.rewind e).frozen = c.frozen := rfl
@[simp] theorem rewind_halted (c : Core) (e : Nat) : (c.rewind e).halted = c.halted := rfl
@[simp] theorem rewind_haltAt (c : Core) (e : Nat) : (c.rewind e).haltAt = c.haltAt := rfl
@[simp] theorem rewind_ready (c : Core) (e : Nat) : (c.rewind e).ready = c.ready := rfl
@[simp] theorem rewind_retired (c : Core) (e : Nat) : (c.rewind e).retired = c.retired := rfl
@[simp] theorem rewind_retiredAt (c : Core) (e : Nat) : (c.rewind e).retiredAt = c.retiredAt := rfl
@[simp] theorem rewind_quit (c : Core) (e : Nat) : (c.rewind e).quit = c.quit := rfl
@[simp] theorem rewind_dying (c : Core) (e : Nat) : (c.rewind e).dying = c.dying := rfl
@[simp] theorem rewind_told (c : Core) (e : Nat) : (c.rewind e).told = c.told := rfl
@[simp] theorem rewind_nested (c : Core) (e : Nat) : (c.rewind e).nested = c.nested := rfl
@[simp] theorem rewind_err (c : Core) (e : Nat) : (c.rewind e).err = c.err := rfl
@[simp] theorem rewind_delay (c : Core) (e : Nat) : (c.rewind e).delay = c.delay := rfl
@[simp] theorem rewind_free (c : Core) (e : Nat) : (c.rewind e).free = c.free := rfl
@[simp] theorem rewind_turn (c : Core) (e : Nat) : (c.rewind e).turn = c.turn := rfl
@[simp] theorem rewind_tail (c : Core) (e : Nat) : (c.rewind e).tail = c.tail := rfl
@[simp] theorem rewind_now (c : Core) (e : Nat) : (c.rewind e).now = c.now := rfl
@[simp] theorem rewind_text (c : Core) (e : Nat) : (c.rewind e).text = c.text := rfl
@[simp] theorem rewind_text0 (c : Core) (e : Nat) : (c.rewind e).text0 = c.text0 := rfl
@[simp] theorem rewind_tt (c : Core) (e : Nat) : (c.rewind e).tt = c.tt := rfl
@[simp] theorem rewind_ctl (c : Core) (e : Nat) : (c.rewind e).ctl = c.ctl := rfl
@[simp] theorem rewind_trap (c : Core) (e : Nat) : (c.rewind e).trap = c.trap := rfl
@[simp] theorem rewind_seen (c : Core) (e : Nat) : (c.rewind e).seen = c.seen := rfl
@[simp] theorem rewind_shown (c : Core) (e : Nat) : (c.rewind e).shown = c.shown := rfl
@[simp] theorem rewind_low (c : Core) (e : Nat) : (c.rewind e).low = c.low := rfl
@[simp] theorem rewind_eoc (c : Core) (e : Nat) : (c.rewind e).eoc = c.eoc := rfl
@[simp] theorem rewind_fly (c : Core) (e : Nat) : (c.rewind e).fly = c.fly := rfl
@[simp] theorem rewind_spr (c : Core) (e : Nat) : (c.rewind e).spr = c.spr := rfl
@[simp] theorem rewind_handles (c : Core) (e : Nat) : (c.rewind e).handles = c.handles := rfl
@[simp] theorem rewind_scratch (c : Core) (e : Nat) : (c.rewind e).scratch = c.scratch := rfl
@[simp] theorem rewind_wstack (c : Core) (e : Nat) : (c.rewind e).wstack = c.wstack := rfl
@[simp] theorem rewind_wsrec (c : Core) (e : Nat) : (c.rewind e).wsrec = c.wsrec := rfl
@[simp] theorem rewind_chan (c : Core) (e : Nat) : (c.rewind e).chan = c.chan := rfl
@[simp] theorem rewind_cpyReads (c : Core) (e : Nat) : (c.rewind e).cpyReads = c.cpyReads := rfl
@[simp] theorem rewind_mtx (c : Core) (e : Nat) : (c.rewind e).mtx = c.mtx := rfl
@[simp] theorem rewind_vec (c : Core) (e : Nat) : (c.rewind e).vec = c.vec := rfl
@[simp] theorem rewind_gtab (c : Core) (e : Nat) : (c.rewind e).gtab = c.gtab := rfl
@[simp] theorem rewind_gjob (c : Core) (e : Nat) : (c.rewind e).gjob = c.gjob := rfl
@[simp] theorem rewind_gtail (c : Core) (e : Nat) : (c.rewind e).gtail = c.gtail := rfl
@[simp] theorem rewind_ids (c : Core) (e : Nat) : (c.rewind e).ids = c.ids := rfl
@[simp] theorem rewind_lnk (c : Core) (e : Nat) : (c.rewind e).lnk = c.lnk := rfl
@[simp] theorem rewind_colls (c : Core) (e : Nat) : (c.rewind e).colls = c.colls := rfl
@[simp] theorem rewind_bar (c : Core) (e : Nat) : (c.rewind e).bar = c.bar := rfl
@[simp] theorem rewind_stepRel (c : Core) (e : Nat) : (c.rewind e).stepRel = c.stepRel := rfl
@[simp] theorem rewind_late (c : Core) (e : Nat) : (c.rewind e).late = c.late := rfl
@[simp] theorem rewind_step (c : Core) (e : Nat) : (c.rewind e).step = c.step := rfl
@[simp] theorem rewind_ckpt (c : Core) (e : Nat) : (c.rewind e).ckpt = c.ckpt := rfl
@[simp] theorem rewind_tracing (c : Core) (e : Nat) : (c.rewind e).tracing = c.tracing := rfl
@[simp] theorem rewind_trace (c : Core) (e : Nat) : (c.rewind e).trace = c.trace := rfl

/-! ### Noting a wait -/

@[simp] theorem noteWait_id (c : Core) (e : Nat) (k : Byte) : (c.noteWait e k).id = c.id := rfl
@[simp] theorem noteWait_ctx (c : Core) (e : Nat) (k : Byte) : (c.noteWait e k).ctx = c.ctx := rfl
@[simp] theorem noteWait_live (c : Core) (e : Nat) (k : Byte) : (c.noteWait e k).live = c.live := rfl
@[simp] theorem noteWait_frozen (c : Core) (e : Nat) (k : Byte) : (c.noteWait e k).frozen = c.frozen := rfl
@[simp] theorem noteWait_halted (c : Core) (e : Nat) (k : Byte) : (c.noteWait e k).halted = c.halted := rfl
@[simp] theorem noteWait_haltAt (c : Core) (e : Nat) (k : Byte) : (c.noteWait e k).haltAt = c.haltAt := rfl
@[simp] theorem noteWait_ready (c : Core) (e : Nat) (k : Byte) : (c.noteWait e k).ready = c.ready := rfl
@[simp] theorem noteWait_retired (c : Core) (e : Nat) (k : Byte) : (c.noteWait e k).retired = c.retired := rfl
@[simp] theorem noteWait_retiredAt (c : Core) (e : Nat) (k : Byte) : (c.noteWait e k).retiredAt = c.retiredAt := rfl
@[simp] theorem noteWait_quit (c : Core) (e : Nat) (k : Byte) : (c.noteWait e k).quit = c.quit := rfl
@[simp] theorem noteWait_dying (c : Core) (e : Nat) (k : Byte) : (c.noteWait e k).dying = c.dying := rfl
@[simp] theorem noteWait_told (c : Core) (e : Nat) (k : Byte) : (c.noteWait e k).told = c.told := rfl
@[simp] theorem noteWait_nested (c : Core) (e : Nat) (k : Byte) : (c.noteWait e k).nested = c.nested := rfl
@[simp] theorem noteWait_err (c : Core) (e : Nat) (k : Byte) : (c.noteWait e k).err = c.err := rfl
@[simp] theorem noteWait_delay (c : Core) (e : Nat) (k : Byte) : (c.noteWait e k).delay = c.delay := rfl
@[simp] theorem noteWait_free (c : Core) (e : Nat) (k : Byte) : (c.noteWait e k).free = c.free := rfl
@[simp] theorem noteWait_turn (c : Core) (e : Nat) (k : Byte) : (c.noteWait e k).turn = c.turn := rfl
@[simp] theorem noteWait_tail (c : Core) (e : Nat) (k : Byte) : (c.noteWait e k).tail = c.tail := rfl
@[simp] theorem noteWait_now (c : Core) (e : Nat) (k : Byte) : (c.noteWait e k).now = c.now := rfl
@[simp] theorem noteWait_text (c : Core) (e : Nat) (k : Byte) : (c.noteWait e k).text = c.text := rfl
@[simp] theorem noteWait_text0 (c : Core) (e : Nat) (k : Byte) : (c.noteWait e k).text0 = c.text0 := rfl
@[simp] theorem noteWait_tt (c : Core) (e : Nat) (k : Byte) : (c.noteWait e k).tt = c.tt := rfl
@[simp] theorem noteWait_ctl (c : Core) (e : Nat) (k : Byte) : (c.noteWait e k).ctl = c.ctl := rfl
@[simp] theorem noteWait_trap (c : Core) (e : Nat) (k : Byte) : (c.noteWait e k).trap = c.trap := rfl
@[simp] theorem noteWait_seen (c : Core) (e : Nat) (k : Byte) : (c.noteWait e k).seen = c.seen := rfl
@[simp] theorem noteWait_shown (c : Core) (e : Nat) (k : Byte) : (c.noteWait e k).shown = c.shown := rfl
@[simp] theorem noteWait_low (c : Core) (e : Nat) (k : Byte) : (c.noteWait e k).low = c.low := rfl
@[simp] theorem noteWait_eoc (c : Core) (e : Nat) (k : Byte) : (c.noteWait e k).eoc = c.eoc := rfl
@[simp] theorem noteWait_fly (c : Core) (e : Nat) (k : Byte) : (c.noteWait e k).fly = c.fly := rfl
@[simp] theorem noteWait_spr (c : Core) (e : Nat) (k : Byte) : (c.noteWait e k).spr = c.spr := rfl
@[simp] theorem noteWait_handles (c : Core) (e : Nat) (k : Byte) : (c.noteWait e k).handles = c.handles := rfl
@[simp] theorem noteWait_scratch (c : Core) (e : Nat) (k : Byte) : (c.noteWait e k).scratch = c.scratch := rfl
@[simp] theorem noteWait_wstack (c : Core) (e : Nat) (k : Byte) : (c.noteWait e k).wstack = c.wstack := rfl
@[simp] theorem noteWait_wsrec (c : Core) (e : Nat) (k : Byte) : (c.noteWait e k).wsrec = c.wsrec := rfl
@[simp] theorem noteWait_chan (c : Core) (e : Nat) (k : Byte) : (c.noteWait e k).chan = c.chan := rfl
@[simp] theorem noteWait_cpyReads (c : Core) (e : Nat) (k : Byte) : (c.noteWait e k).cpyReads = c.cpyReads := rfl
@[simp] theorem noteWait_mtx (c : Core) (e : Nat) (k : Byte) : (c.noteWait e k).mtx = c.mtx := rfl
@[simp] theorem noteWait_vec (c : Core) (e : Nat) (k : Byte) : (c.noteWait e k).vec = c.vec := rfl
@[simp] theorem noteWait_gtab (c : Core) (e : Nat) (k : Byte) : (c.noteWait e k).gtab = c.gtab := rfl
@[simp] theorem noteWait_gjob (c : Core) (e : Nat) (k : Byte) : (c.noteWait e k).gjob = c.gjob := rfl
@[simp] theorem noteWait_gtail (c : Core) (e : Nat) (k : Byte) : (c.noteWait e k).gtail = c.gtail := rfl
@[simp] theorem noteWait_ids (c : Core) (e : Nat) (k : Byte) : (c.noteWait e k).ids = c.ids := rfl
@[simp] theorem noteWait_lnk (c : Core) (e : Nat) (k : Byte) : (c.noteWait e k).lnk = c.lnk := rfl
@[simp] theorem noteWait_colls (c : Core) (e : Nat) (k : Byte) : (c.noteWait e k).colls = c.colls := rfl
@[simp] theorem noteWait_bar (c : Core) (e : Nat) (k : Byte) : (c.noteWait e k).bar = c.bar := rfl
@[simp] theorem noteWait_stepRel (c : Core) (e : Nat) (k : Byte) : (c.noteWait e k).stepRel = c.stepRel := rfl
@[simp] theorem noteWait_late (c : Core) (e : Nat) (k : Byte) : (c.noteWait e k).late = c.late := rfl
@[simp] theorem noteWait_step (c : Core) (e : Nat) (k : Byte) : (c.noteWait e k).step = c.step := rfl
@[simp] theorem noteWait_ckpt (c : Core) (e : Nat) (k : Byte) : (c.noteWait e k).ckpt = c.ckpt := rfl
@[simp] theorem noteWait_tracing (c : Core) (e : Nat) (k : Byte) : (c.noteWait e k).tracing = c.tracing := rfl
@[simp] theorem noteWait_trace (c : Core) (e : Nat) (k : Byte) : (c.noteWait e k).trace = c.trace := rfl

/-! ### Noting a cause -/

@[simp] theorem noteCause_id (c : Core) (e : BitVec 3) (k : Byte) : (c.noteCause e k).id = c.id := rfl
@[simp] theorem noteCause_ctx (c : Core) (e : BitVec 3) (k : Byte) : (c.noteCause e k).ctx = c.ctx := rfl
@[simp] theorem noteCause_live (c : Core) (e : BitVec 3) (k : Byte) : (c.noteCause e k).live = c.live := rfl
@[simp] theorem noteCause_frozen (c : Core) (e : BitVec 3) (k : Byte) : (c.noteCause e k).frozen = c.frozen := rfl
@[simp] theorem noteCause_halted (c : Core) (e : BitVec 3) (k : Byte) : (c.noteCause e k).halted = c.halted := rfl
@[simp] theorem noteCause_haltAt (c : Core) (e : BitVec 3) (k : Byte) : (c.noteCause e k).haltAt = c.haltAt := rfl
@[simp] theorem noteCause_ready (c : Core) (e : BitVec 3) (k : Byte) : (c.noteCause e k).ready = c.ready := rfl
@[simp] theorem noteCause_retired (c : Core) (e : BitVec 3) (k : Byte) : (c.noteCause e k).retired = c.retired := rfl
@[simp] theorem noteCause_retiredAt (c : Core) (e : BitVec 3) (k : Byte) : (c.noteCause e k).retiredAt = c.retiredAt := rfl
@[simp] theorem noteCause_quit (c : Core) (e : BitVec 3) (k : Byte) : (c.noteCause e k).quit = c.quit := rfl
@[simp] theorem noteCause_dying (c : Core) (e : BitVec 3) (k : Byte) : (c.noteCause e k).dying = c.dying := rfl
@[simp] theorem noteCause_told (c : Core) (e : BitVec 3) (k : Byte) : (c.noteCause e k).told = c.told := rfl
@[simp] theorem noteCause_nested (c : Core) (e : BitVec 3) (k : Byte) : (c.noteCause e k).nested = c.nested := rfl
@[simp] theorem noteCause_err (c : Core) (e : BitVec 3) (k : Byte) : (c.noteCause e k).err = c.err := rfl
@[simp] theorem noteCause_delay (c : Core) (e : BitVec 3) (k : Byte) : (c.noteCause e k).delay = c.delay := rfl
@[simp] theorem noteCause_free (c : Core) (e : BitVec 3) (k : Byte) : (c.noteCause e k).free = c.free := rfl
@[simp] theorem noteCause_turn (c : Core) (e : BitVec 3) (k : Byte) : (c.noteCause e k).turn = c.turn := rfl
@[simp] theorem noteCause_tail (c : Core) (e : BitVec 3) (k : Byte) : (c.noteCause e k).tail = c.tail := rfl
@[simp] theorem noteCause_now (c : Core) (e : BitVec 3) (k : Byte) : (c.noteCause e k).now = c.now := rfl
@[simp] theorem noteCause_text (c : Core) (e : BitVec 3) (k : Byte) : (c.noteCause e k).text = c.text := rfl
@[simp] theorem noteCause_text0 (c : Core) (e : BitVec 3) (k : Byte) : (c.noteCause e k).text0 = c.text0 := rfl
@[simp] theorem noteCause_tt (c : Core) (e : BitVec 3) (k : Byte) : (c.noteCause e k).tt = c.tt := rfl
@[simp] theorem noteCause_ctl (c : Core) (e : BitVec 3) (k : Byte) : (c.noteCause e k).ctl = c.ctl := rfl
@[simp] theorem noteCause_trap (c : Core) (e : BitVec 3) (k : Byte) : (c.noteCause e k).trap = c.trap := rfl
@[simp] theorem noteCause_seen (c : Core) (e : BitVec 3) (k : Byte) : (c.noteCause e k).seen = c.seen := rfl
@[simp] theorem noteCause_shown (c : Core) (e : BitVec 3) (k : Byte) : (c.noteCause e k).shown = c.shown := rfl
@[simp] theorem noteCause_low (c : Core) (e : BitVec 3) (k : Byte) : (c.noteCause e k).low = c.low := rfl
@[simp] theorem noteCause_eoc (c : Core) (e : BitVec 3) (k : Byte) : (c.noteCause e k).eoc = c.eoc := rfl
@[simp] theorem noteCause_fly (c : Core) (e : BitVec 3) (k : Byte) : (c.noteCause e k).fly = c.fly := rfl
@[simp] theorem noteCause_spr (c : Core) (e : BitVec 3) (k : Byte) : (c.noteCause e k).spr = c.spr := rfl
@[simp] theorem noteCause_handles (c : Core) (e : BitVec 3) (k : Byte) : (c.noteCause e k).handles = c.handles := rfl
@[simp] theorem noteCause_scratch (c : Core) (e : BitVec 3) (k : Byte) : (c.noteCause e k).scratch = c.scratch := rfl
@[simp] theorem noteCause_wstack (c : Core) (e : BitVec 3) (k : Byte) : (c.noteCause e k).wstack = c.wstack := rfl
@[simp] theorem noteCause_wsrec (c : Core) (e : BitVec 3) (k : Byte) : (c.noteCause e k).wsrec = c.wsrec := rfl
@[simp] theorem noteCause_chan (c : Core) (e : BitVec 3) (k : Byte) : (c.noteCause e k).chan = c.chan := rfl
@[simp] theorem noteCause_cpyReads (c : Core) (e : BitVec 3) (k : Byte) : (c.noteCause e k).cpyReads = c.cpyReads := rfl
@[simp] theorem noteCause_mtx (c : Core) (e : BitVec 3) (k : Byte) : (c.noteCause e k).mtx = c.mtx := rfl
@[simp] theorem noteCause_vec (c : Core) (e : BitVec 3) (k : Byte) : (c.noteCause e k).vec = c.vec := rfl
@[simp] theorem noteCause_gtab (c : Core) (e : BitVec 3) (k : Byte) : (c.noteCause e k).gtab = c.gtab := rfl
@[simp] theorem noteCause_gjob (c : Core) (e : BitVec 3) (k : Byte) : (c.noteCause e k).gjob = c.gjob := rfl
@[simp] theorem noteCause_gtail (c : Core) (e : BitVec 3) (k : Byte) : (c.noteCause e k).gtail = c.gtail := rfl
@[simp] theorem noteCause_ids (c : Core) (e : BitVec 3) (k : Byte) : (c.noteCause e k).ids = c.ids := rfl
@[simp] theorem noteCause_lnk (c : Core) (e : BitVec 3) (k : Byte) : (c.noteCause e k).lnk = c.lnk := rfl
@[simp] theorem noteCause_colls (c : Core) (e : BitVec 3) (k : Byte) : (c.noteCause e k).colls = c.colls := rfl
@[simp] theorem noteCause_bar (c : Core) (e : BitVec 3) (k : Byte) : (c.noteCause e k).bar = c.bar := rfl
@[simp] theorem noteCause_stepRel (c : Core) (e : BitVec 3) (k : Byte) : (c.noteCause e k).stepRel = c.stepRel := rfl
@[simp] theorem noteCause_late (c : Core) (e : BitVec 3) (k : Byte) : (c.noteCause e k).late = c.late := rfl
@[simp] theorem noteCause_step (c : Core) (e : BitVec 3) (k : Byte) : (c.noteCause e k).step = c.step := rfl
@[simp] theorem noteCause_ckpt (c : Core) (e : BitVec 3) (k : Byte) : (c.noteCause e k).ckpt = c.ckpt := rfl
@[simp] theorem noteCause_tracing (c : Core) (e : BitVec 3) (k : Byte) : (c.noteCause e k).tracing = c.tracing := rfl
@[simp] theorem noteCause_trace (c : Core) (e : BitVec 3) (k : Byte) : (c.noteCause e k).trace = c.trace := rfl

/-! ### Writing a general register -/

@[simp] theorem writeG_id (c : Core) (d : GReg) (v : Dword) (m : Bool) (k : Nat) : (c.writeG d v m k).id = c.id := by
  unfold Core.writeG; split <;> rfl
@[simp] theorem writeG_ctx (c : Core) (d : GReg) (v : Dword) (m : Bool) (k : Nat) : (c.writeG d v m k).ctx = c.ctx := by
  unfold Core.writeG; split <;> rfl
@[simp] theorem writeG_live (c : Core) (d : GReg) (v : Dword) (m : Bool) (k : Nat) : (c.writeG d v m k).live = c.live := by
  unfold Core.writeG; split <;> rfl
@[simp] theorem writeG_frozen (c : Core) (d : GReg) (v : Dword) (m : Bool) (k : Nat) : (c.writeG d v m k).frozen = c.frozen := by
  unfold Core.writeG; split <;> rfl
@[simp] theorem writeG_halted (c : Core) (d : GReg) (v : Dword) (m : Bool) (k : Nat) : (c.writeG d v m k).halted = c.halted := by
  unfold Core.writeG; split <;> rfl
@[simp] theorem writeG_haltAt (c : Core) (d : GReg) (v : Dword) (m : Bool) (k : Nat) : (c.writeG d v m k).haltAt = c.haltAt := by
  unfold Core.writeG; split <;> rfl
@[simp] theorem writeG_ready (c : Core) (d : GReg) (v : Dword) (m : Bool) (k : Nat) : (c.writeG d v m k).ready = c.ready := by
  unfold Core.writeG; split <;> rfl
@[simp] theorem writeG_retired (c : Core) (d : GReg) (v : Dword) (m : Bool) (k : Nat) : (c.writeG d v m k).retired = c.retired := by
  unfold Core.writeG; split <;> rfl
@[simp] theorem writeG_retiredAt (c : Core) (d : GReg) (v : Dword) (m : Bool) (k : Nat) : (c.writeG d v m k).retiredAt = c.retiredAt := by
  unfold Core.writeG; split <;> rfl
@[simp] theorem writeG_quit (c : Core) (d : GReg) (v : Dword) (m : Bool) (k : Nat) : (c.writeG d v m k).quit = c.quit := by
  unfold Core.writeG; split <;> rfl
@[simp] theorem writeG_dying (c : Core) (d : GReg) (v : Dword) (m : Bool) (k : Nat) : (c.writeG d v m k).dying = c.dying := by
  unfold Core.writeG; split <;> rfl
@[simp] theorem writeG_told (c : Core) (d : GReg) (v : Dword) (m : Bool) (k : Nat) : (c.writeG d v m k).told = c.told := by
  unfold Core.writeG; split <;> rfl
@[simp] theorem writeG_nested (c : Core) (d : GReg) (v : Dword) (m : Bool) (k : Nat) : (c.writeG d v m k).nested = c.nested := by
  unfold Core.writeG; split <;> rfl
@[simp] theorem writeG_err (c : Core) (d : GReg) (v : Dword) (m : Bool) (k : Nat) : (c.writeG d v m k).err = c.err := by
  unfold Core.writeG; split <;> rfl
@[simp] theorem writeG_delay (c : Core) (d : GReg) (v : Dword) (m : Bool) (k : Nat) : (c.writeG d v m k).delay = c.delay := by
  unfold Core.writeG; split <;> rfl
@[simp] theorem writeG_free (c : Core) (d : GReg) (v : Dword) (m : Bool) (k : Nat) : (c.writeG d v m k).free = c.free := by
  unfold Core.writeG; split <;> rfl
@[simp] theorem writeG_turn (c : Core) (d : GReg) (v : Dword) (m : Bool) (k : Nat) : (c.writeG d v m k).turn = c.turn := by
  unfold Core.writeG; split <;> rfl
@[simp] theorem writeG_tail (c : Core) (d : GReg) (v : Dword) (m : Bool) (k : Nat) : (c.writeG d v m k).tail = c.tail := by
  unfold Core.writeG; split <;> rfl
@[simp] theorem writeG_now (c : Core) (d : GReg) (v : Dword) (m : Bool) (k : Nat) : (c.writeG d v m k).now = c.now := by
  unfold Core.writeG; split <;> rfl
@[simp] theorem writeG_text (c : Core) (d : GReg) (v : Dword) (m : Bool) (k : Nat) : (c.writeG d v m k).text = c.text := by
  unfold Core.writeG; split <;> rfl
@[simp] theorem writeG_text0 (c : Core) (d : GReg) (v : Dword) (m : Bool) (k : Nat) : (c.writeG d v m k).text0 = c.text0 := by
  unfold Core.writeG; split <;> rfl
@[simp] theorem writeG_tt (c : Core) (d : GReg) (v : Dword) (m : Bool) (k : Nat) : (c.writeG d v m k).tt = c.tt := by
  unfold Core.writeG; split <;> rfl
@[simp] theorem writeG_eng (c : Core) (d : GReg) (v : Dword) (m : Bool) (k : Nat) : (c.writeG d v m k).eng = c.eng := by
  unfold Core.writeG; split <;> rfl
@[simp] theorem writeG_trap (c : Core) (d : GReg) (v : Dword) (m : Bool) (k : Nat) : (c.writeG d v m k).trap = c.trap := by
  unfold Core.writeG; split <;> rfl
@[simp] theorem writeG_seen (c : Core) (d : GReg) (v : Dword) (m : Bool) (k : Nat) : (c.writeG d v m k).seen = c.seen := by
  unfold Core.writeG; split <;> rfl
@[simp] theorem writeG_shown (c : Core) (d : GReg) (v : Dword) (m : Bool) (k : Nat) : (c.writeG d v m k).shown = c.shown := by
  unfold Core.writeG; split <;> rfl
@[simp] theorem writeG_low (c : Core) (d : GReg) (v : Dword) (m : Bool) (k : Nat) : (c.writeG d v m k).low = c.low := by
  unfold Core.writeG; split <;> rfl
@[simp] theorem writeG_eoc (c : Core) (d : GReg) (v : Dword) (m : Bool) (k : Nat) : (c.writeG d v m k).eoc = c.eoc := by
  unfold Core.writeG; split <;> rfl
@[simp] theorem writeG_fly (c : Core) (d : GReg) (v : Dword) (m : Bool) (k : Nat) : (c.writeG d v m k).fly = c.fly := by
  unfold Core.writeG; split <;> rfl
@[simp] theorem writeG_spr (c : Core) (d : GReg) (v : Dword) (m : Bool) (k : Nat) : (c.writeG d v m k).spr = c.spr := by
  unfold Core.writeG; split <;> rfl
@[simp] theorem writeG_handles (c : Core) (d : GReg) (v : Dword) (m : Bool) (k : Nat) : (c.writeG d v m k).handles = c.handles := by
  unfold Core.writeG; split <;> rfl
@[simp] theorem writeG_scratch (c : Core) (d : GReg) (v : Dword) (m : Bool) (k : Nat) : (c.writeG d v m k).scratch = c.scratch := by
  unfold Core.writeG; split <;> rfl
@[simp] theorem writeG_wstack (c : Core) (d : GReg) (v : Dword) (m : Bool) (k : Nat) : (c.writeG d v m k).wstack = c.wstack := by
  unfold Core.writeG; split <;> rfl
@[simp] theorem writeG_wsrec (c : Core) (d : GReg) (v : Dword) (m : Bool) (k : Nat) : (c.writeG d v m k).wsrec = c.wsrec := by
  unfold Core.writeG; split <;> rfl
@[simp] theorem writeG_chan (c : Core) (d : GReg) (v : Dword) (m : Bool) (k : Nat) : (c.writeG d v m k).chan = c.chan := by
  unfold Core.writeG; split <;> rfl
@[simp] theorem writeG_cpyReads (c : Core) (d : GReg) (v : Dword) (m : Bool) (k : Nat) : (c.writeG d v m k).cpyReads = c.cpyReads := by
  unfold Core.writeG; split <;> rfl
@[simp] theorem writeG_mtx (c : Core) (d : GReg) (v : Dword) (m : Bool) (k : Nat) : (c.writeG d v m k).mtx = c.mtx := by
  unfold Core.writeG; split <;> rfl
@[simp] theorem writeG_vec (c : Core) (d : GReg) (v : Dword) (m : Bool) (k : Nat) : (c.writeG d v m k).vec = c.vec := by
  unfold Core.writeG; split <;> rfl
@[simp] theorem writeG_gtab (c : Core) (d : GReg) (v : Dword) (m : Bool) (k : Nat) : (c.writeG d v m k).gtab = c.gtab := by
  unfold Core.writeG; split <;> rfl
@[simp] theorem writeG_gjob (c : Core) (d : GReg) (v : Dword) (m : Bool) (k : Nat) : (c.writeG d v m k).gjob = c.gjob := by
  unfold Core.writeG; split <;> rfl
@[simp] theorem writeG_gtail (c : Core) (d : GReg) (v : Dword) (m : Bool) (k : Nat) : (c.writeG d v m k).gtail = c.gtail := by
  unfold Core.writeG; split <;> rfl
@[simp] theorem writeG_ids (c : Core) (d : GReg) (v : Dword) (m : Bool) (k : Nat) : (c.writeG d v m k).ids = c.ids := by
  unfold Core.writeG; split <;> rfl
@[simp] theorem writeG_lnk (c : Core) (d : GReg) (v : Dword) (m : Bool) (k : Nat) : (c.writeG d v m k).lnk = c.lnk := by
  unfold Core.writeG; split <;> rfl
@[simp] theorem writeG_colls (c : Core) (d : GReg) (v : Dword) (m : Bool) (k : Nat) : (c.writeG d v m k).colls = c.colls := by
  unfold Core.writeG; split <;> rfl
@[simp] theorem writeG_bar (c : Core) (d : GReg) (v : Dword) (m : Bool) (k : Nat) : (c.writeG d v m k).bar = c.bar := by
  unfold Core.writeG; split <;> rfl
@[simp] theorem writeG_stepRel (c : Core) (d : GReg) (v : Dword) (m : Bool) (k : Nat) : (c.writeG d v m k).stepRel = c.stepRel := by
  unfold Core.writeG; split <;> rfl
@[simp] theorem writeG_late (c : Core) (d : GReg) (v : Dword) (m : Bool) (k : Nat) : (c.writeG d v m k).late = c.late := by
  unfold Core.writeG; split <;> rfl
@[simp] theorem writeG_step (c : Core) (d : GReg) (v : Dword) (m : Bool) (k : Nat) : (c.writeG d v m k).step = c.step := by
  unfold Core.writeG; split <;> rfl
@[simp] theorem writeG_ckpt (c : Core) (d : GReg) (v : Dword) (m : Bool) (k : Nat) : (c.writeG d v m k).ckpt = c.ckpt := by
  unfold Core.writeG; split <;> rfl
@[simp] theorem writeG_tracing (c : Core) (d : GReg) (v : Dword) (m : Bool) (k : Nat) : (c.writeG d v m k).tracing = c.tracing := by
  unfold Core.writeG; split <;> rfl
@[simp] theorem writeG_trace (c : Core) (d : GReg) (v : Dword) (m : Bool) (k : Nat) : (c.writeG d v m k).trace = c.trace := by
  unfold Core.writeG; split <;> rfl

/-! ### Awaiting a load -/

@[simp] theorem awaitG_id (c : Core) (d : GReg) : (c.awaitG d).id = c.id := by
  unfold Core.awaitG; split <;> simp
@[simp] theorem awaitG_ctx (c : Core) (d : GReg) : (c.awaitG d).ctx = c.ctx := by
  unfold Core.awaitG; split <;> simp
@[simp] theorem awaitG_live (c : Core) (d : GReg) : (c.awaitG d).live = c.live := by
  unfold Core.awaitG; split <;> simp
@[simp] theorem awaitG_frozen (c : Core) (d : GReg) : (c.awaitG d).frozen = c.frozen := by
  unfold Core.awaitG; split <;> simp
@[simp] theorem awaitG_halted (c : Core) (d : GReg) : (c.awaitG d).halted = c.halted := by
  unfold Core.awaitG; split <;> simp
@[simp] theorem awaitG_haltAt (c : Core) (d : GReg) : (c.awaitG d).haltAt = c.haltAt := by
  unfold Core.awaitG; split <;> simp
@[simp] theorem awaitG_ready (c : Core) (d : GReg) : (c.awaitG d).ready = c.ready := by
  unfold Core.awaitG; split <;> simp
@[simp] theorem awaitG_retired (c : Core) (d : GReg) : (c.awaitG d).retired = c.retired := by
  unfold Core.awaitG; split <;> simp
@[simp] theorem awaitG_retiredAt (c : Core) (d : GReg) : (c.awaitG d).retiredAt = c.retiredAt := by
  unfold Core.awaitG; split <;> simp
@[simp] theorem awaitG_quit (c : Core) (d : GReg) : (c.awaitG d).quit = c.quit := by
  unfold Core.awaitG; split <;> simp
@[simp] theorem awaitG_dying (c : Core) (d : GReg) : (c.awaitG d).dying = c.dying := by
  unfold Core.awaitG; split <;> simp
@[simp] theorem awaitG_told (c : Core) (d : GReg) : (c.awaitG d).told = c.told := by
  unfold Core.awaitG; split <;> simp
@[simp] theorem awaitG_nested (c : Core) (d : GReg) : (c.awaitG d).nested = c.nested := by
  unfold Core.awaitG; split <;> simp
@[simp] theorem awaitG_err (c : Core) (d : GReg) : (c.awaitG d).err = c.err := by
  unfold Core.awaitG; split <;> simp
@[simp] theorem awaitG_delay (c : Core) (d : GReg) : (c.awaitG d).delay = c.delay := by
  unfold Core.awaitG; split <;> simp
@[simp] theorem awaitG_free (c : Core) (d : GReg) : (c.awaitG d).free = c.free := by
  unfold Core.awaitG; split <;> simp
@[simp] theorem awaitG_turn (c : Core) (d : GReg) : (c.awaitG d).turn = c.turn := by
  unfold Core.awaitG; split <;> simp
@[simp] theorem awaitG_tail (c : Core) (d : GReg) : (c.awaitG d).tail = c.tail := by
  unfold Core.awaitG; split <;> simp
@[simp] theorem awaitG_now (c : Core) (d : GReg) : (c.awaitG d).now = c.now := by
  unfold Core.awaitG; split <;> simp
@[simp] theorem awaitG_text (c : Core) (d : GReg) : (c.awaitG d).text = c.text := by
  unfold Core.awaitG; split <;> simp
@[simp] theorem awaitG_text0 (c : Core) (d : GReg) : (c.awaitG d).text0 = c.text0 := by
  unfold Core.awaitG; split <;> simp
@[simp] theorem awaitG_tt (c : Core) (d : GReg) : (c.awaitG d).tt = c.tt := by
  unfold Core.awaitG; split <;> simp
@[simp] theorem awaitG_eng (c : Core) (d : GReg) : (c.awaitG d).eng = c.eng := by
  unfold Core.awaitG; split <;> simp
@[simp] theorem awaitG_trap (c : Core) (d : GReg) : (c.awaitG d).trap = c.trap := by
  unfold Core.awaitG; split <;> simp
@[simp] theorem awaitG_seen (c : Core) (d : GReg) : (c.awaitG d).seen = c.seen := by
  unfold Core.awaitG; split <;> simp
@[simp] theorem awaitG_shown (c : Core) (d : GReg) : (c.awaitG d).shown = c.shown := by
  unfold Core.awaitG; split <;> simp
@[simp] theorem awaitG_low (c : Core) (d : GReg) : (c.awaitG d).low = c.low := by
  unfold Core.awaitG; split <;> simp
@[simp] theorem awaitG_eoc (c : Core) (d : GReg) : (c.awaitG d).eoc = c.eoc := by
  unfold Core.awaitG; split <;> simp
@[simp] theorem awaitG_fly (c : Core) (d : GReg) : (c.awaitG d).fly = c.fly := by
  unfold Core.awaitG; split <;> simp
@[simp] theorem awaitG_spr (c : Core) (d : GReg) : (c.awaitG d).spr = c.spr := by
  unfold Core.awaitG; split <;> simp
@[simp] theorem awaitG_handles (c : Core) (d : GReg) : (c.awaitG d).handles = c.handles := by
  unfold Core.awaitG; split <;> simp
@[simp] theorem awaitG_scratch (c : Core) (d : GReg) : (c.awaitG d).scratch = c.scratch := by
  unfold Core.awaitG; split <;> simp
@[simp] theorem awaitG_wstack (c : Core) (d : GReg) : (c.awaitG d).wstack = c.wstack := by
  unfold Core.awaitG; split <;> simp
@[simp] theorem awaitG_wsrec (c : Core) (d : GReg) : (c.awaitG d).wsrec = c.wsrec := by
  unfold Core.awaitG; split <;> simp
@[simp] theorem awaitG_chan (c : Core) (d : GReg) : (c.awaitG d).chan = c.chan := by
  unfold Core.awaitG; split <;> simp
@[simp] theorem awaitG_cpyReads (c : Core) (d : GReg) : (c.awaitG d).cpyReads = c.cpyReads := by
  unfold Core.awaitG; split <;> simp
@[simp] theorem awaitG_mtx (c : Core) (d : GReg) : (c.awaitG d).mtx = c.mtx := by
  unfold Core.awaitG; split <;> simp
@[simp] theorem awaitG_vec (c : Core) (d : GReg) : (c.awaitG d).vec = c.vec := by
  unfold Core.awaitG; split <;> simp
@[simp] theorem awaitG_gtab (c : Core) (d : GReg) : (c.awaitG d).gtab = c.gtab := by
  unfold Core.awaitG; split <;> simp
@[simp] theorem awaitG_gjob (c : Core) (d : GReg) : (c.awaitG d).gjob = c.gjob := by
  unfold Core.awaitG; split <;> simp
@[simp] theorem awaitG_gtail (c : Core) (d : GReg) : (c.awaitG d).gtail = c.gtail := by
  unfold Core.awaitG; split <;> simp
@[simp] theorem awaitG_ids (c : Core) (d : GReg) : (c.awaitG d).ids = c.ids := by
  unfold Core.awaitG; split <;> simp
@[simp] theorem awaitG_lnk (c : Core) (d : GReg) : (c.awaitG d).lnk = c.lnk := by
  unfold Core.awaitG; split <;> simp
@[simp] theorem awaitG_colls (c : Core) (d : GReg) : (c.awaitG d).colls = c.colls := by
  unfold Core.awaitG; split <;> simp
@[simp] theorem awaitG_bar (c : Core) (d : GReg) : (c.awaitG d).bar = c.bar := by
  unfold Core.awaitG; split <;> simp
@[simp] theorem awaitG_stepRel (c : Core) (d : GReg) : (c.awaitG d).stepRel = c.stepRel := by
  unfold Core.awaitG; split <;> simp
@[simp] theorem awaitG_late (c : Core) (d : GReg) : (c.awaitG d).late = c.late := by
  unfold Core.awaitG; split <;> simp
@[simp] theorem awaitG_step (c : Core) (d : GReg) : (c.awaitG d).step = c.step := by
  unfold Core.awaitG; split <;> simp
@[simp] theorem awaitG_ckpt (c : Core) (d : GReg) : (c.awaitG d).ckpt = c.ckpt := by
  unfold Core.awaitG; split <;> simp
@[simp] theorem awaitG_tracing (c : Core) (d : GReg) : (c.awaitG d).tracing = c.tracing := by
  unfold Core.awaitG; split <;> simp
@[simp] theorem awaitG_trace (c : Core) (d : GReg) : (c.awaitG d).trace = c.trace := by
  unfold Core.awaitG; split <;> simp

/-! ### Filling a register -/

@[simp] theorem fillG_id (c : Core) (d : GReg) (t : Nat) (v : Dword) (m : Bool) (k : Nat) : (c.fillG d t v m k).id = c.id := rfl
@[simp] theorem fillG_ctx (c : Core) (d : GReg) (t : Nat) (v : Dword) (m : Bool) (k : Nat) : (c.fillG d t v m k).ctx = c.ctx := rfl
@[simp] theorem fillG_live (c : Core) (d : GReg) (t : Nat) (v : Dword) (m : Bool) (k : Nat) : (c.fillG d t v m k).live = c.live := rfl
@[simp] theorem fillG_frozen (c : Core) (d : GReg) (t : Nat) (v : Dword) (m : Bool) (k : Nat) : (c.fillG d t v m k).frozen = c.frozen := rfl
@[simp] theorem fillG_halted (c : Core) (d : GReg) (t : Nat) (v : Dword) (m : Bool) (k : Nat) : (c.fillG d t v m k).halted = c.halted := rfl
@[simp] theorem fillG_haltAt (c : Core) (d : GReg) (t : Nat) (v : Dword) (m : Bool) (k : Nat) : (c.fillG d t v m k).haltAt = c.haltAt := rfl
@[simp] theorem fillG_ready (c : Core) (d : GReg) (t : Nat) (v : Dword) (m : Bool) (k : Nat) : (c.fillG d t v m k).ready = c.ready := rfl
@[simp] theorem fillG_retired (c : Core) (d : GReg) (t : Nat) (v : Dword) (m : Bool) (k : Nat) : (c.fillG d t v m k).retired = c.retired := rfl
@[simp] theorem fillG_retiredAt (c : Core) (d : GReg) (t : Nat) (v : Dword) (m : Bool) (k : Nat) : (c.fillG d t v m k).retiredAt = c.retiredAt := rfl
@[simp] theorem fillG_quit (c : Core) (d : GReg) (t : Nat) (v : Dword) (m : Bool) (k : Nat) : (c.fillG d t v m k).quit = c.quit := rfl
@[simp] theorem fillG_dying (c : Core) (d : GReg) (t : Nat) (v : Dword) (m : Bool) (k : Nat) : (c.fillG d t v m k).dying = c.dying := rfl
@[simp] theorem fillG_told (c : Core) (d : GReg) (t : Nat) (v : Dword) (m : Bool) (k : Nat) : (c.fillG d t v m k).told = c.told := rfl
@[simp] theorem fillG_nested (c : Core) (d : GReg) (t : Nat) (v : Dword) (m : Bool) (k : Nat) : (c.fillG d t v m k).nested = c.nested := rfl
@[simp] theorem fillG_err (c : Core) (d : GReg) (t : Nat) (v : Dword) (m : Bool) (k : Nat) : (c.fillG d t v m k).err = c.err := rfl
@[simp] theorem fillG_delay (c : Core) (d : GReg) (t : Nat) (v : Dword) (m : Bool) (k : Nat) : (c.fillG d t v m k).delay = c.delay := rfl
@[simp] theorem fillG_free (c : Core) (d : GReg) (t : Nat) (v : Dword) (m : Bool) (k : Nat) : (c.fillG d t v m k).free = c.free := rfl
@[simp] theorem fillG_turn (c : Core) (d : GReg) (t : Nat) (v : Dword) (m : Bool) (k : Nat) : (c.fillG d t v m k).turn = c.turn := rfl
@[simp] theorem fillG_tail (c : Core) (d : GReg) (t : Nat) (v : Dword) (m : Bool) (k : Nat) : (c.fillG d t v m k).tail = c.tail := rfl
@[simp] theorem fillG_now (c : Core) (d : GReg) (t : Nat) (v : Dword) (m : Bool) (k : Nat) : (c.fillG d t v m k).now = c.now := rfl
@[simp] theorem fillG_text (c : Core) (d : GReg) (t : Nat) (v : Dword) (m : Bool) (k : Nat) : (c.fillG d t v m k).text = c.text := rfl
@[simp] theorem fillG_text0 (c : Core) (d : GReg) (t : Nat) (v : Dword) (m : Bool) (k : Nat) : (c.fillG d t v m k).text0 = c.text0 := rfl
@[simp] theorem fillG_tt (c : Core) (d : GReg) (t : Nat) (v : Dword) (m : Bool) (k : Nat) : (c.fillG d t v m k).tt = c.tt := rfl
@[simp] theorem fillG_eng (c : Core) (d : GReg) (t : Nat) (v : Dword) (m : Bool) (k : Nat) : (c.fillG d t v m k).eng = c.eng := rfl
@[simp] theorem fillG_seen (c : Core) (d : GReg) (t : Nat) (v : Dword) (m : Bool) (k : Nat) : (c.fillG d t v m k).seen = c.seen := rfl
@[simp] theorem fillG_shown (c : Core) (d : GReg) (t : Nat) (v : Dword) (m : Bool) (k : Nat) : (c.fillG d t v m k).shown = c.shown := rfl
@[simp] theorem fillG_low (c : Core) (d : GReg) (t : Nat) (v : Dword) (m : Bool) (k : Nat) : (c.fillG d t v m k).low = c.low := rfl
@[simp] theorem fillG_eoc (c : Core) (d : GReg) (t : Nat) (v : Dword) (m : Bool) (k : Nat) : (c.fillG d t v m k).eoc = c.eoc := rfl
@[simp] theorem fillG_fly (c : Core) (d : GReg) (t : Nat) (v : Dword) (m : Bool) (k : Nat) : (c.fillG d t v m k).fly = c.fly := rfl
@[simp] theorem fillG_spr (c : Core) (d : GReg) (t : Nat) (v : Dword) (m : Bool) (k : Nat) : (c.fillG d t v m k).spr = c.spr := rfl
@[simp] theorem fillG_handles (c : Core) (d : GReg) (t : Nat) (v : Dword) (m : Bool) (k : Nat) : (c.fillG d t v m k).handles = c.handles := rfl
@[simp] theorem fillG_scratch (c : Core) (d : GReg) (t : Nat) (v : Dword) (m : Bool) (k : Nat) : (c.fillG d t v m k).scratch = c.scratch := rfl
@[simp] theorem fillG_wstack (c : Core) (d : GReg) (t : Nat) (v : Dword) (m : Bool) (k : Nat) : (c.fillG d t v m k).wstack = c.wstack := rfl
@[simp] theorem fillG_wsrec (c : Core) (d : GReg) (t : Nat) (v : Dword) (m : Bool) (k : Nat) : (c.fillG d t v m k).wsrec = c.wsrec := rfl
@[simp] theorem fillG_chan (c : Core) (d : GReg) (t : Nat) (v : Dword) (m : Bool) (k : Nat) : (c.fillG d t v m k).chan = c.chan := rfl
@[simp] theorem fillG_cpyReads (c : Core) (d : GReg) (t : Nat) (v : Dword) (m : Bool) (k : Nat) : (c.fillG d t v m k).cpyReads = c.cpyReads := rfl
@[simp] theorem fillG_mtx (c : Core) (d : GReg) (t : Nat) (v : Dword) (m : Bool) (k : Nat) : (c.fillG d t v m k).mtx = c.mtx := rfl
@[simp] theorem fillG_vec (c : Core) (d : GReg) (t : Nat) (v : Dword) (m : Bool) (k : Nat) : (c.fillG d t v m k).vec = c.vec := rfl
@[simp] theorem fillG_gtab (c : Core) (d : GReg) (t : Nat) (v : Dword) (m : Bool) (k : Nat) : (c.fillG d t v m k).gtab = c.gtab := rfl
@[simp] theorem fillG_gjob (c : Core) (d : GReg) (t : Nat) (v : Dword) (m : Bool) (k : Nat) : (c.fillG d t v m k).gjob = c.gjob := rfl
@[simp] theorem fillG_gtail (c : Core) (d : GReg) (t : Nat) (v : Dword) (m : Bool) (k : Nat) : (c.fillG d t v m k).gtail = c.gtail := rfl
@[simp] theorem fillG_ids (c : Core) (d : GReg) (t : Nat) (v : Dword) (m : Bool) (k : Nat) : (c.fillG d t v m k).ids = c.ids := rfl
@[simp] theorem fillG_lnk (c : Core) (d : GReg) (t : Nat) (v : Dword) (m : Bool) (k : Nat) : (c.fillG d t v m k).lnk = c.lnk := rfl
@[simp] theorem fillG_colls (c : Core) (d : GReg) (t : Nat) (v : Dword) (m : Bool) (k : Nat) : (c.fillG d t v m k).colls = c.colls := rfl
@[simp] theorem fillG_bar (c : Core) (d : GReg) (t : Nat) (v : Dword) (m : Bool) (k : Nat) : (c.fillG d t v m k).bar = c.bar := rfl
@[simp] theorem fillG_stepRel (c : Core) (d : GReg) (t : Nat) (v : Dword) (m : Bool) (k : Nat) : (c.fillG d t v m k).stepRel = c.stepRel := rfl
@[simp] theorem fillG_late (c : Core) (d : GReg) (t : Nat) (v : Dword) (m : Bool) (k : Nat) : (c.fillG d t v m k).late = c.late := rfl
@[simp] theorem fillG_step (c : Core) (d : GReg) (t : Nat) (v : Dword) (m : Bool) (k : Nat) : (c.fillG d t v m k).step = c.step := rfl
@[simp] theorem fillG_tracing (c : Core) (d : GReg) (t : Nat) (v : Dword) (m : Bool) (k : Nat) : (c.fillG d t v m k).tracing = c.tracing := rfl
@[simp] theorem fillG_trace (c : Core) (d : GReg) (t : Nat) (v : Dword) (m : Bool) (k : Nat) : (c.fillG d t v m k).trace = c.trace := rfl

/-! ### Taking a tag -/

@[simp] theorem nextTag_id (c : Core) : (c.nextTag).id = c.id := rfl
@[simp] theorem nextTag_ctx (c : Core) : (c.nextTag).ctx = c.ctx := rfl
@[simp] theorem nextTag_live (c : Core) : (c.nextTag).live = c.live := rfl
@[simp] theorem nextTag_frozen (c : Core) : (c.nextTag).frozen = c.frozen := rfl
@[simp] theorem nextTag_halted (c : Core) : (c.nextTag).halted = c.halted := rfl
@[simp] theorem nextTag_haltAt (c : Core) : (c.nextTag).haltAt = c.haltAt := rfl
@[simp] theorem nextTag_ready (c : Core) : (c.nextTag).ready = c.ready := rfl
@[simp] theorem nextTag_retired (c : Core) : (c.nextTag).retired = c.retired := rfl
@[simp] theorem nextTag_retiredAt (c : Core) : (c.nextTag).retiredAt = c.retiredAt := rfl
@[simp] theorem nextTag_quit (c : Core) : (c.nextTag).quit = c.quit := rfl
@[simp] theorem nextTag_dying (c : Core) : (c.nextTag).dying = c.dying := rfl
@[simp] theorem nextTag_told (c : Core) : (c.nextTag).told = c.told := rfl
@[simp] theorem nextTag_nested (c : Core) : (c.nextTag).nested = c.nested := rfl
@[simp] theorem nextTag_err (c : Core) : (c.nextTag).err = c.err := rfl
@[simp] theorem nextTag_delay (c : Core) : (c.nextTag).delay = c.delay := rfl
@[simp] theorem nextTag_free (c : Core) : (c.nextTag).free = c.free := rfl
@[simp] theorem nextTag_turn (c : Core) : (c.nextTag).turn = c.turn := rfl
@[simp] theorem nextTag_tail (c : Core) : (c.nextTag).tail = c.tail := rfl
@[simp] theorem nextTag_now (c : Core) : (c.nextTag).now = c.now := rfl
@[simp] theorem nextTag_text (c : Core) : (c.nextTag).text = c.text := rfl
@[simp] theorem nextTag_text0 (c : Core) : (c.nextTag).text0 = c.text0 := rfl
@[simp] theorem nextTag_tt (c : Core) : (c.nextTag).tt = c.tt := rfl
@[simp] theorem nextTag_eng (c : Core) : (c.nextTag).eng = c.eng := rfl
@[simp] theorem nextTag_trap (c : Core) : (c.nextTag).trap = c.trap := rfl
@[simp] theorem nextTag_seen (c : Core) : (c.nextTag).seen = c.seen := rfl
@[simp] theorem nextTag_shown (c : Core) : (c.nextTag).shown = c.shown := rfl
@[simp] theorem nextTag_low (c : Core) : (c.nextTag).low = c.low := rfl
@[simp] theorem nextTag_eoc (c : Core) : (c.nextTag).eoc = c.eoc := rfl
@[simp] theorem nextTag_fly (c : Core) : (c.nextTag).fly = c.fly := rfl
@[simp] theorem nextTag_spr (c : Core) : (c.nextTag).spr = c.spr := rfl
@[simp] theorem nextTag_handles (c : Core) : (c.nextTag).handles = c.handles := rfl
@[simp] theorem nextTag_scratch (c : Core) : (c.nextTag).scratch = c.scratch := rfl
@[simp] theorem nextTag_wstack (c : Core) : (c.nextTag).wstack = c.wstack := rfl
@[simp] theorem nextTag_wsrec (c : Core) : (c.nextTag).wsrec = c.wsrec := rfl
@[simp] theorem nextTag_chan (c : Core) : (c.nextTag).chan = c.chan := rfl
@[simp] theorem nextTag_cpyReads (c : Core) : (c.nextTag).cpyReads = c.cpyReads := rfl
@[simp] theorem nextTag_mtx (c : Core) : (c.nextTag).mtx = c.mtx := rfl
@[simp] theorem nextTag_vec (c : Core) : (c.nextTag).vec = c.vec := rfl
@[simp] theorem nextTag_gtab (c : Core) : (c.nextTag).gtab = c.gtab := rfl
@[simp] theorem nextTag_gjob (c : Core) : (c.nextTag).gjob = c.gjob := rfl
@[simp] theorem nextTag_gtail (c : Core) : (c.nextTag).gtail = c.gtail := rfl
@[simp] theorem nextTag_ids (c : Core) : (c.nextTag).ids = c.ids := rfl
@[simp] theorem nextTag_lnk (c : Core) : (c.nextTag).lnk = c.lnk := rfl
@[simp] theorem nextTag_colls (c : Core) : (c.nextTag).colls = c.colls := rfl
@[simp] theorem nextTag_bar (c : Core) : (c.nextTag).bar = c.bar := rfl
@[simp] theorem nextTag_stepRel (c : Core) : (c.nextTag).stepRel = c.stepRel := rfl
@[simp] theorem nextTag_late (c : Core) : (c.nextTag).late = c.late := rfl
@[simp] theorem nextTag_step (c : Core) : (c.nextTag).step = c.step := rfl
@[simp] theorem nextTag_ckpt (c : Core) : (c.nextTag).ckpt = c.ckpt := rfl
@[simp] theorem nextTag_tracing (c : Core) : (c.nextTag).tracing = c.tracing := rfl
@[simp] theorem nextTag_trace (c : Core) : (c.nextTag).trace = c.trace := rfl

/-! ### Entering the retire queue -/

@[simp] theorem toRetire_id (c : Core) (k : Nat) (t : Option Nat) (o : Option Outc) : (c.toRetire k t o).id = c.id := rfl
@[simp] theorem toRetire_ctx (c : Core) (k : Nat) (t : Option Nat) (o : Option Outc) : (c.toRetire k t o).ctx = c.ctx := rfl
@[simp] theorem toRetire_live (c : Core) (k : Nat) (t : Option Nat) (o : Option Outc) : (c.toRetire k t o).live = c.live := rfl
@[simp] theorem toRetire_frozen (c : Core) (k : Nat) (t : Option Nat) (o : Option Outc) : (c.toRetire k t o).frozen = c.frozen := rfl
@[simp] theorem toRetire_halted (c : Core) (k : Nat) (t : Option Nat) (o : Option Outc) : (c.toRetire k t o).halted = c.halted := rfl
@[simp] theorem toRetire_haltAt (c : Core) (k : Nat) (t : Option Nat) (o : Option Outc) : (c.toRetire k t o).haltAt = c.haltAt := rfl
@[simp] theorem toRetire_ready (c : Core) (k : Nat) (t : Option Nat) (o : Option Outc) : (c.toRetire k t o).ready = c.ready := rfl
@[simp] theorem toRetire_retired (c : Core) (k : Nat) (t : Option Nat) (o : Option Outc) : (c.toRetire k t o).retired = c.retired := rfl
@[simp] theorem toRetire_retiredAt (c : Core) (k : Nat) (t : Option Nat) (o : Option Outc) : (c.toRetire k t o).retiredAt = c.retiredAt := rfl
@[simp] theorem toRetire_quit (c : Core) (k : Nat) (t : Option Nat) (o : Option Outc) : (c.toRetire k t o).quit = c.quit := rfl
@[simp] theorem toRetire_dying (c : Core) (k : Nat) (t : Option Nat) (o : Option Outc) : (c.toRetire k t o).dying = c.dying := rfl
@[simp] theorem toRetire_told (c : Core) (k : Nat) (t : Option Nat) (o : Option Outc) : (c.toRetire k t o).told = c.told := rfl
@[simp] theorem toRetire_nested (c : Core) (k : Nat) (t : Option Nat) (o : Option Outc) : (c.toRetire k t o).nested = c.nested := rfl
@[simp] theorem toRetire_err (c : Core) (k : Nat) (t : Option Nat) (o : Option Outc) : (c.toRetire k t o).err = c.err := rfl
@[simp] theorem toRetire_delay (c : Core) (k : Nat) (t : Option Nat) (o : Option Outc) : (c.toRetire k t o).delay = c.delay := rfl
@[simp] theorem toRetire_free (c : Core) (k : Nat) (t : Option Nat) (o : Option Outc) : (c.toRetire k t o).free = c.free := rfl
@[simp] theorem toRetire_turn (c : Core) (k : Nat) (t : Option Nat) (o : Option Outc) : (c.toRetire k t o).turn = c.turn := rfl
@[simp] theorem toRetire_tail (c : Core) (k : Nat) (t : Option Nat) (o : Option Outc) : (c.toRetire k t o).tail = c.tail := rfl
@[simp] theorem toRetire_now (c : Core) (k : Nat) (t : Option Nat) (o : Option Outc) : (c.toRetire k t o).now = c.now := rfl
@[simp] theorem toRetire_text (c : Core) (k : Nat) (t : Option Nat) (o : Option Outc) : (c.toRetire k t o).text = c.text := rfl
@[simp] theorem toRetire_text0 (c : Core) (k : Nat) (t : Option Nat) (o : Option Outc) : (c.toRetire k t o).text0 = c.text0 := rfl
@[simp] theorem toRetire_tt (c : Core) (k : Nat) (t : Option Nat) (o : Option Outc) : (c.toRetire k t o).tt = c.tt := rfl
@[simp] theorem toRetire_eng (c : Core) (k : Nat) (t : Option Nat) (o : Option Outc) : (c.toRetire k t o).eng = c.eng := rfl
@[simp] theorem toRetire_trap (c : Core) (k : Nat) (t : Option Nat) (o : Option Outc) : (c.toRetire k t o).trap = c.trap := rfl
@[simp] theorem toRetire_seen (c : Core) (k : Nat) (t : Option Nat) (o : Option Outc) : (c.toRetire k t o).seen = c.seen := rfl
@[simp] theorem toRetire_shown (c : Core) (k : Nat) (t : Option Nat) (o : Option Outc) : (c.toRetire k t o).shown = c.shown := rfl
@[simp] theorem toRetire_low (c : Core) (k : Nat) (t : Option Nat) (o : Option Outc) : (c.toRetire k t o).low = c.low := rfl
@[simp] theorem toRetire_eoc (c : Core) (k : Nat) (t : Option Nat) (o : Option Outc) : (c.toRetire k t o).eoc = c.eoc := rfl
@[simp] theorem toRetire_fly (c : Core) (k : Nat) (t : Option Nat) (o : Option Outc) : (c.toRetire k t o).fly = c.fly := rfl
@[simp] theorem toRetire_spr (c : Core) (k : Nat) (t : Option Nat) (o : Option Outc) : (c.toRetire k t o).spr = c.spr := rfl
@[simp] theorem toRetire_handles (c : Core) (k : Nat) (t : Option Nat) (o : Option Outc) : (c.toRetire k t o).handles = c.handles := rfl
@[simp] theorem toRetire_scratch (c : Core) (k : Nat) (t : Option Nat) (o : Option Outc) : (c.toRetire k t o).scratch = c.scratch := rfl
@[simp] theorem toRetire_wstack (c : Core) (k : Nat) (t : Option Nat) (o : Option Outc) : (c.toRetire k t o).wstack = c.wstack := rfl
@[simp] theorem toRetire_wsrec (c : Core) (k : Nat) (t : Option Nat) (o : Option Outc) : (c.toRetire k t o).wsrec = c.wsrec := rfl
@[simp] theorem toRetire_chan (c : Core) (k : Nat) (t : Option Nat) (o : Option Outc) : (c.toRetire k t o).chan = c.chan := rfl
@[simp] theorem toRetire_cpyReads (c : Core) (k : Nat) (t : Option Nat) (o : Option Outc) : (c.toRetire k t o).cpyReads = c.cpyReads := rfl
@[simp] theorem toRetire_mtx (c : Core) (k : Nat) (t : Option Nat) (o : Option Outc) : (c.toRetire k t o).mtx = c.mtx := rfl
@[simp] theorem toRetire_vec (c : Core) (k : Nat) (t : Option Nat) (o : Option Outc) : (c.toRetire k t o).vec = c.vec := rfl
@[simp] theorem toRetire_gtab (c : Core) (k : Nat) (t : Option Nat) (o : Option Outc) : (c.toRetire k t o).gtab = c.gtab := rfl
@[simp] theorem toRetire_gjob (c : Core) (k : Nat) (t : Option Nat) (o : Option Outc) : (c.toRetire k t o).gjob = c.gjob := rfl
@[simp] theorem toRetire_gtail (c : Core) (k : Nat) (t : Option Nat) (o : Option Outc) : (c.toRetire k t o).gtail = c.gtail := rfl
@[simp] theorem toRetire_ids (c : Core) (k : Nat) (t : Option Nat) (o : Option Outc) : (c.toRetire k t o).ids = c.ids := rfl
@[simp] theorem toRetire_lnk (c : Core) (k : Nat) (t : Option Nat) (o : Option Outc) : (c.toRetire k t o).lnk = c.lnk := rfl
@[simp] theorem toRetire_colls (c : Core) (k : Nat) (t : Option Nat) (o : Option Outc) : (c.toRetire k t o).colls = c.colls := rfl
@[simp] theorem toRetire_bar (c : Core) (k : Nat) (t : Option Nat) (o : Option Outc) : (c.toRetire k t o).bar = c.bar := rfl
@[simp] theorem toRetire_stepRel (c : Core) (k : Nat) (t : Option Nat) (o : Option Outc) : (c.toRetire k t o).stepRel = c.stepRel := rfl
@[simp] theorem toRetire_late (c : Core) (k : Nat) (t : Option Nat) (o : Option Outc) : (c.toRetire k t o).late = c.late := rfl
@[simp] theorem toRetire_step (c : Core) (k : Nat) (t : Option Nat) (o : Option Outc) : (c.toRetire k t o).step = c.step := rfl
@[simp] theorem toRetire_ckpt (c : Core) (k : Nat) (t : Option Nat) (o : Option Outc) : (c.toRetire k t o).ckpt = c.ckpt := rfl
@[simp] theorem toRetire_tracing (c : Core) (k : Nat) (t : Option Nat) (o : Option Outc) : (c.toRetire k t o).tracing = c.tracing := rfl
@[simp] theorem toRetire_trace (c : Core) (k : Nat) (t : Option Nat) (o : Option Outc) : (c.toRetire k t o).trace = c.trace := rfl

/-! ### Adding an effect that is due -/

@[simp] theorem later_id (c : Core) (e n : Nat) (x : LocalEff) : (c.later e n x).id = c.id := rfl
@[simp] theorem later_ctx (c : Core) (e n : Nat) (x : LocalEff) : (c.later e n x).ctx = c.ctx := rfl
@[simp] theorem later_live (c : Core) (e n : Nat) (x : LocalEff) : (c.later e n x).live = c.live := rfl
@[simp] theorem later_frozen (c : Core) (e n : Nat) (x : LocalEff) : (c.later e n x).frozen = c.frozen := rfl
@[simp] theorem later_halted (c : Core) (e n : Nat) (x : LocalEff) : (c.later e n x).halted = c.halted := rfl
@[simp] theorem later_haltAt (c : Core) (e n : Nat) (x : LocalEff) : (c.later e n x).haltAt = c.haltAt := rfl
@[simp] theorem later_ready (c : Core) (e n : Nat) (x : LocalEff) : (c.later e n x).ready = c.ready := rfl
@[simp] theorem later_retired (c : Core) (e n : Nat) (x : LocalEff) : (c.later e n x).retired = c.retired := rfl
@[simp] theorem later_retiredAt (c : Core) (e n : Nat) (x : LocalEff) : (c.later e n x).retiredAt = c.retiredAt := rfl
@[simp] theorem later_quit (c : Core) (e n : Nat) (x : LocalEff) : (c.later e n x).quit = c.quit := rfl
@[simp] theorem later_dying (c : Core) (e n : Nat) (x : LocalEff) : (c.later e n x).dying = c.dying := rfl
@[simp] theorem later_told (c : Core) (e n : Nat) (x : LocalEff) : (c.later e n x).told = c.told := rfl
@[simp] theorem later_nested (c : Core) (e n : Nat) (x : LocalEff) : (c.later e n x).nested = c.nested := rfl
@[simp] theorem later_err (c : Core) (e n : Nat) (x : LocalEff) : (c.later e n x).err = c.err := rfl
@[simp] theorem later_delay (c : Core) (e n : Nat) (x : LocalEff) : (c.later e n x).delay = c.delay := rfl
@[simp] theorem later_free (c : Core) (e n : Nat) (x : LocalEff) : (c.later e n x).free = c.free := rfl
@[simp] theorem later_turn (c : Core) (e n : Nat) (x : LocalEff) : (c.later e n x).turn = c.turn := rfl
@[simp] theorem later_tail (c : Core) (e n : Nat) (x : LocalEff) : (c.later e n x).tail = c.tail := rfl
@[simp] theorem later_now (c : Core) (e n : Nat) (x : LocalEff) : (c.later e n x).now = c.now := rfl
@[simp] theorem later_text (c : Core) (e n : Nat) (x : LocalEff) : (c.later e n x).text = c.text := rfl
@[simp] theorem later_text0 (c : Core) (e n : Nat) (x : LocalEff) : (c.later e n x).text0 = c.text0 := rfl
@[simp] theorem later_tt (c : Core) (e n : Nat) (x : LocalEff) : (c.later e n x).tt = c.tt := rfl
@[simp] theorem later_eng (c : Core) (e n : Nat) (x : LocalEff) : (c.later e n x).eng = c.eng := rfl
@[simp] theorem later_ctl (c : Core) (e n : Nat) (x : LocalEff) : (c.later e n x).ctl = c.ctl := rfl
@[simp] theorem later_trap (c : Core) (e n : Nat) (x : LocalEff) : (c.later e n x).trap = c.trap := rfl
@[simp] theorem later_seen (c : Core) (e n : Nat) (x : LocalEff) : (c.later e n x).seen = c.seen := rfl
@[simp] theorem later_shown (c : Core) (e n : Nat) (x : LocalEff) : (c.later e n x).shown = c.shown := rfl
@[simp] theorem later_low (c : Core) (e n : Nat) (x : LocalEff) : (c.later e n x).low = c.low := rfl
@[simp] theorem later_eoc (c : Core) (e n : Nat) (x : LocalEff) : (c.later e n x).eoc = c.eoc := rfl
@[simp] theorem later_spr (c : Core) (e n : Nat) (x : LocalEff) : (c.later e n x).spr = c.spr := rfl
@[simp] theorem later_handles (c : Core) (e n : Nat) (x : LocalEff) : (c.later e n x).handles = c.handles := rfl
@[simp] theorem later_scratch (c : Core) (e n : Nat) (x : LocalEff) : (c.later e n x).scratch = c.scratch := rfl
@[simp] theorem later_wstack (c : Core) (e n : Nat) (x : LocalEff) : (c.later e n x).wstack = c.wstack := rfl
@[simp] theorem later_wsrec (c : Core) (e n : Nat) (x : LocalEff) : (c.later e n x).wsrec = c.wsrec := rfl
@[simp] theorem later_chan (c : Core) (e n : Nat) (x : LocalEff) : (c.later e n x).chan = c.chan := rfl
@[simp] theorem later_cpyReads (c : Core) (e n : Nat) (x : LocalEff) : (c.later e n x).cpyReads = c.cpyReads := rfl
@[simp] theorem later_mtx (c : Core) (e n : Nat) (x : LocalEff) : (c.later e n x).mtx = c.mtx := rfl
@[simp] theorem later_vec (c : Core) (e n : Nat) (x : LocalEff) : (c.later e n x).vec = c.vec := rfl
@[simp] theorem later_gtab (c : Core) (e n : Nat) (x : LocalEff) : (c.later e n x).gtab = c.gtab := rfl
@[simp] theorem later_gjob (c : Core) (e n : Nat) (x : LocalEff) : (c.later e n x).gjob = c.gjob := rfl
@[simp] theorem later_gtail (c : Core) (e n : Nat) (x : LocalEff) : (c.later e n x).gtail = c.gtail := rfl
@[simp] theorem later_ids (c : Core) (e n : Nat) (x : LocalEff) : (c.later e n x).ids = c.ids := rfl
@[simp] theorem later_lnk (c : Core) (e n : Nat) (x : LocalEff) : (c.later e n x).lnk = c.lnk := rfl
@[simp] theorem later_colls (c : Core) (e n : Nat) (x : LocalEff) : (c.later e n x).colls = c.colls := rfl
@[simp] theorem later_bar (c : Core) (e n : Nat) (x : LocalEff) : (c.later e n x).bar = c.bar := rfl
@[simp] theorem later_stepRel (c : Core) (e n : Nat) (x : LocalEff) : (c.later e n x).stepRel = c.stepRel := rfl
@[simp] theorem later_late (c : Core) (e n : Nat) (x : LocalEff) : (c.later e n x).late = c.late := rfl
@[simp] theorem later_step (c : Core) (e n : Nat) (x : LocalEff) : (c.later e n x).step = c.step := rfl
@[simp] theorem later_ckpt (c : Core) (e n : Nat) (x : LocalEff) : (c.later e n x).ckpt = c.ckpt := rfl
@[simp] theorem later_tracing (c : Core) (e n : Nat) (x : LocalEff) : (c.later e n x).tracing = c.tracing := rfl
@[simp] theorem later_trace (c : Core) (e n : Nat) (x : LocalEff) : (c.later e n x).trace = c.trace := rfl

/-! ### Adding an effect of a word -/

@[simp] theorem laterAt_id (c : Core) (e p n : Nat) (x : LocalEff) : (c.laterAt e p n x).id = c.id := rfl
@[simp] theorem laterAt_ctx (c : Core) (e p n : Nat) (x : LocalEff) : (c.laterAt e p n x).ctx = c.ctx := rfl
@[simp] theorem laterAt_live (c : Core) (e p n : Nat) (x : LocalEff) : (c.laterAt e p n x).live = c.live := rfl
@[simp] theorem laterAt_frozen (c : Core) (e p n : Nat) (x : LocalEff) : (c.laterAt e p n x).frozen = c.frozen := rfl
@[simp] theorem laterAt_halted (c : Core) (e p n : Nat) (x : LocalEff) : (c.laterAt e p n x).halted = c.halted := rfl
@[simp] theorem laterAt_haltAt (c : Core) (e p n : Nat) (x : LocalEff) : (c.laterAt e p n x).haltAt = c.haltAt := rfl
@[simp] theorem laterAt_ready (c : Core) (e p n : Nat) (x : LocalEff) : (c.laterAt e p n x).ready = c.ready := rfl
@[simp] theorem laterAt_retired (c : Core) (e p n : Nat) (x : LocalEff) : (c.laterAt e p n x).retired = c.retired := rfl
@[simp] theorem laterAt_retiredAt (c : Core) (e p n : Nat) (x : LocalEff) : (c.laterAt e p n x).retiredAt = c.retiredAt := rfl
@[simp] theorem laterAt_quit (c : Core) (e p n : Nat) (x : LocalEff) : (c.laterAt e p n x).quit = c.quit := rfl
@[simp] theorem laterAt_dying (c : Core) (e p n : Nat) (x : LocalEff) : (c.laterAt e p n x).dying = c.dying := rfl
@[simp] theorem laterAt_told (c : Core) (e p n : Nat) (x : LocalEff) : (c.laterAt e p n x).told = c.told := rfl
@[simp] theorem laterAt_nested (c : Core) (e p n : Nat) (x : LocalEff) : (c.laterAt e p n x).nested = c.nested := rfl
@[simp] theorem laterAt_err (c : Core) (e p n : Nat) (x : LocalEff) : (c.laterAt e p n x).err = c.err := rfl
@[simp] theorem laterAt_delay (c : Core) (e p n : Nat) (x : LocalEff) : (c.laterAt e p n x).delay = c.delay := rfl
@[simp] theorem laterAt_free (c : Core) (e p n : Nat) (x : LocalEff) : (c.laterAt e p n x).free = c.free := rfl
@[simp] theorem laterAt_turn (c : Core) (e p n : Nat) (x : LocalEff) : (c.laterAt e p n x).turn = c.turn := rfl
@[simp] theorem laterAt_tail (c : Core) (e p n : Nat) (x : LocalEff) : (c.laterAt e p n x).tail = c.tail := rfl
@[simp] theorem laterAt_now (c : Core) (e p n : Nat) (x : LocalEff) : (c.laterAt e p n x).now = c.now := rfl
@[simp] theorem laterAt_text (c : Core) (e p n : Nat) (x : LocalEff) : (c.laterAt e p n x).text = c.text := rfl
@[simp] theorem laterAt_text0 (c : Core) (e p n : Nat) (x : LocalEff) : (c.laterAt e p n x).text0 = c.text0 := rfl
@[simp] theorem laterAt_tt (c : Core) (e p n : Nat) (x : LocalEff) : (c.laterAt e p n x).tt = c.tt := rfl
@[simp] theorem laterAt_eng (c : Core) (e p n : Nat) (x : LocalEff) : (c.laterAt e p n x).eng = c.eng := rfl
@[simp] theorem laterAt_ctl (c : Core) (e p n : Nat) (x : LocalEff) : (c.laterAt e p n x).ctl = c.ctl := rfl
@[simp] theorem laterAt_trap (c : Core) (e p n : Nat) (x : LocalEff) : (c.laterAt e p n x).trap = c.trap := rfl
@[simp] theorem laterAt_seen (c : Core) (e p n : Nat) (x : LocalEff) : (c.laterAt e p n x).seen = c.seen := rfl
@[simp] theorem laterAt_shown (c : Core) (e p n : Nat) (x : LocalEff) : (c.laterAt e p n x).shown = c.shown := rfl
@[simp] theorem laterAt_low (c : Core) (e p n : Nat) (x : LocalEff) : (c.laterAt e p n x).low = c.low := rfl
@[simp] theorem laterAt_eoc (c : Core) (e p n : Nat) (x : LocalEff) : (c.laterAt e p n x).eoc = c.eoc := rfl
@[simp] theorem laterAt_spr (c : Core) (e p n : Nat) (x : LocalEff) : (c.laterAt e p n x).spr = c.spr := rfl
@[simp] theorem laterAt_handles (c : Core) (e p n : Nat) (x : LocalEff) : (c.laterAt e p n x).handles = c.handles := rfl
@[simp] theorem laterAt_scratch (c : Core) (e p n : Nat) (x : LocalEff) : (c.laterAt e p n x).scratch = c.scratch := rfl
@[simp] theorem laterAt_wstack (c : Core) (e p n : Nat) (x : LocalEff) : (c.laterAt e p n x).wstack = c.wstack := rfl
@[simp] theorem laterAt_wsrec (c : Core) (e p n : Nat) (x : LocalEff) : (c.laterAt e p n x).wsrec = c.wsrec := rfl
@[simp] theorem laterAt_chan (c : Core) (e p n : Nat) (x : LocalEff) : (c.laterAt e p n x).chan = c.chan := rfl
@[simp] theorem laterAt_cpyReads (c : Core) (e p n : Nat) (x : LocalEff) : (c.laterAt e p n x).cpyReads = c.cpyReads := rfl
@[simp] theorem laterAt_mtx (c : Core) (e p n : Nat) (x : LocalEff) : (c.laterAt e p n x).mtx = c.mtx := rfl
@[simp] theorem laterAt_vec (c : Core) (e p n : Nat) (x : LocalEff) : (c.laterAt e p n x).vec = c.vec := rfl
@[simp] theorem laterAt_gtab (c : Core) (e p n : Nat) (x : LocalEff) : (c.laterAt e p n x).gtab = c.gtab := rfl
@[simp] theorem laterAt_gjob (c : Core) (e p n : Nat) (x : LocalEff) : (c.laterAt e p n x).gjob = c.gjob := rfl
@[simp] theorem laterAt_gtail (c : Core) (e p n : Nat) (x : LocalEff) : (c.laterAt e p n x).gtail = c.gtail := rfl
@[simp] theorem laterAt_ids (c : Core) (e p n : Nat) (x : LocalEff) : (c.laterAt e p n x).ids = c.ids := rfl
@[simp] theorem laterAt_lnk (c : Core) (e p n : Nat) (x : LocalEff) : (c.laterAt e p n x).lnk = c.lnk := rfl
@[simp] theorem laterAt_colls (c : Core) (e p n : Nat) (x : LocalEff) : (c.laterAt e p n x).colls = c.colls := rfl
@[simp] theorem laterAt_bar (c : Core) (e p n : Nat) (x : LocalEff) : (c.laterAt e p n x).bar = c.bar := rfl
@[simp] theorem laterAt_stepRel (c : Core) (e p n : Nat) (x : LocalEff) : (c.laterAt e p n x).stepRel = c.stepRel := rfl
@[simp] theorem laterAt_late (c : Core) (e p n : Nat) (x : LocalEff) : (c.laterAt e p n x).late = c.late := rfl
@[simp] theorem laterAt_step (c : Core) (e p n : Nat) (x : LocalEff) : (c.laterAt e p n x).step = c.step := rfl
@[simp] theorem laterAt_ckpt (c : Core) (e p n : Nat) (x : LocalEff) : (c.laterAt e p n x).ckpt = c.ckpt := rfl
@[simp] theorem laterAt_tracing (c : Core) (e p n : Nat) (x : LocalEff) : (c.laterAt e p n x).tracing = c.tracing := rfl
@[simp] theorem laterAt_trace (c : Core) (e p n : Nat) (x : LocalEff) : (c.laterAt e p n x).trace = c.trace := rfl

/-! ### Adding an effect at the end of the cycle -/

@[simp] theorem atEnd_id (c : Core) (x : Eoc) : (c.atEnd x).id = c.id := rfl
@[simp] theorem atEnd_ctx (c : Core) (x : Eoc) : (c.atEnd x).ctx = c.ctx := rfl
@[simp] theorem atEnd_live (c : Core) (x : Eoc) : (c.atEnd x).live = c.live := rfl
@[simp] theorem atEnd_frozen (c : Core) (x : Eoc) : (c.atEnd x).frozen = c.frozen := rfl
@[simp] theorem atEnd_halted (c : Core) (x : Eoc) : (c.atEnd x).halted = c.halted := rfl
@[simp] theorem atEnd_haltAt (c : Core) (x : Eoc) : (c.atEnd x).haltAt = c.haltAt := rfl
@[simp] theorem atEnd_ready (c : Core) (x : Eoc) : (c.atEnd x).ready = c.ready := rfl
@[simp] theorem atEnd_retired (c : Core) (x : Eoc) : (c.atEnd x).retired = c.retired := rfl
@[simp] theorem atEnd_retiredAt (c : Core) (x : Eoc) : (c.atEnd x).retiredAt = c.retiredAt := rfl
@[simp] theorem atEnd_quit (c : Core) (x : Eoc) : (c.atEnd x).quit = c.quit := rfl
@[simp] theorem atEnd_dying (c : Core) (x : Eoc) : (c.atEnd x).dying = c.dying := rfl
@[simp] theorem atEnd_told (c : Core) (x : Eoc) : (c.atEnd x).told = c.told := rfl
@[simp] theorem atEnd_nested (c : Core) (x : Eoc) : (c.atEnd x).nested = c.nested := rfl
@[simp] theorem atEnd_err (c : Core) (x : Eoc) : (c.atEnd x).err = c.err := rfl
@[simp] theorem atEnd_delay (c : Core) (x : Eoc) : (c.atEnd x).delay = c.delay := rfl
@[simp] theorem atEnd_free (c : Core) (x : Eoc) : (c.atEnd x).free = c.free := rfl
@[simp] theorem atEnd_turn (c : Core) (x : Eoc) : (c.atEnd x).turn = c.turn := rfl
@[simp] theorem atEnd_tail (c : Core) (x : Eoc) : (c.atEnd x).tail = c.tail := rfl
@[simp] theorem atEnd_now (c : Core) (x : Eoc) : (c.atEnd x).now = c.now := rfl
@[simp] theorem atEnd_text (c : Core) (x : Eoc) : (c.atEnd x).text = c.text := rfl
@[simp] theorem atEnd_text0 (c : Core) (x : Eoc) : (c.atEnd x).text0 = c.text0 := rfl
@[simp] theorem atEnd_tt (c : Core) (x : Eoc) : (c.atEnd x).tt = c.tt := rfl
@[simp] theorem atEnd_eng (c : Core) (x : Eoc) : (c.atEnd x).eng = c.eng := rfl
@[simp] theorem atEnd_ctl (c : Core) (x : Eoc) : (c.atEnd x).ctl = c.ctl := rfl
@[simp] theorem atEnd_trap (c : Core) (x : Eoc) : (c.atEnd x).trap = c.trap := rfl
@[simp] theorem atEnd_seen (c : Core) (x : Eoc) : (c.atEnd x).seen = c.seen := rfl
@[simp] theorem atEnd_shown (c : Core) (x : Eoc) : (c.atEnd x).shown = c.shown := rfl
@[simp] theorem atEnd_low (c : Core) (x : Eoc) : (c.atEnd x).low = c.low := rfl
@[simp] theorem atEnd_fly (c : Core) (x : Eoc) : (c.atEnd x).fly = c.fly := rfl
@[simp] theorem atEnd_spr (c : Core) (x : Eoc) : (c.atEnd x).spr = c.spr := rfl
@[simp] theorem atEnd_handles (c : Core) (x : Eoc) : (c.atEnd x).handles = c.handles := rfl
@[simp] theorem atEnd_scratch (c : Core) (x : Eoc) : (c.atEnd x).scratch = c.scratch := rfl
@[simp] theorem atEnd_wstack (c : Core) (x : Eoc) : (c.atEnd x).wstack = c.wstack := rfl
@[simp] theorem atEnd_wsrec (c : Core) (x : Eoc) : (c.atEnd x).wsrec = c.wsrec := rfl
@[simp] theorem atEnd_chan (c : Core) (x : Eoc) : (c.atEnd x).chan = c.chan := rfl
@[simp] theorem atEnd_cpyReads (c : Core) (x : Eoc) : (c.atEnd x).cpyReads = c.cpyReads := rfl
@[simp] theorem atEnd_mtx (c : Core) (x : Eoc) : (c.atEnd x).mtx = c.mtx := rfl
@[simp] theorem atEnd_vec (c : Core) (x : Eoc) : (c.atEnd x).vec = c.vec := rfl
@[simp] theorem atEnd_gtab (c : Core) (x : Eoc) : (c.atEnd x).gtab = c.gtab := rfl
@[simp] theorem atEnd_gjob (c : Core) (x : Eoc) : (c.atEnd x).gjob = c.gjob := rfl
@[simp] theorem atEnd_gtail (c : Core) (x : Eoc) : (c.atEnd x).gtail = c.gtail := rfl
@[simp] theorem atEnd_ids (c : Core) (x : Eoc) : (c.atEnd x).ids = c.ids := rfl
@[simp] theorem atEnd_lnk (c : Core) (x : Eoc) : (c.atEnd x).lnk = c.lnk := rfl
@[simp] theorem atEnd_colls (c : Core) (x : Eoc) : (c.atEnd x).colls = c.colls := rfl
@[simp] theorem atEnd_bar (c : Core) (x : Eoc) : (c.atEnd x).bar = c.bar := rfl
@[simp] theorem atEnd_stepRel (c : Core) (x : Eoc) : (c.atEnd x).stepRel = c.stepRel := rfl
@[simp] theorem atEnd_late (c : Core) (x : Eoc) : (c.atEnd x).late = c.late := rfl
@[simp] theorem atEnd_step (c : Core) (x : Eoc) : (c.atEnd x).step = c.step := rfl
@[simp] theorem atEnd_ckpt (c : Core) (x : Eoc) : (c.atEnd x).ckpt = c.ckpt := rfl
@[simp] theorem atEnd_tracing (c : Core) (x : Eoc) : (c.atEnd x).tracing = c.tracing := rfl
@[simp] theorem atEnd_trace (c : Core) (x : Eoc) : (c.atEnd x).trace = c.trace := rfl

/-! ### Replacing a handle -/

@[simp] theorem setHnd_id (c : Core) (h : HReg) (x : Handle) : (c.setHnd h x).id = c.id := rfl
@[simp] theorem setHnd_ctx (c : Core) (h : HReg) (x : Handle) : (c.setHnd h x).ctx = c.ctx := rfl
@[simp] theorem setHnd_live (c : Core) (h : HReg) (x : Handle) : (c.setHnd h x).live = c.live := rfl
@[simp] theorem setHnd_frozen (c : Core) (h : HReg) (x : Handle) : (c.setHnd h x).frozen = c.frozen := rfl
@[simp] theorem setHnd_halted (c : Core) (h : HReg) (x : Handle) : (c.setHnd h x).halted = c.halted := rfl
@[simp] theorem setHnd_haltAt (c : Core) (h : HReg) (x : Handle) : (c.setHnd h x).haltAt = c.haltAt := rfl
@[simp] theorem setHnd_ready (c : Core) (h : HReg) (x : Handle) : (c.setHnd h x).ready = c.ready := rfl
@[simp] theorem setHnd_retired (c : Core) (h : HReg) (x : Handle) : (c.setHnd h x).retired = c.retired := rfl
@[simp] theorem setHnd_retiredAt (c : Core) (h : HReg) (x : Handle) : (c.setHnd h x).retiredAt = c.retiredAt := rfl
@[simp] theorem setHnd_quit (c : Core) (h : HReg) (x : Handle) : (c.setHnd h x).quit = c.quit := rfl
@[simp] theorem setHnd_dying (c : Core) (h : HReg) (x : Handle) : (c.setHnd h x).dying = c.dying := rfl
@[simp] theorem setHnd_told (c : Core) (h : HReg) (x : Handle) : (c.setHnd h x).told = c.told := rfl
@[simp] theorem setHnd_nested (c : Core) (h : HReg) (x : Handle) : (c.setHnd h x).nested = c.nested := rfl
@[simp] theorem setHnd_err (c : Core) (h : HReg) (x : Handle) : (c.setHnd h x).err = c.err := rfl
@[simp] theorem setHnd_delay (c : Core) (h : HReg) (x : Handle) : (c.setHnd h x).delay = c.delay := rfl
@[simp] theorem setHnd_free (c : Core) (h : HReg) (x : Handle) : (c.setHnd h x).free = c.free := rfl
@[simp] theorem setHnd_turn (c : Core) (h : HReg) (x : Handle) : (c.setHnd h x).turn = c.turn := rfl
@[simp] theorem setHnd_tail (c : Core) (h : HReg) (x : Handle) : (c.setHnd h x).tail = c.tail := rfl
@[simp] theorem setHnd_now (c : Core) (h : HReg) (x : Handle) : (c.setHnd h x).now = c.now := rfl
@[simp] theorem setHnd_text (c : Core) (h : HReg) (x : Handle) : (c.setHnd h x).text = c.text := rfl
@[simp] theorem setHnd_text0 (c : Core) (h : HReg) (x : Handle) : (c.setHnd h x).text0 = c.text0 := rfl
@[simp] theorem setHnd_tt (c : Core) (h : HReg) (x : Handle) : (c.setHnd h x).tt = c.tt := rfl
@[simp] theorem setHnd_eng (c : Core) (h : HReg) (x : Handle) : (c.setHnd h x).eng = c.eng := rfl
@[simp] theorem setHnd_ctl (c : Core) (h : HReg) (x : Handle) : (c.setHnd h x).ctl = c.ctl := rfl
@[simp] theorem setHnd_trap (c : Core) (h : HReg) (x : Handle) : (c.setHnd h x).trap = c.trap := rfl
@[simp] theorem setHnd_seen (c : Core) (h : HReg) (x : Handle) : (c.setHnd h x).seen = c.seen := rfl
@[simp] theorem setHnd_shown (c : Core) (h : HReg) (x : Handle) : (c.setHnd h x).shown = c.shown := rfl
@[simp] theorem setHnd_low (c : Core) (h : HReg) (x : Handle) : (c.setHnd h x).low = c.low := rfl
@[simp] theorem setHnd_eoc (c : Core) (h : HReg) (x : Handle) : (c.setHnd h x).eoc = c.eoc := rfl
@[simp] theorem setHnd_fly (c : Core) (h : HReg) (x : Handle) : (c.setHnd h x).fly = c.fly := rfl
@[simp] theorem setHnd_spr (c : Core) (h : HReg) (x : Handle) : (c.setHnd h x).spr = c.spr := rfl
@[simp] theorem setHnd_scratch (c : Core) (h : HReg) (x : Handle) : (c.setHnd h x).scratch = c.scratch := rfl
@[simp] theorem setHnd_wstack (c : Core) (h : HReg) (x : Handle) : (c.setHnd h x).wstack = c.wstack := rfl
@[simp] theorem setHnd_wsrec (c : Core) (h : HReg) (x : Handle) : (c.setHnd h x).wsrec = c.wsrec := rfl
@[simp] theorem setHnd_chan (c : Core) (h : HReg) (x : Handle) : (c.setHnd h x).chan = c.chan := rfl
@[simp] theorem setHnd_cpyReads (c : Core) (h : HReg) (x : Handle) : (c.setHnd h x).cpyReads = c.cpyReads := rfl
@[simp] theorem setHnd_mtx (c : Core) (h : HReg) (x : Handle) : (c.setHnd h x).mtx = c.mtx := rfl
@[simp] theorem setHnd_vec (c : Core) (h : HReg) (x : Handle) : (c.setHnd h x).vec = c.vec := rfl
@[simp] theorem setHnd_gtab (c : Core) (h : HReg) (x : Handle) : (c.setHnd h x).gtab = c.gtab := rfl
@[simp] theorem setHnd_gjob (c : Core) (h : HReg) (x : Handle) : (c.setHnd h x).gjob = c.gjob := rfl
@[simp] theorem setHnd_gtail (c : Core) (h : HReg) (x : Handle) : (c.setHnd h x).gtail = c.gtail := rfl
@[simp] theorem setHnd_ids (c : Core) (h : HReg) (x : Handle) : (c.setHnd h x).ids = c.ids := rfl
@[simp] theorem setHnd_lnk (c : Core) (h : HReg) (x : Handle) : (c.setHnd h x).lnk = c.lnk := rfl
@[simp] theorem setHnd_colls (c : Core) (h : HReg) (x : Handle) : (c.setHnd h x).colls = c.colls := rfl
@[simp] theorem setHnd_bar (c : Core) (h : HReg) (x : Handle) : (c.setHnd h x).bar = c.bar := rfl
@[simp] theorem setHnd_stepRel (c : Core) (h : HReg) (x : Handle) : (c.setHnd h x).stepRel = c.stepRel := rfl
@[simp] theorem setHnd_late (c : Core) (h : HReg) (x : Handle) : (c.setHnd h x).late = c.late := rfl
@[simp] theorem setHnd_step (c : Core) (h : HReg) (x : Handle) : (c.setHnd h x).step = c.step := rfl
@[simp] theorem setHnd_ckpt (c : Core) (h : HReg) (x : Handle) : (c.setHnd h x).ckpt = c.ckpt := rfl
@[simp] theorem setHnd_tracing (c : Core) (h : HReg) (x : Handle) : (c.setHnd h x).tracing = c.tracing := rfl
@[simp] theorem setHnd_trace (c : Core) (h : HReg) (x : Handle) : (c.setHnd h x).trace = c.trace := rfl

/-! ### Swapping g31 and TSCR -/

@[simp] theorem swapScr_id (c : Core) : (c.swapScr).id = c.id := by
  simp [Core.swapScr]
@[simp] theorem swapScr_ctx (c : Core) : (c.swapScr).ctx = c.ctx := by
  simp [Core.swapScr]
@[simp] theorem swapScr_live (c : Core) : (c.swapScr).live = c.live := by
  simp [Core.swapScr]
@[simp] theorem swapScr_frozen (c : Core) : (c.swapScr).frozen = c.frozen := by
  simp [Core.swapScr]
@[simp] theorem swapScr_halted (c : Core) : (c.swapScr).halted = c.halted := by
  simp [Core.swapScr]
@[simp] theorem swapScr_haltAt (c : Core) : (c.swapScr).haltAt = c.haltAt := by
  simp [Core.swapScr]
@[simp] theorem swapScr_ready (c : Core) : (c.swapScr).ready = c.ready := by
  simp [Core.swapScr]
@[simp] theorem swapScr_retired (c : Core) : (c.swapScr).retired = c.retired := by
  simp [Core.swapScr]
@[simp] theorem swapScr_retiredAt (c : Core) : (c.swapScr).retiredAt = c.retiredAt := by
  simp [Core.swapScr]
@[simp] theorem swapScr_quit (c : Core) : (c.swapScr).quit = c.quit := by
  simp [Core.swapScr]
@[simp] theorem swapScr_dying (c : Core) : (c.swapScr).dying = c.dying := by
  simp [Core.swapScr]
@[simp] theorem swapScr_told (c : Core) : (c.swapScr).told = c.told := by
  simp [Core.swapScr]
@[simp] theorem swapScr_nested (c : Core) : (c.swapScr).nested = c.nested := by
  simp [Core.swapScr]
@[simp] theorem swapScr_err (c : Core) : (c.swapScr).err = c.err := by
  simp [Core.swapScr]
@[simp] theorem swapScr_delay (c : Core) : (c.swapScr).delay = c.delay := by
  simp [Core.swapScr]
@[simp] theorem swapScr_free (c : Core) : (c.swapScr).free = c.free := by
  simp [Core.swapScr]
@[simp] theorem swapScr_turn (c : Core) : (c.swapScr).turn = c.turn := by
  simp [Core.swapScr]
@[simp] theorem swapScr_tail (c : Core) : (c.swapScr).tail = c.tail := by
  simp [Core.swapScr]
@[simp] theorem swapScr_now (c : Core) : (c.swapScr).now = c.now := by
  simp [Core.swapScr]
@[simp] theorem swapScr_text (c : Core) : (c.swapScr).text = c.text := by
  simp [Core.swapScr]
@[simp] theorem swapScr_text0 (c : Core) : (c.swapScr).text0 = c.text0 := by
  simp [Core.swapScr]
@[simp] theorem swapScr_tt (c : Core) : (c.swapScr).tt = c.tt := by
  simp [Core.swapScr]
@[simp] theorem swapScr_eng (c : Core) : (c.swapScr).eng = c.eng := by
  simp [Core.swapScr]
@[simp] theorem swapScr_seen (c : Core) : (c.swapScr).seen = c.seen := by
  simp [Core.swapScr]
@[simp] theorem swapScr_shown (c : Core) : (c.swapScr).shown = c.shown := by
  simp [Core.swapScr]
@[simp] theorem swapScr_low (c : Core) : (c.swapScr).low = c.low := by
  simp [Core.swapScr]
@[simp] theorem swapScr_eoc (c : Core) : (c.swapScr).eoc = c.eoc := by
  simp [Core.swapScr]
@[simp] theorem swapScr_fly (c : Core) : (c.swapScr).fly = c.fly := by
  simp [Core.swapScr]
@[simp] theorem swapScr_spr (c : Core) : (c.swapScr).spr = c.spr := by
  simp [Core.swapScr]
@[simp] theorem swapScr_handles (c : Core) : (c.swapScr).handles = c.handles := by
  simp [Core.swapScr]
@[simp] theorem swapScr_scratch (c : Core) : (c.swapScr).scratch = c.scratch := by
  simp [Core.swapScr]
@[simp] theorem swapScr_wstack (c : Core) : (c.swapScr).wstack = c.wstack := by
  simp [Core.swapScr]
@[simp] theorem swapScr_wsrec (c : Core) : (c.swapScr).wsrec = c.wsrec := by
  simp [Core.swapScr]
@[simp] theorem swapScr_chan (c : Core) : (c.swapScr).chan = c.chan := by
  simp [Core.swapScr]
@[simp] theorem swapScr_cpyReads (c : Core) : (c.swapScr).cpyReads = c.cpyReads := by
  simp [Core.swapScr]
@[simp] theorem swapScr_mtx (c : Core) : (c.swapScr).mtx = c.mtx := by
  simp [Core.swapScr]
@[simp] theorem swapScr_vec (c : Core) : (c.swapScr).vec = c.vec := by
  simp [Core.swapScr]
@[simp] theorem swapScr_gtab (c : Core) : (c.swapScr).gtab = c.gtab := by
  simp [Core.swapScr]
@[simp] theorem swapScr_gjob (c : Core) : (c.swapScr).gjob = c.gjob := by
  simp [Core.swapScr]
@[simp] theorem swapScr_gtail (c : Core) : (c.swapScr).gtail = c.gtail := by
  simp [Core.swapScr]
@[simp] theorem swapScr_ids (c : Core) : (c.swapScr).ids = c.ids := by
  simp [Core.swapScr]
@[simp] theorem swapScr_lnk (c : Core) : (c.swapScr).lnk = c.lnk := by
  simp [Core.swapScr]
@[simp] theorem swapScr_colls (c : Core) : (c.swapScr).colls = c.colls := by
  simp [Core.swapScr]
@[simp] theorem swapScr_bar (c : Core) : (c.swapScr).bar = c.bar := by
  simp [Core.swapScr]
@[simp] theorem swapScr_stepRel (c : Core) : (c.swapScr).stepRel = c.stepRel := by
  simp [Core.swapScr]
@[simp] theorem swapScr_late (c : Core) : (c.swapScr).late = c.late := by
  simp [Core.swapScr]
@[simp] theorem swapScr_step (c : Core) : (c.swapScr).step = c.step := by
  simp [Core.swapScr]
@[simp] theorem swapScr_ckpt (c : Core) : (c.swapScr).ckpt = c.ckpt := by
  simp [Core.swapScr]
@[simp] theorem swapScr_tracing (c : Core) : (c.swapScr).tracing = c.tracing := by
  simp [Core.swapScr]
@[simp] theorem swapScr_trace (c : Core) : (c.swapScr).trace = c.trace := by
  simp [Core.swapScr]

/-! ### Changing the core that moves -/

@[simp] theorem mapCore_clock (s : State) (f : Core → Core) : (s.mapCore f).clock = s.clock := rfl
@[simp] theorem mapCore_others (s : State) (f : Core → Core) : (s.mapCore f).others = s.others := rfl
@[simp] theorem mapCore_saved (s : State) (f : Core → Core) : (s.mapCore f).saved = s.saved := rfl
@[simp] theorem mapCore_mix (s : State) (f : Core → Core) : (s.mapCore f).mix = s.mix := rfl
@[simp] theorem mapCore_pkgid (s : State) (f : Core → Core) : (s.mapCore f).pkgid = s.pkgid := rfl
@[simp] theorem mapCore_stage (s : State) (f : Core → Core) : (s.mapCore f).stage = s.stage := rfl
@[simp] theorem mapCore_hbm (s : State) (f : Core → Core) : (s.mapCore f).hbm = s.hbm := rfl
@[simp] theorem mapCore_tier2 (s : State) (f : Core → Core) : (s.mapCore f).tier2 = s.tier2 := rfl
@[simp] theorem mapCore_gsram (s : State) (f : Core → Core) : (s.mapCore f).gsram = s.gsram := rfl
@[simp] theorem mapCore_dsh (s : State) (f : Core → Core) : (s.mapCore f).dsh = s.dsh := rfl
@[simp] theorem mapCore_planes (s : State) (f : Core → Core) : (s.mapCore f).planes = s.planes := rfl
@[simp] theorem mapCore_ctxs (s : State) (f : Core → Core) : (s.mapCore f).ctxs = s.ctxs := rfl
@[simp] theorem mapCore_flights (s : State) (f : Core → Core) : (s.mapCore f).flights = s.flights := rfl
@[simp] theorem mapCore_beats (s : State) (f : Core → Core) : (s.mapCore f).beats = s.beats := rfl
@[simp] theorem mapCore_swaps (s : State) (f : Core → Core) : (s.mapCore f).swaps = s.swaps := rfl
@[simp] theorem mapCore_swapped (s : State) (f : Core → Core) : (s.mapCore f).swapped = s.swapped := rfl
@[simp] theorem mapCore_host (s : State) (f : Core → Core) : (s.mapCore f).host = s.host := rfl
@[simp] theorem mapCore_dev (s : State) (f : Core → Core) : (s.mapCore f).dev = s.dev := rfl
@[simp] theorem mapCore_power (s : State) (f : Core → Core) : (s.mapCore f).power = s.power := rfl
@[simp] theorem mapCore_poison (s : State) (f : Core → Core) : (s.mapCore f).poison = s.poison := rfl
@[simp] theorem mapCore_wback (s : State) (f : Core → Core) : (s.mapCore f).wback = s.wback := rfl
@[simp] theorem mapCore_revoked (s : State) (f : Core → Core) : (s.mapCore f).revoked = s.revoked := rfl
@[simp] theorem mapCore_answers (s : State) (f : Core → Core) : (s.mapCore f).answers = s.answers := rfl
@[simp] theorem mapCore_podHold (s : State) (f : Core → Core) : (s.mapCore f).podHold = s.podHold := rfl
@[simp] theorem mapCore_podDone (s : State) (f : Core → Core) : (s.mapCore f).podDone = s.podDone := rfl
@[simp] theorem mapCore_podIn (s : State) (f : Core → Core) : (s.mapCore f).podIn = s.podIn := rfl
@[simp] theorem mapCore_agenda (s : State) (f : Core → Core) : (s.mapCore f).agenda = s.agenda := rfl
@[simp] theorem mapCore_fresh (s : State) (f : Core → Core) : (s.mapCore f).fresh = s.fresh := rfl
@[simp] theorem mapCore_atWrap (s : State) (f : Core → Core) : (s.mapCore f).atWrap = s.atWrap := rfl
@[simp] theorem mapCore_fabric (s : State) (f : Core → Core) : (s.mapCore f).fabric = s.fabric := rfl
@[simp] theorem mapCore_free (s : State) (f : Core → Core) : (s.mapCore f).free = s.free := rfl

/-! ### Changing a core -/

@[simp] theorem modCore_clock (s : State) (k : CoreId) (f : Core → Core) : (s.modCore k f).clock = s.clock := by
  unfold State.modCore; split <;> rfl
@[simp] theorem modCore_saved (s : State) (k : CoreId) (f : Core → Core) : (s.modCore k f).saved = s.saved := by
  unfold State.modCore; split <;> rfl
@[simp] theorem modCore_mix (s : State) (k : CoreId) (f : Core → Core) : (s.modCore k f).mix = s.mix := by
  unfold State.modCore; split <;> rfl
@[simp] theorem modCore_pkgid (s : State) (k : CoreId) (f : Core → Core) : (s.modCore k f).pkgid = s.pkgid := by
  unfold State.modCore; split <;> rfl
@[simp] theorem modCore_stage (s : State) (k : CoreId) (f : Core → Core) : (s.modCore k f).stage = s.stage := by
  unfold State.modCore; split <;> rfl
@[simp] theorem modCore_hbm (s : State) (k : CoreId) (f : Core → Core) : (s.modCore k f).hbm = s.hbm := by
  unfold State.modCore; split <;> rfl
@[simp] theorem modCore_tier2 (s : State) (k : CoreId) (f : Core → Core) : (s.modCore k f).tier2 = s.tier2 := by
  unfold State.modCore; split <;> rfl
@[simp] theorem modCore_gsram (s : State) (k : CoreId) (f : Core → Core) : (s.modCore k f).gsram = s.gsram := by
  unfold State.modCore; split <;> rfl
@[simp] theorem modCore_dsh (s : State) (k : CoreId) (f : Core → Core) : (s.modCore k f).dsh = s.dsh := by
  unfold State.modCore; split <;> rfl
@[simp] theorem modCore_planes (s : State) (k : CoreId) (f : Core → Core) : (s.modCore k f).planes = s.planes := by
  unfold State.modCore; split <;> rfl
@[simp] theorem modCore_ctxs (s : State) (k : CoreId) (f : Core → Core) : (s.modCore k f).ctxs = s.ctxs := by
  unfold State.modCore; split <;> rfl
@[simp] theorem modCore_flights (s : State) (k : CoreId) (f : Core → Core) : (s.modCore k f).flights = s.flights := by
  unfold State.modCore; split <;> rfl
@[simp] theorem modCore_beats (s : State) (k : CoreId) (f : Core → Core) : (s.modCore k f).beats = s.beats := by
  unfold State.modCore; split <;> rfl
@[simp] theorem modCore_swaps (s : State) (k : CoreId) (f : Core → Core) : (s.modCore k f).swaps = s.swaps := by
  unfold State.modCore; split <;> rfl
@[simp] theorem modCore_swapped (s : State) (k : CoreId) (f : Core → Core) : (s.modCore k f).swapped = s.swapped := by
  unfold State.modCore; split <;> rfl
@[simp] theorem modCore_host (s : State) (k : CoreId) (f : Core → Core) : (s.modCore k f).host = s.host := by
  unfold State.modCore; split <;> rfl
@[simp] theorem modCore_dev (s : State) (k : CoreId) (f : Core → Core) : (s.modCore k f).dev = s.dev := by
  unfold State.modCore; split <;> rfl
@[simp] theorem modCore_power (s : State) (k : CoreId) (f : Core → Core) : (s.modCore k f).power = s.power := by
  unfold State.modCore; split <;> rfl
@[simp] theorem modCore_poison (s : State) (k : CoreId) (f : Core → Core) : (s.modCore k f).poison = s.poison := by
  unfold State.modCore; split <;> rfl
@[simp] theorem modCore_wback (s : State) (k : CoreId) (f : Core → Core) : (s.modCore k f).wback = s.wback := by
  unfold State.modCore; split <;> rfl
@[simp] theorem modCore_revoked (s : State) (k : CoreId) (f : Core → Core) : (s.modCore k f).revoked = s.revoked := by
  unfold State.modCore; split <;> rfl
@[simp] theorem modCore_answers (s : State) (k : CoreId) (f : Core → Core) : (s.modCore k f).answers = s.answers := by
  unfold State.modCore; split <;> rfl
@[simp] theorem modCore_podHold (s : State) (k : CoreId) (f : Core → Core) : (s.modCore k f).podHold = s.podHold := by
  unfold State.modCore; split <;> rfl
@[simp] theorem modCore_podDone (s : State) (k : CoreId) (f : Core → Core) : (s.modCore k f).podDone = s.podDone := by
  unfold State.modCore; split <;> rfl
@[simp] theorem modCore_podIn (s : State) (k : CoreId) (f : Core → Core) : (s.modCore k f).podIn = s.podIn := by
  unfold State.modCore; split <;> rfl
@[simp] theorem modCore_agenda (s : State) (k : CoreId) (f : Core → Core) : (s.modCore k f).agenda = s.agenda := by
  unfold State.modCore; split <;> rfl
@[simp] theorem modCore_fresh (s : State) (k : CoreId) (f : Core → Core) : (s.modCore k f).fresh = s.fresh := by
  unfold State.modCore; split <;> rfl
@[simp] theorem modCore_atWrap (s : State) (k : CoreId) (f : Core → Core) : (s.modCore k f).atWrap = s.atWrap := by
  unfold State.modCore; split <;> rfl
@[simp] theorem modCore_fabric (s : State) (k : CoreId) (f : Core → Core) : (s.modCore k f).fabric = s.fabric := by
  unfold State.modCore; split <;> rfl
@[simp] theorem modCore_free (s : State) (k : CoreId) (f : Core → Core) : (s.modCore k f).free = s.free := by
  unfold State.modCore; split <;> rfl

/-! ### Changing the cores of a context -/

@[simp] theorem modCtxCores_clock (s : State) (x : CtxId) (f : Core → Core) : (s.modCtxCores x f).clock = s.clock := rfl
@[simp] theorem modCtxCores_saved (s : State) (x : CtxId) (f : Core → Core) : (s.modCtxCores x f).saved = s.saved := rfl
@[simp] theorem modCtxCores_mix (s : State) (x : CtxId) (f : Core → Core) : (s.modCtxCores x f).mix = s.mix := rfl
@[simp] theorem modCtxCores_pkgid (s : State) (x : CtxId) (f : Core → Core) : (s.modCtxCores x f).pkgid = s.pkgid := rfl
@[simp] theorem modCtxCores_stage (s : State) (x : CtxId) (f : Core → Core) : (s.modCtxCores x f).stage = s.stage := rfl
@[simp] theorem modCtxCores_hbm (s : State) (x : CtxId) (f : Core → Core) : (s.modCtxCores x f).hbm = s.hbm := rfl
@[simp] theorem modCtxCores_tier2 (s : State) (x : CtxId) (f : Core → Core) : (s.modCtxCores x f).tier2 = s.tier2 := rfl
@[simp] theorem modCtxCores_gsram (s : State) (x : CtxId) (f : Core → Core) : (s.modCtxCores x f).gsram = s.gsram := rfl
@[simp] theorem modCtxCores_dsh (s : State) (x : CtxId) (f : Core → Core) : (s.modCtxCores x f).dsh = s.dsh := rfl
@[simp] theorem modCtxCores_planes (s : State) (x : CtxId) (f : Core → Core) : (s.modCtxCores x f).planes = s.planes := rfl
@[simp] theorem modCtxCores_ctxs (s : State) (x : CtxId) (f : Core → Core) : (s.modCtxCores x f).ctxs = s.ctxs := rfl
@[simp] theorem modCtxCores_flights (s : State) (x : CtxId) (f : Core → Core) : (s.modCtxCores x f).flights = s.flights := rfl
@[simp] theorem modCtxCores_beats (s : State) (x : CtxId) (f : Core → Core) : (s.modCtxCores x f).beats = s.beats := rfl
@[simp] theorem modCtxCores_swaps (s : State) (x : CtxId) (f : Core → Core) : (s.modCtxCores x f).swaps = s.swaps := rfl
@[simp] theorem modCtxCores_swapped (s : State) (x : CtxId) (f : Core → Core) : (s.modCtxCores x f).swapped = s.swapped := rfl
@[simp] theorem modCtxCores_host (s : State) (x : CtxId) (f : Core → Core) : (s.modCtxCores x f).host = s.host := rfl
@[simp] theorem modCtxCores_dev (s : State) (x : CtxId) (f : Core → Core) : (s.modCtxCores x f).dev = s.dev := rfl
@[simp] theorem modCtxCores_power (s : State) (x : CtxId) (f : Core → Core) : (s.modCtxCores x f).power = s.power := rfl
@[simp] theorem modCtxCores_poison (s : State) (x : CtxId) (f : Core → Core) : (s.modCtxCores x f).poison = s.poison := rfl
@[simp] theorem modCtxCores_wback (s : State) (x : CtxId) (f : Core → Core) : (s.modCtxCores x f).wback = s.wback := rfl
@[simp] theorem modCtxCores_revoked (s : State) (x : CtxId) (f : Core → Core) : (s.modCtxCores x f).revoked = s.revoked := rfl
@[simp] theorem modCtxCores_answers (s : State) (x : CtxId) (f : Core → Core) : (s.modCtxCores x f).answers = s.answers := rfl
@[simp] theorem modCtxCores_podHold (s : State) (x : CtxId) (f : Core → Core) : (s.modCtxCores x f).podHold = s.podHold := rfl
@[simp] theorem modCtxCores_podDone (s : State) (x : CtxId) (f : Core → Core) : (s.modCtxCores x f).podDone = s.podDone := rfl
@[simp] theorem modCtxCores_podIn (s : State) (x : CtxId) (f : Core → Core) : (s.modCtxCores x f).podIn = s.podIn := rfl
@[simp] theorem modCtxCores_agenda (s : State) (x : CtxId) (f : Core → Core) : (s.modCtxCores x f).agenda = s.agenda := rfl
@[simp] theorem modCtxCores_fresh (s : State) (x : CtxId) (f : Core → Core) : (s.modCtxCores x f).fresh = s.fresh := rfl
@[simp] theorem modCtxCores_atWrap (s : State) (x : CtxId) (f : Core → Core) : (s.modCtxCores x f).atWrap = s.atWrap := rfl
@[simp] theorem modCtxCores_fabric (s : State) (x : CtxId) (f : Core → Core) : (s.modCtxCores x f).fabric = s.fabric := rfl
@[simp] theorem modCtxCores_free (s : State) (x : CtxId) (f : Core → Core) : (s.modCtxCores x f).free = s.free := rfl

/-! ### Changing a context -/

@[simp] theorem modCtx_clock (s : State) (x : CtxId) (f : Context → Context) : (s.modCtx x f).clock = s.clock := rfl
@[simp] theorem modCtx_core (s : State) (x : CtxId) (f : Context → Context) : (s.modCtx x f).core = s.core := rfl
@[simp] theorem modCtx_others (s : State) (x : CtxId) (f : Context → Context) : (s.modCtx x f).others = s.others := rfl
@[simp] theorem modCtx_saved (s : State) (x : CtxId) (f : Context → Context) : (s.modCtx x f).saved = s.saved := rfl
@[simp] theorem modCtx_mix (s : State) (x : CtxId) (f : Context → Context) : (s.modCtx x f).mix = s.mix := rfl
@[simp] theorem modCtx_pkgid (s : State) (x : CtxId) (f : Context → Context) : (s.modCtx x f).pkgid = s.pkgid := rfl
@[simp] theorem modCtx_stage (s : State) (x : CtxId) (f : Context → Context) : (s.modCtx x f).stage = s.stage := rfl
@[simp] theorem modCtx_hbm (s : State) (x : CtxId) (f : Context → Context) : (s.modCtx x f).hbm = s.hbm := rfl
@[simp] theorem modCtx_tier2 (s : State) (x : CtxId) (f : Context → Context) : (s.modCtx x f).tier2 = s.tier2 := rfl
@[simp] theorem modCtx_gsram (s : State) (x : CtxId) (f : Context → Context) : (s.modCtx x f).gsram = s.gsram := rfl
@[simp] theorem modCtx_dsh (s : State) (x : CtxId) (f : Context → Context) : (s.modCtx x f).dsh = s.dsh := rfl
@[simp] theorem modCtx_planes (s : State) (x : CtxId) (f : Context → Context) : (s.modCtx x f).planes = s.planes := rfl
@[simp] theorem modCtx_flights (s : State) (x : CtxId) (f : Context → Context) : (s.modCtx x f).flights = s.flights := rfl
@[simp] theorem modCtx_beats (s : State) (x : CtxId) (f : Context → Context) : (s.modCtx x f).beats = s.beats := rfl
@[simp] theorem modCtx_swaps (s : State) (x : CtxId) (f : Context → Context) : (s.modCtx x f).swaps = s.swaps := rfl
@[simp] theorem modCtx_swapped (s : State) (x : CtxId) (f : Context → Context) : (s.modCtx x f).swapped = s.swapped := rfl
@[simp] theorem modCtx_host (s : State) (x : CtxId) (f : Context → Context) : (s.modCtx x f).host = s.host := rfl
@[simp] theorem modCtx_dev (s : State) (x : CtxId) (f : Context → Context) : (s.modCtx x f).dev = s.dev := rfl
@[simp] theorem modCtx_power (s : State) (x : CtxId) (f : Context → Context) : (s.modCtx x f).power = s.power := rfl
@[simp] theorem modCtx_poison (s : State) (x : CtxId) (f : Context → Context) : (s.modCtx x f).poison = s.poison := rfl
@[simp] theorem modCtx_wback (s : State) (x : CtxId) (f : Context → Context) : (s.modCtx x f).wback = s.wback := rfl
@[simp] theorem modCtx_revoked (s : State) (x : CtxId) (f : Context → Context) : (s.modCtx x f).revoked = s.revoked := rfl
@[simp] theorem modCtx_answers (s : State) (x : CtxId) (f : Context → Context) : (s.modCtx x f).answers = s.answers := rfl
@[simp] theorem modCtx_podHold (s : State) (x : CtxId) (f : Context → Context) : (s.modCtx x f).podHold = s.podHold := rfl
@[simp] theorem modCtx_podDone (s : State) (x : CtxId) (f : Context → Context) : (s.modCtx x f).podDone = s.podDone := rfl
@[simp] theorem modCtx_podIn (s : State) (x : CtxId) (f : Context → Context) : (s.modCtx x f).podIn = s.podIn := rfl
@[simp] theorem modCtx_agenda (s : State) (x : CtxId) (f : Context → Context) : (s.modCtx x f).agenda = s.agenda := rfl
@[simp] theorem modCtx_fresh (s : State) (x : CtxId) (f : Context → Context) : (s.modCtx x f).fresh = s.fresh := rfl
@[simp] theorem modCtx_atWrap (s : State) (x : CtxId) (f : Context → Context) : (s.modCtx x f).atWrap = s.atWrap := rfl
@[simp] theorem modCtx_fabric (s : State) (x : CtxId) (f : Context → Context) : (s.modCtx x f).fabric = s.fabric := rfl
@[simp] theorem modCtx_free (s : State) (x : CtxId) (f : Context → Context) : (s.modCtx x f).free = s.free := rfl

/-! ### The updated fields -/

@[simp] theorem mapCore_core (s : State) (f : Core → Core) : (s.mapCore f).core = f s.core := rfl
@[simp] theorem setEng_eng (c : Core) (e : Nat) (x : Engine) : (c.setEng e x).eng = c.eng.setIfInBounds e x := rfl
@[simp] theorem later_fly (c : Core) (e n : Nat) (x : LocalEff) :
    (c.later e n x).fly = c.fly ++ [{ due := c.now + n, eng := e, pos := (c.engOf e).pos, eff := x }] := rfl
@[simp] theorem atEnd_eoc (c : Core) (x : Eoc) : (c.atEnd x).eoc = c.eoc ++ [x] := rfl
@[simp] theorem setHnd_handles (c : Core) (h : HReg) (x : Handle) :
    (c.setHnd h x).handles = c.handles.setIfInBounds h.toNat x := rfl
@[simp] theorem nextTag_tags (c : Core) : c.nextTag.ctl.tags = c.ctl.tags + 1 := rfl

end Sys2Proof.Machine
end

