-- ==== Sys2Proof/Laws/Store.lean ====
section
/-! SUPPORT. Store.lean: what each operation of a sparse store does to what is read, and that each keeps the canonical form. -/
namespace Sys2Proof.Machine

namespace Store

variable {α : Type}

/-! ### What is read -/

theorem get_filter (z : α) (st : Store α) (p : Nat → Bool) (b : Nat) :
    get z (st.filter fun x => p x.1) b = if p b then get z st b else z := by
  induction st with
  | nil => simp [get]
  | cons x t ih =>
    obtain ⟨k, v⟩ := x
    by_cases hk : p k <;> simp only [List.filter_cons, hk, get] <;> by_cases hb : k = b <;> simp_all [get]

/-- No pair of a store has a key. -/
def absent (st : Store α) (a : Nat) : Prop := ∀ x ∈ st, x.1 ≠ a

theorem get_absent (z : α) (st : Store α) (b : Nat) (h : absent st b) : get z st b = z := by
  induction st with
  | nil => rfl
  | cons x t ih =>
    have h1 : x.1 ≠ b := h x (by simp)
    simp [get, h1, ih fun y hy => h y (by simp [hy])]

theorem get_append_right (z : α) (s t : Store α) (b : Nat) (h : absent s b) : get z (s ++ t) b = get z t b := by
  induction s with
  | nil => rfl
  | cons x r ih =>
    have h1 : x.1 ≠ b := h x (by simp)
    simp [get, h1, ih fun y hy => h y (by simp [hy])]

theorem get_append_left (z : α) (s t : Store α) (b : Nat) (h : absent t b) : get z (s ++ t) b = get z s b := by
  induction s with
  | nil => simp [get, get_absent z t b h]
  | cons x r ih => simp [get, ih]

theorem absent_filter (st : Store α) (p : Nat → Bool) (b : Nat) (h : p b = false) : absent (st.filter fun x => p x.1) b := by
  intro x hx hb
  simp only [List.mem_filter] at hx
  rw [hb] at hx; simp [h] at hx

theorem absent_erase (a : Nat) (st : Store α) : absent (erase a st) a := by
  induction st with
  | nil => simp [absent, erase]
  | cons x t ih =>
    by_cases h : x.1 = a <;> simp only [erase, h, if_true, if_false]
    · exact ih
    · intro y hy
      rcases List.mem_cons.mp hy with rfl | hy
      · exact h
      · exact ih y hy

theorem get_erase (z : α) (a : Nat) (st : Store α) (b : Nat) : get z (erase a st) b = if b = a then z else get z st b := by
  by_cases hb : b = a
  · subst hb; simp [get_absent z _ b (absent_erase b st)]
  · induction st with
    | nil => simp [erase, get]
    | cons x t ih =>
      simp only [hb, if_false] at ih
      by_cases h : x.1 = a
      · have : x.1 ≠ b := fun e => hb (e.symm.trans h)
        simp [erase, h, get, ih, hb, Ne.symm hb]
      · simp [erase, h, get, ih, hb]

theorem get_insertAt (z : α) (a : Nat) (v : α) (st : Store α) (b : Nat) (h : absent st a) :
    get z (insertAt a v st) b = if b = a then v else get z st b := by
  induction st with
  | nil =>
    by_cases hb : b = a
    · simp [insertAt, get, hb]
    · simp [insertAt, get, hb, Ne.symm hb]
  | cons x t ih =>
    obtain ⟨k, w⟩ := x
    have hk : k ≠ a := h (k, w) (by simp)
    have ih := ih fun y hy => h y (by simp [hy])
    by_cases hb : b = a
    · subst hb
      by_cases hlt : b < k
      · simp [insertAt, hlt, get]
      · simp [insertAt, hlt, get, ih, hk]
    · by_cases hlt : a < k
      · simp [insertAt, hlt, get, hb, Ne.symm hb]
      · simp [insertAt, hlt, get, ih, hb]

/-- Reading after a write. -/
theorem get_set [DecidableEq α] (z : α) (st : Store α) (a : Nat) (v : α) (b : Nat) :
    get z (set z st a v) b = if b = a then v else get z st b := by
  unfold set
  split
  · next h => rw [get_erase, h]
  · rw [get_insertAt _ _ _ _ _ (absent_erase a st), get_erase]; split <;> rfl

/-- Reading after consecutive writes. -/
theorem get_setList [DecidableEq α] (z : α) (vs : List α) : ∀ (st : Store α) (a b : Nat),
    get z (setList z st a vs) b = if a ≤ b ∧ b < a + vs.length then vs.getD (b - a) z else get z st b := by
  induction vs with
  | nil => intro st a b; exact (if_neg (show ¬ (a ≤ b ∧ b < a + 0) by omega)).symm
  | cons v vs ih =>
    intro st a b
    simp only [setList, ih, get_set, List.length_cons]
    by_cases h : b = a
    · subst h; rw [if_neg (by omega), if_pos rfl, if_pos (by omega), Nat.sub_self]; rfl
    · by_cases h2 : a + 1 ≤ b ∧ b < a + 1 + vs.length
      · obtain ⟨k, hk⟩ : ∃ k, b - a = k + 1 := ⟨b - a - 1, by omega⟩
        have hs : b - (a + 1) = k := by omega
        rw [if_pos h2, if_pos (by omega), hk, hs]; rfl
      · rw [if_neg h2, if_neg h, if_neg (by omega)]

theorem absent_ofFn [DecidableEq α] (z : α) (f : Nat → α) (b : Nat) : ∀ n a, ¬ (a ≤ b ∧ b < a + n) → absent (ofFn z f a n) b := by
  intro n
  induction n with
  | zero => intro a _ x hx; simp [ofFn] at hx
  | succ n ih =>
    intro a h
    have := ih (a + 1) (by omega)
    simp only [ofFn]
    split
    · exact this
    · intro x hx
      rcases List.mem_cons.mp hx with rfl | hx
      · intro e; subst e; exact h (by simp)
      · exact this x hx

theorem get_ofFn [DecidableEq α] (z : α) (f : Nat → α) (b : Nat) : ∀ n a,
    get z (ofFn z f a n) b = if a ≤ b ∧ b < a + n then f b else z := by
  intro n
  induction n with
  | zero => intro a; rw [if_neg (by omega)]; rfl
  | succ n ih =>
    intro a
    by_cases h : b = a
    · subst h
      have h0 : absent (ofFn z f (b + 1) n) b := absent_ofFn z f b n (b + 1) (by omega)
      simp only [ofFn]
      split <;> simp_all [get, get_absent]
    · have e : (a ≤ b ∧ b < a + (n + 1)) ↔ (a + 1 ≤ b ∧ b < a + 1 + n) := by omega
      simp only [ofFn, e]
      split <;> simp [get, ih, Ne.symm h]

/-- Reading a store in which consecutive keys were replaced. -/
theorem get_splice (z : α) (st : Store α) (dst n : Nat) (src : Store α) (b : Nat)
    (hs : ¬ (dst ≤ b ∧ b < dst + n) → absent src b) :
    get z (splice st dst n src) b = if dst ≤ b ∧ b < dst + n then get z src b else get z st b := by
  unfold splice
  have hf := get_filter z st (fun k => decide (k < dst)) b
  have hg := get_filter z st (fun k => decide (dst + n ≤ k)) b
  have al := absent_filter st (fun k => decide (k < dst)) b
  have ar := absent_filter st (fun k => decide (dst + n ≤ k)) b
  by_cases h1 : b < dst
  · have : ¬ (dst ≤ b ∧ b < dst + n) := by omega
    rw [get_append_left _ _ _ _ (ar (by simp; omega)), get_append_left _ _ _ _ (hs this)]
    simp [*]
  · by_cases h2 : b < dst + n
    · rw [get_append_left _ _ _ _ (ar (by simp; omega)), get_append_right _ _ _ _ (al (by simp; omega))]
      have : dst ≤ b ∧ b < dst + n := by omega
      simp [*]
    · have h3 : ¬ (dst ≤ b ∧ b < dst + n) := by omega
      rw [List.append_assoc, get_append_right _ _ _ _ (al (by simp; omega)), get_append_right _ _ _ _ (hs h3)]
      have : dst + n ≤ b := by omega
      simp [*]

/-- Reading after a fill. -/
theorem get_fill [DecidableEq α] (z : α) (st : Store α) (lo n : Nat) (f : Nat → α) (b : Nat) :
    get z (fill z st lo n f) b = if lo ≤ b ∧ b < lo + n then f b else get z st b := by
  have h := get_splice z st lo n (ofFn z f lo n) b (absent_ofFn z f b n lo)
  rw [get_ofFn] at h
  unfold fill; unfold splice at h
  rw [h]; split <;> rfl

/-- Reading after a clear. -/
theorem get_clear (z : α) (st : Store α) (lo n b : Nat) :
    get z (clear st lo n) b = if lo ≤ b ∧ b < lo + n then z else get z st b := by
  unfold clear
  rw [get_filter z st (fun k => decide (k < lo) || decide (lo + n ≤ k)) b]
  by_cases h : lo ≤ b ∧ b < lo + n
  · have : ¬ (b < lo ∨ lo + n ≤ b) := by omega
    simp [*]
  · have : b < lo ∨ lo + n ≤ b := by omega
    simp [*]

theorem absent_slice (st : Store α) (lo n dst b : Nat) (h : ¬ (dst ≤ b ∧ b < dst + n)) : absent (slice st lo n dst) b := by
  intro x hx hb
  simp only [slice, List.mem_map, List.mem_filter, Bool.and_eq_true, decide_eq_true_eq] at hx
  obtain ⟨y, ⟨_, h1, h2⟩, rfl⟩ := hx
  simp only at hb; omega

theorem get_slice (z : α) (st : Store α) (lo n dst b : Nat) (h : dst ≤ b ∧ b < dst + n) :
    get z (slice st lo n dst) b = get z st (lo + (b - dst)) := by
  induction st with
  | nil => rfl
  | cons x t ih =>
    obtain ⟨k, v⟩ := x
    simp only [slice] at ih ⊢
    by_cases hk : lo ≤ k ∧ k < lo + n
    · rw [List.filter_cons_of_pos (by simpa using hk)]
      simp only [List.map_cons, get]
      by_cases e : k = lo + (b - dst)
      · have : dst + (k - lo) = b := by omega
        rw [if_pos this, if_pos e]
      · have : dst + (k - lo) ≠ b := by omega
        rw [if_neg this, if_neg e, ih]
    · have e : k ≠ lo + (b - dst) := by omega
      rw [List.filter_cons_of_neg (by simpa using hk), get, if_neg e, ih]

/-- Reading after a copy. -/
theorem get_copy (z : α) (st : Store α) (dst : Nat) (src : Store α) (lo n b : Nat) :
    get z (copy st dst src lo n) b = if dst ≤ b ∧ b < dst + n then get z src (lo + (b - dst)) else get z st b := by
  unfold copy
  rw [get_splice _ _ _ _ _ _ (absent_slice src lo n dst b)]
  split
  · next h => rw [get_slice z src lo n dst b h]
  · rfl

/-! ### The canonical form -/

/-- Keys from a bound on, strictly rising, with no value z. -/
theorem wfFrom_iff [DecidableEq α] (z : α) (st : Store α) : ∀ lo,
    wfFrom z lo st = true ↔ st.Pairwise (fun x y => x.1 < y.1) ∧ ∀ x ∈ st, lo ≤ x.1 ∧ x.2 ≠ z := by
  induction st with
  | nil => simp [wfFrom]
  | cons x t ih =>
    intro lo
    simp only [wfFrom, Bool.and_eq_true, decide_eq_true_eq, ih, List.pairwise_cons, List.mem_cons]
    constructor
    · rintro ⟨⟨h1, h2⟩, h3, h4⟩
      refine ⟨⟨fun y hy => by have := (h4 y hy).1; omega, h3⟩, ?_⟩
      rintro y (rfl | hy)
      · exact ⟨h1, h2⟩
      · exact ⟨by have := (h4 y hy).1; omega, (h4 y hy).2⟩
    · rintro ⟨⟨h1, h2⟩, h3⟩
      exact ⟨h3 x (.inl rfl), h2, fun y hy => ⟨h1 y hy, (h3 y (.inr hy)).2⟩⟩

theorem wf_iff [DecidableEq α] (z : α) (st : Store α) :
    wf z st = true ↔ st.Pairwise (fun x y => x.1 < y.1) ∧ ∀ x ∈ st, x.2 ≠ z := by
  simp [wf, wfFrom_iff]

theorem wf_nil [DecidableEq α] (z : α) : wf z ([] : Store α) = true := rfl

theorem mem_erase {a : Nat} {st : Store α} {x : Nat × α} (h : x ∈ erase a st) : x ∈ st := by
  induction st with
  | nil => simp [erase] at h
  | cons y t ih =>
    simp only [erase] at h
    split at h
    · exact List.mem_cons_of_mem _ (ih h)
    · rcases List.mem_cons.mp h with rfl | h
      · simp
      · exact List.mem_cons_of_mem _ (ih h)

theorem wf_erase [DecidableEq α] (z : α) (a : Nat) (st : Store α) (h : wf z st = true) : wf z (erase a st) = true := by
  rw [wf_iff] at h ⊢
  refine ⟨?_, fun x hx => h.2 x (mem_erase hx)⟩
  induction st with
  | nil => simp [erase]
  | cons y t ih =>
    have h1 := List.pairwise_cons.mp h.1
    have ih := ih ⟨h1.2, fun x hx => h.2 x (by simp [hx])⟩
    simp only [erase]
    split
    · exact ih
    · exact List.pairwise_cons.mpr ⟨fun x hx => h1.1 x (mem_erase hx), ih⟩

theorem mem_insertAt {a : Nat} {v : α} {st : Store α} {x : Nat × α} (h : x ∈ insertAt a v st) : x = (a, v) ∨ x ∈ st := by
  induction st with
  | nil => simpa [insertAt] using h
  | cons y t ih =>
    simp only [insertAt] at h
    split at h
    · simpa using h
    · rcases List.mem_cons.mp h with rfl | h
      · simp
      · rcases ih h with rfl | h <;> simp [*]

theorem wf_insertAt [DecidableEq α] (z : α) (a : Nat) (v : α) (st : Store α) (h : wf z st = true) (ha : absent st a) (hv : v ≠ z) :
    wf z (insertAt a v st) = true := by
  rw [wf_iff] at h ⊢
  refine ⟨?_, fun x hx => ?_⟩
  · induction st with
    | nil => simp [insertAt]
    | cons y t ih =>
      have h1 := List.pairwise_cons.mp h.1
      have ih := ih ⟨h1.2, fun x hx => h.2 x (by simp [hx])⟩ fun x hx => ha x (by simp [hx])
      have hy : y.1 ≠ a := ha y (by simp)
      simp only [insertAt]
      split
      · next hlt =>
        refine List.pairwise_cons.mpr ⟨fun x hx => ?_, h.1⟩
        rcases List.mem_cons.mp hx with rfl | hx
        · exact hlt
        · exact Nat.lt_trans hlt (h1.1 x hx)
      · next hlt =>
        refine List.pairwise_cons.mpr ⟨fun x hx => ?_, ih⟩
        rcases mem_insertAt hx with rfl | hx
        · show y.1 < a; omega
        · exact h1.1 x hx
  · rcases mem_insertAt hx with rfl | hx
    · exact hv
    · exact h.2 x hx

/-- A write keeps the canonical form. -/
theorem wf_set [DecidableEq α] (z : α) (st : Store α) (a : Nat) (v : α) (h : wf z st = true) : wf z (set z st a v) = true := by
  unfold set
  split
  · exact wf_erase z a st h
  · next hv => exact wf_insertAt z a v _ (wf_erase z a st h) (absent_erase a st) hv

/-- Consecutive writes keep the canonical form. -/
theorem wf_setList [DecidableEq α] (z : α) (vs : List α) : ∀ (st : Store α) (a : Nat), wf z st = true →
    wf z (setList z st a vs) = true := by
  induction vs with
  | nil => intro st a h; exact h
  | cons v vs ih => intro st a h; exact ih _ _ (wf_set z st a v h)

theorem wf_filter [DecidableEq α] (z : α) (st : Store α) (p : Nat × α → Bool) (h : wf z st = true) :
    wf z (st.filter p) = true := by
  rw [wf_iff] at h ⊢
  exact ⟨h.1.filter p, fun x hx => h.2 x (List.mem_filter.mp hx).1⟩

/-- A clear keeps the canonical form. -/
theorem wf_clear [DecidableEq α] (z : α) (st : Store α) (lo n : Nat) (h : wf z st = true) : wf z (clear st lo n) = true :=
  wf_filter z st _ h

/-- A splice of a canonical store that lies inside the replaced keys keeps the canonical form. -/
theorem wf_splice [DecidableEq α] (z : α) (st : Store α) (dst n : Nat) (src : Store α) (h : wf z st = true) (hs : wf z src = true)
    (hin : ∀ x ∈ src, dst ≤ x.1 ∧ x.1 < dst + n) : wf z (splice st dst n src) = true := by
  rw [wf_iff] at h hs ⊢
  unfold splice
  refine ⟨?_, ?_⟩
  · refine List.pairwise_append.mpr ⟨List.pairwise_append.mpr ⟨h.1.filter _, hs.1, ?_⟩, h.1.filter _, ?_⟩
    · intro x hx y hy
      have := (List.mem_filter.mp hx).2; have := hin y hy
      simp at *; omega
    · intro x hx y hy
      have hy := (List.mem_filter.mp hy).2
      rcases List.mem_append.mp hx with hx | hx
      · have := (List.mem_filter.mp hx).2; simp at *; omega
      · have := hin x hx; simp at *; omega
  · intro x hx
    rcases List.mem_append.mp hx with hx | hx
    · rcases List.mem_append.mp hx with hx | hx
      · exact h.2 x (List.mem_filter.mp hx).1
      · exact hs.2 x hx
    · exact h.2 x (List.mem_filter.mp hx).1

theorem mem_ofFn [DecidableEq α] (z : α) (f : Nat → α) (x : Nat × α) : ∀ n a, x ∈ ofFn z f a n →
    a ≤ x.1 ∧ x.1 < a + n ∧ x.2 ≠ z := by
  intro n
  induction n with
  | zero => intro a h; simp [ofFn] at h
  | succ n ih =>
    intro a h
    simp only [ofFn] at h
    split at h
    · have := ih _ h; exact ⟨by omega, by omega, this.2.2⟩
    · next hv =>
      rcases List.mem_cons.mp h with rfl | h
      · exact ⟨Nat.le_refl _, by simp, hv⟩
      · have := ih _ h; exact ⟨by omega, by omega, this.2.2⟩

theorem wf_ofFn [DecidableEq α] (z : α) (f : Nat → α) : ∀ n a, wf z (ofFn z f a n) = true := by
  intro n a
  rw [wf_iff]
  refine ⟨?_, fun x hx => (mem_ofFn z f x n a hx).2.2⟩
  induction n generalizing a with
  | zero => simp [ofFn]
  | succ n ih =>
    simp only [ofFn]
    split
    · exact ih _
    · exact List.pairwise_cons.mpr ⟨fun x hx => by have := (mem_ofFn z f x n _ hx).1; show a < x.1; omega, ih _⟩

/-- A fill keeps the canonical form. -/
theorem wf_fill [DecidableEq α] (z : α) (st : Store α) (lo n : Nat) (f : Nat → α) (h : wf z st = true) :
    wf z (fill z st lo n f) = true :=
  wf_splice z st lo n _ h (wf_ofFn z f n lo) fun x hx => ⟨(mem_ofFn z f x n lo hx).1, (mem_ofFn z f x n lo hx).2.1⟩

theorem wf_slice [DecidableEq α] (z : α) (st : Store α) (lo n dst : Nat) (h : wf z st = true) : wf z (slice st lo n dst) = true := by
  rw [wf_iff] at h ⊢
  unfold slice
  refine ⟨?_, ?_⟩
  · rw [List.pairwise_map]
    refine List.Pairwise.imp_of_mem ?_ (h.1.filter _)
    intro x y hx hy hlt
    have := (List.mem_filter.mp hx).2; have := (List.mem_filter.mp hy).2
    simp at *; omega
  · intro x hx
    obtain ⟨y, hy, rfl⟩ := List.mem_map.mp hx
    exact h.2 y (List.mem_filter.mp hy).1

/-- A copy keeps the canonical form. -/
theorem wf_copy [DecidableEq α] (z : α) (st : Store α) (dst : Nat) (src : Store α) (lo n : Nat) (h : wf z st = true)
    (hs : wf z src = true) : wf z (copy st dst src lo n) = true := by
  refine wf_splice z st dst n _ h (wf_slice z src lo n dst hs) fun x hx => ?_
  obtain ⟨y, hy, rfl⟩ := List.mem_map.mp hx
  have := (List.mem_filter.mp hy).2
  simp at *; omega

/-- Canonical stores that read alike are equal. -/
theorem wf_ext [DecidableEq α] (z : α) : ∀ (lo : Nat) (s t : Store α), wfFrom z lo s = true → wfFrom z lo t = true →
    (∀ a, get z s a = get z t a) → s = t := by
  intro lo s
  induction s generalizing lo with
  | nil =>
    intro t _ ht h
    cases t with
    | nil => rfl
    | cons y t =>
      have h1 := (wfFrom_iff z _ _).mp ht
      have := h y.1
      simp [get] at this
      exact absurd this.symm (h1.2 y (by simp)).2
  | cons x s ih =>
    intro t hs ht h
    have hx := (wfFrom_iff z _ _).mp hs
    cases t with
    | nil =>
      have := h x.1
      simp [get] at this
      exact absurd this (hx.2 x (by simp)).2
    | cons y t =>
      have hy := (wfFrom_iff z _ _).mp ht
      have px := List.pairwise_cons.mp hx.1
      have py := List.pairwise_cons.mp hy.1
      obtain ⟨k, v⟩ := x
      obtain ⟨l, w⟩ := y
      have hv : v ≠ z := (hx.2 (k, v) (by simp)).2
      have hw : w ≠ z := (hy.2 (l, w) (by simp)).2
      have kl : k = l := by
        rcases Nat.lt_trichotomy k l with c | c | c
        · have e := h k
          have a : absent t k := fun q hq he => by have := py.1 q hq; simp at this; omega
          have : l ≠ k := by omega
          simp [get, this, get_absent z t k a] at e
          exact absurd e hv
        · exact c
        · have e := h l
          have a : absent s l := fun q hq he => by have := px.1 q hq; simp at this; omega
          have : k ≠ l := by omega
          simp [get, this, get_absent z s l a] at e
          exact absurd e.symm hw
      subst kl
      have e := h k
      simp [get] at e
      subst e
      congr 1
      simp only [wfFrom, Bool.and_eq_true] at hs ht
      refine ih (k + 1) t hs.2 ht.2 fun a => ?_
      have e := h a
      simp only [get] at e
      by_cases ha : k = a
      · subst ha
        rw [get_absent z s k fun q hq he => by have := px.1 q hq; simp at this; omega,
          get_absent z t k fun q hq he => by have := py.1 q hq; simp at this; omega]
      · simpa [ha] using e

end Store

namespace Memory

/-- A write of a number keeps the canonical form. -/
theorem wf_writeNat : ∀ (n : Nat) (m : Memory) (a x : Nat), m.wf = true → (m.writeNat a n x).wf = true := by
  intro n
  induction n with
  | zero => intro m a x h; exact h
  | succ n ih => intro m a x h; exact ih _ _ _ (Store.wf_set blank m a _ h)

/-- A write of bytes keeps the canonical form. -/
theorem wf_writeBytes (m : Memory) (a : Nat) (bs : List Byte) (h : m.wf = true) : (m.writeBytes a bs).wf = true :=
  Store.wf_setList blank bs m a h

/-- Reading a byte after a number was written little-endian (R2). -/
theorem byte_writeNat : ∀ (n : Nat) (m : Memory) (a x b : Nat), (m.writeNat a n x).byte b =
    if a ≤ b ∧ b < a + n then BitVec.ofNat 8 (x / 256 ^ (b - a)) else m.byte b := by
  intro n
  induction n with
  | zero => intro m a x b; have : ¬ (a ≤ b ∧ b < a + 0) := by omega
            simp only [writeNat, this, if_false]
  | succ n ih =>
    intro m a x b
    simp only [writeNat, ih]
    by_cases h1 : a + 1 ≤ b ∧ b < a + 1 + n
    · have : a ≤ b ∧ b < a + (n + 1) := by omega
      obtain ⟨k, hk⟩ : ∃ k, b - a = k + 1 := ⟨b - a - 1, by omega⟩
      have : b - (a + 1) = k := by omega
      simp [*, Nat.pow_succ, Nat.div_div_eq_div_mul, Nat.mul_comm]
    · by_cases h2 : b = a
      · subst h2
        have h3 : b ≤ b ∧ b < b + (n + 1) := by omega
        rw [if_neg h1, if_pos h3]
        simp [byte, Store.get_set]
      · have h3 : ¬ (a ≤ b ∧ b < a + (n + 1)) := by omega
        rw [if_neg h1, if_neg h3]
        simp [byte, Store.get_set, h2]

/-- Reading a byte after bytes were written. -/
theorem byte_writeBytes (m : Memory) (a : Nat) (bs : List Byte) (b : Nat) : (m.writeBytes a bs).byte b =
    if a ≤ b ∧ b < a + bs.length then bs.getD (b - a) blank else m.byte b := Store.get_setList blank bs m a b

/-- Reading back the number that was written (R2). -/
theorem readNat_writeNat (m : Memory) (a n x : Nat) : (m.writeNat a n x).readNat a n = x % 256 ^ n := by
  have key : ∀ (n : Nat) (m : Memory) (a x : Nat), (∀ k < n, m.byte (a + k) = BitVec.ofNat 8 (x / 256 ^ k)) →
      m.readNat a n = x % 256 ^ n := by
    intro n
    induction n with
    | zero => intro m a x _; simp [readNat, Nat.mod_one]
    | succ n ih =>
      intro m a x h
      have h0 := h 0 (by omega)
      have e := ih m (a + 1) (x / 256) fun k hk => by
        have := h (k + 1) (by omega)
        rw [Nat.add_assoc, Nat.add_comm 1 k, this, Nat.pow_succ, Nat.mul_comm, ← Nat.div_div_eq_div_mul]
      simp only [Nat.add_zero, Nat.pow_zero, Nat.div_one] at h0
      rw [readNat, e, h0, BitVec.toNat_ofNat, Nat.pow_succ 256 n, Nat.mul_comm (256 ^ n) 256, Nat.mod_mul]
  refine key n _ a x fun k hk => ?_
  rw [byte_writeNat]
  have : a ≤ a + k ∧ a + k < a + n := by omega
  simp [this]

end Memory

/-- The memories of the machine after reset have the canonical form. -/
theorem reset_memories_wf : State.reset.stage.wf = true ∧ State.reset.hbm.wf = true ∧ State.reset.tier2.wf = true ∧
    State.reset.gsram.wf = true ∧ State.reset.dsh.wf = true ∧ State.reset.core.scratch.wf = true ∧
    State.reset.core.wstack.wf = true := by decide

end Sys2Proof.Machine
end

