-- ==== Sys2Proof/Tests/Slice0.lean ====
section
/-! SUPPORT. Slice0.lean: tests on fixed values, with results from the manual's own examples and tables, and for every statement a
state and operands that meet its hypotheses. -/
namespace Sys2Proof.Tests
open Sys2Proof Sys2Proof.Machine

/-! ### Decoding: a word of every row of the opcode table, its fields put where Tables 2-2 to 2-15 put them -/

/-- Each word decodes to its instruction. -/
def reads (l : List (Nat × Instr)) : Bool := l.all fun p => decodeTableWord 32 p.1 == some p.2

/-- Rows 0 to 22. -/
theorem test_words_0 : reads [
    (0x005A5A5A, .ill 5921370), (0x00AACD00, .add 10 22 13), (0x00AACD01, .sub 10 22 13), (0x00AACD02, .and 10 22 13),
    (0x00AACD03, .or 10 22 13), (0x00AACD04, .xor 10 22 13), (0x00AACD05, .sll 10 22 13), (0x00AACD06, .srl 10 22 13),
    (0x00AACD07, .sra 10 22 13), (0x00AACD08, .slt 10 22 13), (0x00AACD09, .sltn 10 22 13), (0x00AACD0A, .min 10 22 13),
    (0x00AACD0B, .max 10 22 13), (0x00AACD0C, .minn 10 22 13), (0x00AACD0D, .maxn 10 22 13), (0x00AACD10, .mul 10 22 13),
    (0x00AACD11, .mulh 10 22 13), (0x00AACD12, .mulhn 10 22 13), (0x00AACD14, .div 10 22 13), (0x00AACD15, .divn 10 22 13),
    (0x00AACD16, .rem 10 22 13), (0x00AACD17, .remn 10 22 13), (0x00AAC018, .clz 10 22)] = true := by decide

/-- Rows 23 to 45. -/
theorem test_words_1 : reads [
    (0x00AAC019, .ctz 10 22), (0x00AAC01A, .popc 10 22), (0x012ADA5B, .addi 10 22 6747), (0x01AADA5B, .andi 10 22 6747),
    (0x022ADA5B, .ori 10 22 6747), (0x02AADA5B, .xori 10 22 6747), (0x032AC025, .slli 10 22 37), (0x03AAC025, .srli 10 22 37),
    (0x042AC025, .srai 10 22 37), (0x04AADA5B, .slti 10 22 6747), (0x052AA5B1, .lui 10 173489), (0x05AADA5B, .sloi 10 22 6747),
    (0x062ADA5B, .beq 10 22 6747), (0x06AADA5B, .bne 10 22 6747), (0x072ADA5B, .blt 10 22 6747), (0x07AADA5B, .bge 10 22 6747),
    (0x082ADA5B, .bltn 10 22 6747), (0x08AADA5B, .bgen 10 22 6747), (0x092AA5B1, .jal 10 173489), (0x09AADA5B, .jalr 10 22 6747),
    (0x0A2ADA5B, .ldb 10 22 6747), (0x0AAADA5B, .ldbn 10 22 6747), (0x0B2ADA5B, .ldh 10 22 6747)] = true := by decide

/-- Rows 46 to 68. -/
theorem test_words_2 : reads [
    (0x0BAADA5B, .ldhn 10 22 6747), (0x0C2ADA5B, .ldw 10 22 6747), (0x0CAADA5B, .ldwn 10 22 6747), (0x0D2ADA5B, .ldd 10 22 6747),
    (0x0DAADA5B, .ldo 10 22 6747), (0x0E2ADA5B, .lds 10 22 6747), (0x0EA81A5B, .chk 10 6747), (0x0F2ADA5B, .stb 10 22 6747),
    (0x0FAADA5B, .sth 10 22 6747), (0x102ADA5B, .stw 10 22 6747), (0x10AADA5B, .std 10 22 6747), (0x112ACD08, .aadd 10 22 13 1),
    (0x112ACD09, .aswp 10 22 13 1), (0x112ACD0A, .acas 10 22 13 1), (0x112ACD0B, .amin 10 22 13 1),
    (0x112ACD0C, .amax 10 22 13 1), (0x112ACD0D, .aand 10 22 13 1), (0x112ACD0E, .aor 10 22 13 1), (0x112ACD0F, .axor 10 22 13 1),
    (0x11D95A5B, .ldq 5 2 10 6747), (0x12595A5B, .stq 5 2 10 6747), (0x12A81A5B, .csrr 10 6747), (0x13015A5B, .csrw 10 6747)] = true := by decide

/-- Rows 69 to 91. -/
theorem test_words_3 : reads [
    (0x13AADA5B, .csrs 10 22 6747), (0x142ADA5B, .csrc 10 22 6747), (0x14A80005, .rde 10 5), (0x15014000, .fpush 10),
    (0x15CCAA60, .hdef 9 37 10 6), (0x164CA000, .hadvC 9 37), (0x164CB000, .hadvP 9 37), (0x16C80A00, .hrd 9 10),
    (0x17015A5B, .pacq 10 6747), (0x17800009, .prel 9), (0x1802A5B1, .trap 173489), (0x18800000, .sret),
    (0x192ADA5B, .wev 10 22 6747), (0x19AAC000, .adq 10 22), (0x1B82A5B1, .brk 173489), (0xE080032D, .step 1 37 5),
    (0xE10000CD, .bar 1 9 5), (0xE1800055, .fenceM 85), (0xE2000000, .exit), (0xE280000E, .fpcw 1 1 2),
    (0xE3014055, .latew 10 85), (0xE3814000, .budg 10), (0xE4155602, .bndset 5 10 22 2)] = true := by decide

/-- Rows 92 to 114. -/
theorem test_words_4 : reads [
    (0xE482A5B1, .mark 173489), (0x2081560D, .mnest 10 22 1 5), (0x21015605, .mnestc 10 22 5), (0x21AACD00, .mbase 10 22 13),
    (0x224CA003, .mgo 9 37 1 1), (0x2282C066, .mdrain 0 22 1 9 2), (0x228140E6, .mdrainAuto 10 1 9 2), (0x23000000, .mclra),
    (0x2381560D, .mldt 10 22 1 5), (0x2401560D, .mstt 10 22 1 5), (0x24AACD35, .mtrn 10 22 13 1 2 5), (0x2500000D, .mact 1 5),
    (0x25815601, .mtwc 10 22 1), (0x26146904, .mbfly 5 3 9 4), (0x26946001, .mdrev 5 3 1), (0x27014005, .mtexpSet 10 5),
    (0x2701400D, .mtexpAdd 10 5), (0x27014010, .mtexpSt 10), (0x27815600, .mgvcfg 10 22), (0x284CAAAB, .mgvr 9 37 10 85 1),
    (0x28A80001, .mchkr 10 1), (0x29015600, .mdropkKey 10 22), (0x29015601, .mdropkCtr 10 22)] = true := by decide

/-- Rows 115 to 137. -/
theorem test_words_5 : reads [
    (0x29015602, .mdropkThr 10 22), (0x29815601, .mres 10 22 1), (0x40800156, .vshape 10 22), (0x41480006, .vldq 9 1 2),
    (0x4184802F, .vstq 9 5 1 1 1), (0x424B6000, .vadd 9 6 12), (0x424B6001, .vsub 9 6 12), (0x424B6002, .vmul 9 6 12),
    (0x424B6003, .vmin 9 6 12), (0x424B6004, .vmax 9 6 12), (0x42CB6000, .viadd 9 6 12), (0x42CB6001, .visub 9 6 12),
    (0x42CB6002, .vimul 9 6 12), (0x42CB6003, .vand 9 6 12), (0x42CB6004, .vor 9 6 12), (0x42CB6005, .vxor 9 6 12),
    (0x42CB6006, .vshl 9 6 12), (0x42CB6007, .vshr 9 6 12), (0x434B6180, .vfma 9 6 12 3), (0x43CB0000, .vneg 9 6),
    (0x43CB0001, .vabs 9 6), (0x43CB0002, .vrcp 9 6), (0x43CB0003, .vrsq 9 6)] = true := by decide

/-- Rows 138 to 160. -/
theorem test_words_6 : reads [
    (0x43CB0004, .vsqrt 9 6), (0x43CB0005, .vexp2 9 6), (0x43CB0006, .vlog2 9 6), (0x43CB0007, .vsinp 9 6),
    (0x43CB0008, .vfloor 9 6), (0x444B000A, .vcvt 9 6 1 2), (0x44CB000D, .vqbx 9 6 1 5), (0x454B0005, .vdqbx 9 6 5),
    (0x45CB0002, .vpack 9 6 0 2), (0x464B0002, .vunpk 9 6 0 2), (0x46CB600D, .vcmp 9 6 12 1 5), (0x474B6181, .vsel 9 6 12 3 1),
    (0x47CB0000, .vredSumRow 9 6), (0x47CB0001, .vredMaxRow 9 6), (0x47CB0002, .vredMinRow 9 6), (0x47CB0004, .vredSumCol 9 6),
    (0x47CB0005, .vredMaxCol 9 6), (0x47CB0006, .vredMinCol 9 6), (0x47CB0008, .vredSumAll 9 6), (0x47CB0009, .vredMaxAll 9 6),
    (0x47CB000A, .vredMinAll 9 6), (0x484B0002, .vbcast 9 6 2), (0x48A55600, .vxdef 9 10 22)] = true := by decide

/-- Rows 161 to 183. -/
theorem test_words_7 : reads [
    (0x494B0000, .vexpr 9 6), (0x4984B002, .vdefer 9 6 2), (0x4A4B0002, .vdrain 9 6 2), (0x4ACB6000, .vdret 9 6 12),
    (0x4B480001, .vrng 9 1), (0x4B815600, .vrngkKey 10 22), (0x4B815601, .vrngkCtr 10 22), (0x4B815602, .vrngkAdd 10 22),
    (0x4BA40003, .vrngkSave 9), (0x4C000000, .vamxr), (0x4CCB6189, .vgrpc 9 6 12 3 9), (0x4D480002, .viota 9 2),
    (0x4DCB6000, .vperm 9 6 12), (0x4E4B0000, .vtrn 9 6), (0x60AACD2B, .cgeo 10 22 13 5 3), (0x61015605, .clay 10 22 5),
    (0x61AACDEB, .cgo 10 22 13 1 1 5 3), (0x62015605, .csched 10 22 5), (0x62A81A5B, .cadv 10 6747),
    (0x632ACD0D, .cpage 10 22 13 1 5), (0x638000A5, .cstop 165), (0x642ACD6B, .cfill 10 22 13 1 5 3),
    (0x80CCAA80, .lpush 9 37 10 1)] = true := by decide

/-- Rows 184 to 206. -/
theorem test_words_8 : reads [
    (0x81014000, .lslot 10), (0x81014001, .lslotRel 10), (0x81AACD00, .lput 10 22 13), (0x822ACD00, .lget 10 22 13),
    (0x82815600, .lsig 10 22), (0x832ACD08, .laadd 10 22 13 1), (0x832ACD09, .laswp 10 22 13 1), (0x832ACD0A, .lacas 10 22 13 1),
    (0x832ACD0B, .lamin 10 22 13 1), (0x832ACD0C, .lamax 10 22 13 1), (0x832ACD0D, .laand 10 22 13 1),
    (0x832ACD0E, .laor 10 22 13 1), (0x832ACD0F, .laxor 10 22 13 1), (0x83AADA5B, .lwsig 10 22 6747), (0x84000000, .lquiet),
    (0xA0AACD2E, .gtab 10 22 13 1 3 2), (0xA14CAA00, .gthr 9 37 10), (0xA1CCAA00, .gsum 9 37 10), (0xC0815605, .cgrp 10 22 5),
    (0xC12ACD4D, .cred 10 22 13 2 1 5), (0xC1AACD4D, .crsc 10 22 13 2 1 5), (0xC22ACD15, .callg 10 22 13 2 5),
    (0xC2AACD15, .cbc 10 22 13 2 5)] = true := by decide

/-- Words worked out in chapters 2, 4 to 6 (Table 2-3, Table 4-13, R81, R88, R119 to R125, R149 to R155). -/
theorem test_worked_words_1 : reads [
    (0x0094C700, .add 5 6 7), (0x05140091, .lui 5 0x91), (0x0214B456, .ori 5 5 0x1456), (0x068C1FFE, .bne 3 0 0x1FFE),
    (0x42091800, .vadd 1 2 3), (0xE2000000, .exit), (0x010C0002, .addi 3 0 2), (0x010C7FFF, .addi 3 3 0x1FFF), (0x42089800, .vadd 1 1 3),
    (0x00800000, .add 0 0 0), (0x19A0C000, .adq 8 6), (0x1598E560, .hdef 3 7 5 6), (0x16184000, .hadvC 3 2), (0x16183000, .hadvP 3 1),
    (0x16980700, .hrd 3 7), (0x14900001, .rde 4 1), (0x12940000, .csrr 5 0), (0x0E10A008, .lds 4 5 8), (0x060C0003, .beq 3 0 3),
    (0x0E900003, .chk 4 3), (0x0D10A008, .ldd 4 5 8), (0x0903FFFD, .jal 0 0x3FFFD), (0x10985FF0, .std 6 2 0x1FF0), (0x110CA608, .aadd 3 5 6 1),
    (0x110CA602, .acas 3 5 6 0), (0x1100A60F, .axor 0 5 6 1), (0x11E8A000, .ldq 6 2 5 0), (0x1224C040, .stq 2 1 6 64)] = true := by decide
theorem test_worked_words_2 : reads [
    (0xE080002C, .step 0 5 4), (0xE080022C, .step 1 5 4), (0xE080002A, .step 0 5 2), (0xE100001B, .bar 0 3 3), (0xE1000084, .bar 1 0 4),
    (0xE180000A, .fenceM 0x0A), (0xE180007F, .fenceM 0x7F), (0xE300A005, .latew 5 0x05), (0xE380C000, .budg 6), (0xE4801234, .mark 0x1234),
    (0x608C8400, .cgeo 3 4 4 0 0), (0x608C850A, .cgeo 3 4 5 1 2), (0x6100C702, .clay 6 7 2), (0x61A12A1A, .cgo 8 9 10 0 0 3 2),
    (0x64200030, .cfill 8 0 0 0 6 0), (0x62018D03, .csched 12 13 3), (0x628C0001, .cadv 3 1), (0x63800004, .cstop 4), (0x6314C701, .cpage 5 6 7 0 1),
    (0x1500A000, .fpush 5), (0xE280000D, .fpcw 1 1 1), (0xE280000B, .fpcw 1 0 3), (0xE40CA602, .bndset 3 5 6 2), (0x44090008, .vcvt 1 2 1 0),
    (0x44A10002, .vqbx 4 2 0 2), (0x44A1000E, .vqbx 4 2 1 6), (0x452A0002, .vdqbx 5 4 2), (0x45B38000, .vpack 6 7 0 0), (0x463B0004, .vunpk 7 6 1 0),
    (0x4C000000, .vamxr)] = true := by decide
theorem test_worked_words_3 : reads [
    (0x20806408, .mnest 3 4 1 0), (0x2100E801, .mnestc 7 8 1), (0x21A54000, .mbase 9 10 0), (0x22102003, .mgo 2 1 1 1), (0x22A12040, .mdrain 8 9 1 0 0),
    (0x2280C0C0, .mdrainAuto 6 1 0 0), (0x228120CE, .mdrainAuto 9 1 3 2), (0x23000000, .mclra), (0x2380A60A, .mldt 5 6 1 2), (0x2400A602, .mstt 5 6 0 2),
    (0x24A12A09, .mtrn 8 9 10 0 1 1), (0x24A12A29, .mtrn 8 9 10 1 1 1), (0x2500000B, .mact 1 3), (0x28940001, .mchkr 5 1), (0x29006400, .mdropkKey 3 4),
    (0x2900A601, .mdropkCtr 5 6), (0x2900E802, .mdropkThr 7 8), (0x2980A601, .mres 5 6 1), (0x25806401, .mtwc 3 4 1), (0x26040004, .mbfly 1 0 0 4),
    (0x26000102, .mbfly 0 0 1 2), (0x26882001, .mdrev 2 1 1), (0x2700A000, .mtexpSet 5 0), (0x2700C009, .mtexpAdd 6 1), (0x2700E010, .mtexpSt 7),
    (0x27806400, .mgvcfg 3 4), (0x2820291F, .mgvr 4 1 9 15 1), (0x4CA0AB03, .vgrpc 4 1 5 6 3)] = true := by decide
theorem test_worked_words_4 : reads [
    (0x408003FF, .vshape 31 31), (0x408000E7, .vshape 7 7), (0x41180005, .vldq 3 1 1), (0x41828015, .vstq 5 2 1 0 1), (0x42209002, .vmul 4 1 2),
    (0x42A09000, .viadd 4 1 2), (0x42AA8807, .vshr 5 5 1), (0x43091A00, .vfma 1 2 3 4), (0x43B28003, .vrsq 6 5), (0x43908007, .vsinp 2 1),
    (0x46B89002, .vcmp 7 1 2 0 2), (0x46B8900D, .vcmp 7 1 2 1 5), (0x47209380, .vsel 4 1 2 7 0), (0x47988000, .vredSumRow 3 1), (0x47988009, .vredMaxAll 3 1),
    (0x48218000, .vbcast 4 3 0), (0x4D080002, .viota 1 2), (0x4D989000, .vperm 3 1 2), (0x4E108000, .vtrn 2 1), (0x4888A600, .vxdef 2 5 6),
    (0x49290000, .vexpr 5 2), (0x49838801, .vdefer 7 1 1), (0x4A460001, .vdrain 8 12 1), (0x4A8CE000, .vdret 1 9 12), (0x4B100001, .vrng 2 1),
    (0x4B806400, .vrngkKey 3 4), (0x4B80A601, .vrngkCtr 5 6), (0x4B80A602, .vrngkAdd 5 6), (0x4BA40003, .vrngkSave 9)] = true := by decide
/-- Table 2-6: the all-ones word names an unassigned OP; fn 0x0E of OP 1 is unassigned; a reserved bit of EXIT is set. -/
theorem test_rejects : decodeTableWord 32 0xFFFFFFFF = some (.unassignedOpcode 0xFFFFFFFF) ∧ decodeTableWord 32 0x00946E1F = none ∧
    decodeTableWord 32 0xE2000001 = none := by decide

/-! ### Well-formed instructions: each check of WellFormed.lean refuses an ill-formed term -/

/-- Check 3: a selector above its last assigned value (Tables 2-8 to 2-15). -/
theorem test_selectors : [Instr.step 0 0 6, .bar 0 0 7, .vcvt 1 2 0 4, .vcvt 1 2 1 3, .vpack 1 2 0 3, .vpack 1 2 1 2, .vunpk 1 2 0 3, .vunpk 1 2 1 2,
    .vcmp 1 2 3 0 6, .vbcast 1 2 3, .viota 1 3, .mdrain 1 2 0 0 3, .mdrainAuto 1 0 0 3, .mtrn 1 2 3 0 3 0, .mbfly 1 0 0 5, .gtab 1 2 3 0 5 0,
    .cred 1 2 3 3 0 0, .cred 1 2 3 0 3 0, .crsc 1 2 3 3 0 0, .callg 1 2 3 3 0, .cbc 1 2 3 3 0].all (fun i => !i.selectorOk && !i.wf) = true := by decide
/-- Check 4: a field that the chosen form does not use (R219, R262). -/
theorem test_unused : [Instr.vstq 1 2 0 0 0, .mdrain 1 2 0 3 0, .mdrain 1 2 0 0 1, .mdrainAuto 1 0 3 0].all (fun i => !i.unusedZero && !i.wf) = true := by
  decide
/-- Check 5: an operand that names nothing the instruction can name. -/
theorem test_operands : [Instr.adq 1 2, .adq 0 2, .adq 2 1, .adq 2 0, .rde 1 0, .rde 1 7, .hdef 0 0 1 11, .ldq 7 0 1 0, .stq 7 0 1 0, .stq 0 2 1 0,
    .step 0 0 1, .bar 0 0 1, .mnest 1 2 0 6, .mnestc 1 2 7, .mdrain 0 2 0 8 1, .mdrainAuto 1 0 8 1, .mbfly 1 0 14 0, .vgrpc 1 2 1 3 0, .vgrpc 1 2 3 1 0,
    .vgrpc 1 2 3 3 0, .vdefer 1 15 1, .vdrain 15 1 1, .vdrain 3 4 1, .vdret 1 1 2, .vdret 1 2 1, .cgeo 1 2 3 6 0, .cgo 1 2 3 0 0 7 0, .cfill 1 2 3 0 7 0,
    .cadv 8 1, .cadv 0 0, .cadv 0 256, .cstop 0].all (fun i => !i.operandOk && !i.wf) = true := by decide

/-! ### Values from the manual's examples -/

/-- Table 1-1: MX12 stands at site 26, and its core 5 is core 0x1A5 (26 x 16 + 5). -/
theorem test_core_id : Config.siteType 26 = .mx ∧ (0x1A5 : CoreId).toNat / 16 = 26 ∧ (0x1A5 : CoreId).toNat % 16 = 5 := by decide
/-- Table 3-5: a gap of 200 is coded 0x88 0x03. -/
theorem test_gap_code : gapCode [0x88, 0x03] = some (200, 2) ∧ gapCode [0] = none := by decide
/-- R206: the block sum of the worked accumulator is 192, and its term is 0x3F10_0000. -/
theorem test_pass_term : blockSum [4, -2] [64, 32] = 192 ∧ passTerm 0x000000FF00008062 false (129, [4, -2]) (127, [64, 32]) = 0x3F100000 ∧
    fadd 0 0x3F800000 0x3F100000 = 0x3FC80000 := by decide
/-- Table 5-9: 1.0 + 2^24 rounds to 2^24; 3 + 2^24 rounds to 0x4B80_0002. -/
theorem test_sum_order : fadd 0 0x3F800000 0x4B800000 = 0x4B800000 ∧ fadd 0 0x40400000 0x4B800000 = 0x4B800002 := by decide
/-- Table 10-5: rev for the radices 3 and 4. -/
theorem test_rev : (List.range 12).map (revAt [3, 4]) = [0, 4, 8, 1, 5, 9, 2, 6, 10, 3, 7, 11] := by decide
/-- R232, Table 10-9: the sums of the worked transform, and its first output after a shift of 2. -/
theorem test_transform : let w : Twc := { radix := [4], n := 4, b := 1, inv := false }
    let x (e : Nat) : Elem := if e = 3 then 0x6002 else 0x6000
    (List.range 4).map (fun o => w.sums 0 x o) = [(98306 * 2 ^ 22, 0), (0, 2 * 2 ^ 22), (-2 * 2 ^ 22, 0), (0, -2 * 2 ^ 22)] ∧
    scaleQ 2 (98306 * 2 ^ 22) = 0x6000 := by decide +kernel
/-- Table 12-9: splice of the zero key and the zero counter. -/
theorem test_splice : splice (Vector.replicate 4 0) 0 = (0xFE9AEAEB, 0xE4A3CE99, 0xDC2EB2D7, 0xA718C8AE) := by decide
/-- R283: the uniform draw of that word. -/
theorem test_uniform : roundRat 0 false 0xFE9AEA 1 (-24) = 0x3F7E9AEA := by decide
/-- Table 8-12: 9.5 above a bound, at element 37 of bound 1. -/
theorem test_bound_detail : boundEval 0x41180000 37 1 = 0x0001002541180000 := by decide
/-- R247: the two rows of the worked grouped values, as FP32 under FA = 128. -/
theorem test_grouped_floats : intToF32 0 101 = 0x42CA0000 ∧ roundRat 0 false (101 * 384) 1 (-8) = 0x43178000 := by decide

/-! ### Steps of one instruction -/

/-- A core of a context that runs. -/
def coreOn (k : CoreId) : Core := { State.reset.core with id := k, ctx := 1, live := true, spr := { State.reset.core.spr with level := 15 } }
/-- A package whose one core runs, at power level 15. -/
def pack (k : CoreId) : State := { State.reset with core := coreOn k, ctxs := [oneCore k] }
/-- Packages of one MX, VX, GX, CL core. -/
def mx : State := pack 16
def vx : State := pack 192
def gx : State := pack 64
def cl : State := pack 320
/-- A package with a register set. -/
def withReg (s : State) (r : Nat) (v : Dword) : State :=
  s.mapCore fun c => { c with ctl := { c.ctl with g := c.ctl.g.setIfInBounds r v } }
/-- The outcome of an instruction, seen through a function of the next state. -/
def after {α : Type} (i : Instr) (s : State) (f : State → α) : Option α :=
  match exec i s with
  | .next t => some (f t)
  | _ => none
/-- The outcome of a step, seen through a function of the next state. -/
def afterStep {α : Type} (s : State) (f : State → α) : Option α :=
  match step s with
  | .next t => some (f t)
  | _ => none

/-- The worked ADQ of R88: the carry out of the low word enters the high word. -/
theorem test_adq : after (.adq 8 6) (withReg (withReg (withReg mx 8 0xFFFFFFFFFFFFFFF0) 9 2) 6 0x20) (fun t => (t.core.g 8, t.core.g 9)) =
    some (0x10, 3) := by decide
/-- The two words of chapter 0 that build 0x0012_3456. -/
theorem test_lui_ori : after (.lui 5 0x91) mx (fun t => t.core.g 5) = some 0x122000 ∧
    after (.ori 5 5 0x1456) (withReg mx 5 0x122000) (fun t => t.core.g 5) = some 0x123456 := by decide
/-- R79, Table 4-4: signed division truncates toward zero; the most negative number by -1 stays. -/
theorem test_div : after (.div 3 1 4) (withReg (withReg mx 1 (-7)) 4 2) (fun t => t.core.g 3) = some (-3) ∧
    after (.div 3 1 4) (withReg (withReg mx 1 0x8000000000000000) 4 (-1)) (fun t => t.core.g 3) = some 0x8000000000000000 := by decide
/-- R30, R76: a write to g0 is discarded. -/
theorem test_g0 : after (.addi 0 0 5) mx (fun t => (t.core.g 0, (t.core.engOf 0).pc)) = some (0, 1) := by decide
/-- R44, R313: ILL enters the supervisor's handler with cause 0x01 and the word in EVAL. -/
theorem test_ill : after (.ill 0) mx (fun t => (t.core.trap.cause, t.core.trap.eval, t.core.trap.tl, t.core.trap.mode, (t.core.engOf 0).pc)) =
    some (1, 0, true, true, 63488) := by decide
/-- R130, Table 6-3: the worked deviation: scheduled at 1,000 with W = 16, waiting for handle fill (code 0x01). -/
theorem test_deviation : after .deviationTrap (mx.mapCore fun c => { c.modEng 1 (fun x => { x with started := true, sched := 999, wait := 1 }) with
      now := 1017, turn := 1 }) (fun t => ((t.core.engOf 1).stop.map fun x => (x.cause, x.eval))) = some (some (0x0A, 0x00010000000003E8)) := by decide
/-- R31: a word of CTL that stands at its pc is decoded, runs, and CTL goes on. -/
theorem test_step : afterStep (State.reset.withFetchWord 32 0x010C0002) (fun t => (t.core.g 3, (t.core.engOf 0).pc, t.core.turn)) = some (2, 1, 1) := by
  decide
/-- R38, R45: a word with a reserved bit set is an illegal instruction with reason 2 of its engine. -/
theorem test_step_illegal : afterStep (State.reset.withFetchWord 32 0x010C0002) (fun t => t.core.trap.tl) = some false ∧
    afterStep (State.reset.withFetchWord 32 0xE2000001) (fun t => (t.core.trap.cause, t.core.trap.eval)) = some (1, 0x72E2000001) := by decide
/-- R121, R140: a store in local scratch performs with its bytes lowest first, and a load brings them back. -/
theorem test_store_bytes : let s := mx.doLocal { due := 0, eng := 0, pos := 0, eff := .ctl (.store 4 0x11223344) false 0x100 0x100 }
    (List.range 5).map (fun k => s.byteOf .scratch (0x100 + k)) = [0x44, 0x33, 0x22, 0x11, 0] ∧ s.core.scratch.readNat 0x100 4 = 0x11223344 := by decide
/-- R96: two commits into a ring of two slots fill it, and a third is refused. -/
theorem test_ring : let c := (coreOn 16).applyEoc (.hdef 2 0x1000 0 1)
    let d := (c.applyEoc (.commit 0 2 1)).applyEoc (.commit 0 2 1)
    (d.hnd 2).fill = 2 ∧ (d.hnd 2).pidx = 0 ∧ ((d.applyEoc (.commit 0 2 1)).trap.pend.map PendCause.cause) = [0x14] := by decide
/-- R265, R255: VADD on the elements of an 1 by 2 shape: 1.0 + 2.0, and the third element stands. -/
theorem test_vadd : after (.vadd 3 1 2) (vx.mapCore fun c => { c with vec := {
      c.vec with rows := 1, cols := 2, v := [(1024, 0x3F800000), (2048, 0x40000000)] } })
    (fun t => (t.core.vec.el 3 0, t.core.vec.el 3 1, t.core.vec.el 3 2)) = some (0x40400000, 0, 0) := by decide

/-! ### Witnesses: states and operands that meet the hypotheses of the statements -/

theorem mx_log (d : GReg) : logFits mx d := .inr (.inr (by decide))
theorem marked_log (d : GReg) : logFits (mx.mapCore fun c => { c with ctl := { c.ctl with df := 0x20 } }) d := .inr (.inr (by decide))
/-- A package with a register marked. -/
def withMark (s : State) (r : Nat) : State := s.mapCore fun c => { c with ctl := { c.ctl with df := BitVec.ofNat 32 (2 ^ r) } }
/-- A package with a step made to its trap registers. -/
def withTrap (s : State) (f : TrapUnit → TrapUnit) : State := s.mapCore fun c => { c with trap := f c.trap }

/-- AluRegisterForms, ImmediateForms, LuiValue, DividersCountsPairs: any destination, g0 among them. -/
theorem witness_alu : mx.core.has 0 = true ∧ logFits mx 5 ∧ logFits mx 0 := ⟨by decide, mx_log 5, mx_log 0⟩
/-- DividersCountsPairs: the pairs g2 and g30. -/
theorem witness_adq : mx.core.has 0 = true ∧ (30 : GReg).toNat % 2 = 0 ∧ (30 : GReg) ≠ 0 ∧ (2 : GReg).toNat % 2 = 0 ∧ (2 : GReg) ≠ 0 ∧
    mx.core.logRoom 2 = true := by decide
/-- JalLinks: a jump back to the word itself, and a supervisor's jump into the bank. -/
theorem witness_jal : mx.core.has 0 = true ∧ logFits mx 31 ∧ mx.core.steerRoom = true ∧
    ((mx.core.engOf 0).pc + BitVec.ofInt 16 (0 : BitVec 18).toInt).toNat < 63488 ∧
    (withTrap mx fun u => { u with mode := true }).core.trap.mode = true := ⟨by decide, mx_log 31, by decide⟩
/-- BranchesAndJalr: a branch that is taken and one that is not, a computed jump inside text, one outside it. -/
theorem witness_branches : mx.core.has 0 = true ∧ mx.core.df 3 = false ∧ mx.core.steerRoom = true ∧ mx.core.trap.tl = false ∧ logFits mx 1 ∧
    mx.core.g 3 = 0 ∧ ((mx.core.engOf 0).pc + BitVec.ofInt 16 (5 : BitVec 13).toInt).toNat < 63488 ∧
    (0 ≤ (mx.core.g 3).toInt + (0 : BitVec 13).toInt ∧ (mx.core.g 3).toInt + (0 : BitVec 13).toInt ≤ 65535 ∧
      (mx.core.g 3).toInt + (0 : BitVec 13).toInt < 63488) ∧
    (mx.core.g 3).toInt + (-1 : BitVec 13).toInt < 0 ∧
    65535 < ((withReg mx 4 0x10000).core.g 4).toInt + (0 : BitVec 13).toInt :=
  ⟨by decide, by decide, by decide, by decide, mx_log 1, by decide⟩
/-- BranchesAndJalr: user code whose branches, JAL and JALR would enter the firmware bank at its first word. -/
theorem witness_bank : let s := (withReg mx 4 63488).mapCore fun c => c.modEng 0 fun x => { x with pc := 63487 }
    s.core.has 0 = true ∧ s.core.df 0 = false ∧ s.core.df 4 = false ∧ s.core.trap.tl = false ∧ s.core.trap.mode = false ∧
    ((s.core.engOf 0).pc + BitVec.ofInt 16 (1 : BitVec 13).toInt).toNat = 63488 ∧
    ((s.core.engOf 0).pc + BitVec.ofInt 16 (1 : BitVec 18).toInt).toNat = 63488 ∧ (s.core.g 4).toInt + (0 : BitVec 13).toInt = 63488 ∧
    s.core.g 0 ≠ s.core.g 4 ∧ (s.core.g 0).toInt < (s.core.g 4).toInt ∧ (s.core.g 0).toNat < (s.core.g 4).toNat := by decide
/-- ChkBranches: a marked register and an unmarked one, and a target that is the first word of the firmware bank. -/
theorem witness_chk : (let s := (withMark mx 5).mapCore fun c => c.modEng 0 fun x => { x with pc := 63487 }
      s.core.has 0 = true ∧ s.core.df 5 = true ∧ s.core.trap.mode = false ∧ s.core.trap.tl = false ∧
      63488 ≤ ((s.core.engOf 0).pc + BitVec.ofInt 16 (1 : BitVec 13).toInt).toNat) ∧
    (withMark mx 5).core.has 0 = true ∧ (withMark mx 5).core.steerRoom = true ∧ (withMark mx 5).core.df 5 = true ∧
    (((withMark mx 5).core.engOf 0).pc + BitVec.ofInt 16 (3 : BitVec 13).toInt).toNat < 63488 ∧ (withMark mx 5).core.df 0 = false := by decide
/-- IllegalWordsTrap: words of CTL and of MTX on an MX core, and an ALL word with a reserved opcode. -/
theorem witness_illegal : mx.core.has 0 = true ∧ mx.core.trap.tl = false ∧ engField 0x1F800000 = 0 ∧ 1 ≤ (engField 0x3F800000).toNat ∧
    (engField 0x3F800000).toNat ≤ 6 ∧ mx.core.has (engField 0x3F800000).toNat = true ∧ engField 0xFF800000 = 7 ∧ mx.core.turn = 0 := by decide
/-- IllegalWordsTrap: CTL and MTX each before a word with an unassigned selector and one with a reserved bit set, CTL before a word of
VEC, which an MX core does not have; held by a WEV and not. -/
theorem witness_refused_words : let at_ (w : Nat) : State := State.reset.withFetchWord 32 w
    let far : State := (at_ 0x010C0002).mapCore fun c => { c with text := Store.set 0 c.text 0 0x42089800 }
    (∀ s ∈ [at_ 0x00946E1F, at_ 0x00AAC118, far], standsAt s 0 ∧ mayAct s 0 ∧ s.poison = [] ∧ s.core.trap.tl = false ∧ s.core.schedOf 0 ≤ s.core.now) ∧
    (∀ s ∈ [at_ 0x24AACD3D, at_ 0x2500001D], standsAt s 1 ∧ mayAct s 1 ∧ s.poison = [] ∧ s.core.schedOf 1 ≤ s.core.now) ∧
    decode (wordAt (at_ 0x00946E1F) 0) = .error .badSelector ∧ decode (wordAt (at_ 0x00AAC118) 0) = .error .reservedNonzero ∧
    (engField (wordAt (at_ 0x00946E1F) 0)).toNat = 0 ∧ (engField (wordAt (at_ 0x00AAC118) 0)).toNat = 0 ∧
    decode (wordAt (at_ 0x24AACD3D) 1) = .error .badSelector ∧ decode (wordAt (at_ 0x2500001D) 1) = .error .reservedNonzero ∧
    (engField (wordAt (at_ 0x24AACD3D) 1)).toNat = 1 ∧ (engField (wordAt (at_ 0x2500001D) 1)).toNat = 1 ∧
    (engField (wordAt far 0)).toNat = 2 ∧ far.core.has 2 = false ∧
    (∀ s ∈ [at_ 0x00946E1F, far], s.core.ctl.wev = none ∧ (s.core.engOf 0).held = false ∧
      ((s.mapCore fun c => c.modEng 0 fun x => { x with held := true }).core.engOf 0).held = true) :=
  ⟨by unfold standsAt mayAct; decide, by unfold standsAt mayAct; decide, rfl, rfl, by decide, by decide, rfl, rfl, by decide, by decide, by decide, by decide, by decide⟩
/-- IllegalWordsTrap: SRET outside a handler in both modes, LSLOT and a page move in user mode. -/
theorem witness_privileged : let sup := withTrap mx fun u => { u with mode := true }
    mx.core.has 0 = true ∧ mx.core.trap.tl = false ∧ mx.core.trap.mode = false ∧ sup.core.trap.tl = false ∧ sup.core.trap.mode = true ∧
    mx.core.has 4 = true ∧ mx.core.has 3 = true ∧ (Instr.cpage 5 6 7 1 0).unusedZero = true ∧ (Instr.cpage 5 6 7 1 0).operandOk = true := by decide
/-- MarkedRegisterTraps: the marked register in each place that a word has for one. -/
theorem witness_marked : let s := withTrap (withMark mx 5) fun u => { u with mode := true }
    s.core.df 5 = true ∧ s.core.trap.tl = false ∧
    ∀ i ∈ [Instr.beq 5 1 0, .bgen 1 5 0, .jalr 1 5 0, .ldd 1 5 0, .ldo 1 5 0, .stb 5 1 0, .std 1 5 0, .aadd 1 5 2 0, .axor 1 2 5 1, .acas 5 1 2 1,
      .ldq 6 3 5 0, .stq 6 1 5 0, .csrw 5 0x11, .csrs 1 5 0x11, .csrc 1 5 0x11, .fpush 5, .hdef 7 63 5 10, .pacq 5 0, .wev 1 5 0, .wev 5 1 0],
      decodeFault s i = none ∨ i = .ldq 6 3 5 0 ∨ i = .stq 6 1 5 0 := by decide
theorem witness_marked_queues : let s := withMark vx 5
    s.core.df 5 = true ∧ decodeFault s (.ldq 6 3 5 0) = none ∧ decodeFault s (.stq 6 1 5 0) = none := by decide
/-- MarkedRegisterTraps: the words of the other engines, each on a die that has its engine and past the waits that come first. -/
theorem witness_marked_mtx : let s := withMark mx 5
    s.core.rdDf 1 5 = true ∧ s.core.rdDf 3 5 = true ∧ s.core.rdDf 4 5 = true ∧ (s.core.ch 3).state ≠ .busy ∧
    ∀ i ∈ [Instr.mnest 5 1 1 5, .mnestc 1 5 5, .mbase 1 2 5, .mdropkKey 5 1, .mdropkCtr 1 5, .mdropkThr 5 1, .mres 5 1 0, .mdrainAuto 5 1 1 2,
      .mdrain 5 1 1 0 0, .mldt 5 1 1 7, .mstt 1 5 1 7, .mtrn 1 5 2 1 2 7, .mtwc 5 1 1, .mgvcfg 1 5, .mtexpSet 5 7, .mtexpAdd 5 7, .mtexpSt 5, .mchkr 5 1,
      .mgvr 2 1 5 63 1, .cgeo 1 2 5 5 3, .clay 1 5 3, .cgo 1 5 2 0 0 3 3, .cfill 1 5 2 0 3 3, .csched 5 1 3, .cpage 5 1 2 0 3, .lput 5 1 2, .lget 1 5 2,
      .lsig 1 5, .laadd 5 1 2 1, .lacas 1 5 2 0, .laxor 1 2 5 1, .lwsig 5 1 0, .lpush 2 1 5 1], decodeFault s i = none := by decide
theorem witness_marked_others : (∀ i ∈ [Instr.vxdef 1 5 6, .vrngkKey 5 1, .vrngkCtr 1 5, .vrngkAdd 5 1], decodeFault (withMark vx 5) i = none) ∧ (withMark vx 5).core.rdDf 2 5 = true ∧
    (∀ i ∈ [Instr.lslot 5, .lslotRel 5], decodeFault (withMark (withTrap mx fun u => { u with mode := true }) 5) i = none) ∧
    (∀ i ∈ [Instr.gtab 5 1 2 1 3 2, .gthr 2 1 5, .gsum 2 1 5], decodeFault (withMark gx 5) i = none) ∧ (withMark gx 5).core.rdDf 5 5 = true ∧
    (∀ i ∈ [Instr.cgrp 5 1 2, .cred 5 1 2 2 2 3, .crsc 1 5 2 1 1 3, .callg 1 2 5 2 3, .cbc 5 1 2 2 3], decodeFault (withMark cl 5) i = none) ∧
    (withMark cl 5).core.rdDf 6 5 = true ∧ (withMark cl 5).groupBusy 2 = false ∧ (withMark cl 5).core.colls.length < 4 := by decide
/-- MarkedRegisterTraps: LATEW in an engine that it names, BUDG in CTL, BNDSET in MTX and in CTL. -/
theorem witness_marked_all : let s := withMark mx 5
    let m := s.mapCore fun c => { c with turn := 1 }
    s.core.turn.toNat = 0 ∧ s.core.trap.tl = false ∧ s.core.rdDf 0 5 = true ∧ m.core.turn.toNat = 1 ∧ m.core.rdDf 1 5 = true ∧
    (2 : BitVec 7).getLsbD 1 = true ∧ ∀ i ∈ [Instr.latew 5 2, .budg 5, .bndset 7 5 1 3], decodeFault s i = none ∧ decodeFault m i = none := by decide
/-- A core with a ring of two slots of 64 bytes at h2, one of them filled. -/
def ringed (s : State) : State := s.mapCore fun c => c.setHnd 2 { defined := true, base := 0x1000, lsz := 0, cntm1 := 1, fill := 1, pidx := 1, cidx := 0 }
/-- RingChanges: a release within the fill and beyond it, a commit within the room and beyond it, an arrival, and arrivals that find a
full ring, no ring, and too small a slot; a slot that the bytes already stand in. MarkedRegisterTraps: a ring that LPUSH finds filled. -/
theorem witness_rings : let x := (ringed mx).core.hnd 2
    (ringed mx).core.handleFault 2 (1 : BitVec 6).toNat = none ∧
    1 ≤ x.fill ∧ x.fill < 2 ∧ 1 ≤ x.free ∧ x.free < 2 ∧ x.defined = true ∧ ([0, 0] : List Byte).length ≤ x.slot ∧
    ({ x with fill := 2 } : Handle).free = 0 ∧ (mx.core.hnd 3).defined = false ∧ x.slot < (List.replicate 65 (0 : Byte)).length ∧
    x.slotAt x.pidx = 0x1040 := by decide
/-- R290, R140: a push that lands stands in its slot in that cycle, and raises FILL at its end; a late overrun gives the bytes back. -/
theorem test_push_arrives : let o : LocalOp := { due := 0, eng := 4, pos := 0, eff := .arrive 17 2 [7, 8] }
    let t := (ringed mx).doLocal o
    let late := (t.core.applyEoc (.commit 0 2 1)).applyEoc (t.core.eoc.getD 0 .fqPop)
    (t.byteOf .scratch 0x1041, (t.core.hnd 2).fill, (t.core.applyEoc (t.core.eoc.getD 0 .fqPop)).scratch.byte 0x1041,
      ((t.core.applyEoc (t.core.eoc.getD 0 .fqPop)).hnd 2).fill, late.scratch.byte 0x1041) = (8, 1, 8, 2, 0) := by decide
/-- HandleWords: w at the fill and at the room, an undefined handle, w above the count; a ring that ends at the end of scratch, a misaligned
one, one that runs over. -/
theorem witness_handles : (ringed mx).core.has 0 = true ∧ ((ringed mx).core.hnd 2).defined = true ∧ (1 : BitVec 6).toNat ≤ ((ringed mx).core.hnd 2).count ∧
    (1 : BitVec 6).toNat ≤ ((ringed mx).core.hnd 2).fill ∧ (1 : BitVec 6).toNat ≤ ((ringed mx).core.hnd 2).free ∧ mx.core.trap.tl = false ∧
    (mx.core.hnd 3).defined = false ∧ ((ringed mx).core.hnd 2).count < (3 : BitVec 6).toNat ∧
    (let v := (withReg mx 5 (0x400000 - 128)).core.g 5;
      v.toNat % 64 = 0 ∧ v.toNat + 64 * 2 ≤ mx.core.size ∧ mx.core.size < v.toNat + 64 * 3) ∧ (withReg mx 5 1).core.g 5 ≠ 0 ∧
    (withReg mx 5 1).core.df 5 = false ∧ ((withReg mx 5 1).core.g 5).toNat % 64 ≠ 0 ∧ (10 : BitVec 4).toNat ≤ 10 := by decide
/-- StatusReads: a handle that is defined and one that is not; MTX when it has passed CTL's word. -/
theorem witness_status_reads : let s := (ringed mx).mapCore fun c => c.modEng 1 fun x => { x with pos := 1 }
    s.core.has 0 = true ∧ logFits s 3 ∧ (s.core.hnd 2).defined = true ∧ (s.core.hnd 2).fill ≤ (s.core.hnd 2).count ∧
    (s.core.hnd 2).pidx < (s.core.hnd 2).count ∧ (s.core.hnd 2).cidx < (s.core.hnd 2).count ∧ (s.core.hnd 3).defined = false ∧
    s.core.has (1 : BitVec 3).toNat = true ∧ s.core.hasPassed (1 : BitVec 3).toNat (s.core.engOf 0).pos = true :=
  ⟨by decide, .inr (.inr (by decide)), by decide⟩
/-- AccessChecks: the last doubleword of scratch, an odd address, and the first doubleword past the end. -/
theorem witness_scratch_checks : (Acc.load ≠ .own) ∧ 0 < 8 ∧
    ((0x3FFFF8 : Dword).toNat % 8 = 0 ∧ (0x3FFFF8 : Dword).toNat + 8 ≤ mx.core.size ∧ (0x3FFFF8 : Dword).toNat < 2 ^ 24 ∧ mx.core.redirects 0x3FFFF8 = false) ∧
    (∀ x, mx.ctx = some x → x.planeAt mx.core.site 0x3FFFF8 = none) ∧ (0x11 : Dword).toNat % 8 ≠ 0 ∧
    ((0x400000 : Dword).toNat % 8 = 0 ∧ mx.core.size < (0x400000 : Dword).toNat + 8 ∧ (0x400000 : Dword).toNat < 2 ^ 24 ∧ mx.core.redirects 0x400000 = false) := by
  refine ⟨by decide, by decide, by decide, ?_, by decide, by decide⟩
  intro x h
  have e : mx.ctx = some (oneCore 16) := by decide
  rw [e] at h; cases h; decide
/-- A context with a translated region of stage memory, a share of die-shared scratch, and a planed range there. -/
def rich (k : CoreId) : Context := { oneCore k with
  trans := [{ vbase := 0x0001000000000000, target := 0, lsz := 21, cls := 0, home := 0, perm := 3 }]
  planes := [{ vbase := 0x100000000, units := 1, group := 5, wide := true, collide := 1, clear := false, shared := true }]
  shares := [(k.toNat / 16, 0x20000)]
  groups := [{ id := 5, scope := 2, members := [k] }] }
/-- A package whose one core has the regions of `rich`. -/
def withRegions (s : State) : State := { s with ctxs := [rich s.core.id] }
/-- Accesses to scratch, to stage memory, and to a planed element of a FAULT region. -/
def acc8 : Access := { place := .scratch 0x100, addr := 0x100, plane := none }
def accStage : Access := { place := .stage 0 0x40, addr := 0x0001000000000040, plane := none }
def accPlane : Access := { place := .shared (sharedKey 1 1 8), addr := 0x100000008, plane := (rich 16).planes.head? }
def loads : State := withRegions (withReg (withReg (withReg mx 5 0x100) 6 0x0001000000000040) 7 0x100000008)
theorem free8 (n : Nat) : accessFree loads acc8 n := fun _ => rfl
theorem freeStage (n : Nat) : accessFree loads accStage n := fun _ => rfl
theorem freePlane (n : Nat) : accessFree loads accPlane n := fun _ => rfl
theorem loads_log (d : GReg) : logFits loads d := .inr (.inr (by decide))
/-- LoadsIssueOrTrap: loads of scratch and of stage memory, an LDO of a planed element, a misaligned load and a misaligned LDO. -/
theorem witness_loads : loads.core.has 0 = true ∧ loads.core.df 5 = false ∧ logFits loads 3 ∧
    loads.checkAccess loads.core .load 8 (loads.core.g 5 + (0 : BitVec 13).signExtend 64) = .ok acc8 ∧ accessFree loads acc8 8 ∧
    loads.checkAccess loads.core .load 4 (loads.core.g 6 + (0 : BitVec 13).signExtend 64) = .ok accStage ∧ accessFree loads accStage 4 ∧
    loads.checkAccess loads.core .own (loads.ownSize loads.core (loads.core.g 7).toNat) (loads.core.g 7 + (0 : BitVec 13).signExtend 64) = .ok accPlane ∧
    accessFree loads accPlane 8 ∧ loads.checkAccess loads.core .load 8 (loads.core.g 5 + (1 : BitVec 13).signExtend 64) = .error (4, 0x101) ∧
    loads.checkAccess loads.core .own (loads.ownSize loads.core 0x101) (loads.core.g 5 + (1 : BitVec 13).signExtend 64) = .error (4, 0x101) ∧
    loads.core.trap.tl = false :=
  ⟨by decide, by decide, loads_log 3, rfl, free8 8, rfl, freeStage 4, rfl, freePlane 8, rfl, rfl, by decide⟩
/-- LoadsIssueOrTrap, LDO outside planed ranges: a misaligned address, translated space outside every entry, local scratch. -/
theorem witness_own_faults : loads.ctx = some (rich 16) ∧ loads.core.trap.tl = false ∧
    (∀ y ∈ [0x101, 0x0001000000200000, 0x100], (rich 16).planeAt loads.core.site y = none ∧ loads.core.redirects y = false) ∧
    (0x101 : Nat) % 4 ≠ 0 ∧ isTranslated 0x0001000000200000 = true ∧ (rich 16).entryAt 0x0001000000200000 = none ∧ 0x100 + 4 ≤ loads.core.size := by
  decide
/-- LoadsIssueOrTrap, LDS: a marked base, a failing address, and an access that is not deferred. -/
theorem witness_lds : (withMark loads 5).core.df 5 = true ∧ loads.checkAccess loads.core .load 8 (loads.core.g 5 + (1 : BitVec 13).signExtend 64) = .error (4, 0x101) ∧
    ¬ (loads.core.df 5 = true ∨ (∃ f, loads.checkAccess loads.core .load 8 (loads.core.g 5 + (0 : BitVec 13).signExtend 64) = .error f) ∨
      ∃ x p r, loads.checkAccess loads.core .load 8 (loads.core.g 5 + (0 : BitVec 13).signExtend 64) = .ok x ∧ x.place = .pod p r) := by
  have e : loads.checkAccess loads.core .load 8 (loads.core.g 5 + (0 : BitVec 13).signExtend 64) = .ok acc8 := rfl
  refine ⟨by decide, rfl, ?_⟩
  rintro (h | ⟨f, h⟩ | ⟨x, p, r, h, hp⟩)
  · exact absurd h (by decide)
  · rw [e] at h; cases h
  · rw [e] at h; cases h; cases hp
/-- StoresIssue: a plain store, a store to a FAULT region before its claim, with the claim on its way, granted and refused, a misaligned
store. -/
theorem witness_stores : let s (r : Option Bool) : State := loads.mapCore fun c => { c with ctl := { c.ctl with claim := some (0, r) } }
    loads.core.has 0 = true ∧ loads.core.df 5 = false ∧ loads.core.df 3 = false ∧
    loads.checkAccess loads.core .store 8 (loads.core.g 5 + (0 : BitVec 13).signExtend 64) = .ok acc8 ∧ acc8.claims = false ∧ accessFree loads acc8 8 ∧
    loads.checkAccess loads.core .store 8 (loads.core.g 7 + (0 : BitVec 13).signExtend 64) = .ok accPlane ∧ accPlane.claims = true ∧
    loads.core.ctl.claim = none ∧ accessFree loads accPlane 8 ∧
    (s none).checkAccess (s none).core .store 8 ((s none).core.g 7 + (0 : BitVec 13).signExtend 64) = .ok accPlane ∧ (s none).core.ctl.claim = some (0, none) ∧
    (s (some true)).checkAccess (s (some true)).core .store 8 ((s (some true)).core.g 7 + (0 : BitVec 13).signExtend 64) = .ok accPlane ∧
    (s (some true)).core.ctl.claim = some (0, some true) ∧ (s (some false)).core.ctl.claim = some (0, some false) ∧ (s (some false)).core.trap.tl = false ∧
    loads.checkAccess loads.core .store 8 (loads.core.g 5 + (4 : BitVec 13).signExtend 64) = .error (4, 0x104) :=
  ⟨by decide, by decide, by decide, rfl, rfl, free8 8, rfl, rfl, rfl, freePlane 8, rfl, rfl, rfl, rfl, rfl, rfl, rfl⟩
/-- AtomicsIssue: an atomic on scratch, one on stage memory, and one at a misaligned address. -/
theorem witness_atomics : loads.core.has 0 = true ∧ loads.core.df 5 = false ∧ loads.core.df 3 = false ∧ logFits loads 3 ∧
    loads.checkAccess loads.core .amo 8 (loads.core.g 5) = .ok acc8 ∧ accessFree loads acc8 8 ∧
    loads.checkAccess loads.core .amo 4 (loads.core.g 6) = .ok accStage ∧ accessFree loads accStage 4 ∧
    (withReg loads 5 0x104).checkAccess (withReg loads 5 0x104).core .amo 8 ((withReg loads 5 0x104).core.g 5) = .error (4, 0x104) ∧
    (withReg loads 5 0x104).core.trap.tl = false :=
  ⟨by decide, by decide, by decide, loads_log 3, rfl, free8 8, rfl, freeStage 4, rfl, rfl⟩
/-- ScratchAccessPerforms: a register that waits for the load with tag 0, and no longer for the one with tag 1. -/
theorem witness_performs : let s := mx.mapCore fun c => { c with ctl := { c.ctl with pend := [(3, 0)] } }
    (∀ x, s.ctx = some x → x.planeAt s.core.site (0x100 : Dword).toNat = none) ∧ ((3 : GReg), 0) ∈ s.core.ctl.pend ∧ ((3 : GReg), 1) ∉ s.core.ctl.pend ∧
    (3 : GReg) ≠ 0 ∧ 8 ∈ [1, 2, 4, 8] := by
  refine ⟨?_, by decide, by decide, by decide, by decide⟩
  intro x h
  have e : (mx.mapCore fun c => { c with ctl := { c.ctl with pend := [(3, 0)] } }).ctx = some (oneCore 16) := rfl
  rw [e] at h; cases h; rfl
/-- QueueTransfersIssue: a load of a block that ends with scratch, and a store of as many bytes as the queue holds. -/
theorem witness_queues : let s := (withReg vx 5 (0x200000 - 64)).mapCore fun c => { c with vec := { c.vec with sq := c.vec.sq.set 1 (List.replicate 64 7) } }
    s.core.has 0 = true ∧ s.core.has 2 = true ∧ s.core.df 5 = false ∧ (0 : BitVec 3) ≠ 7 ∧ (s.core.g 5 + (0 : BitVec 13).signExtend 64).toNat % 64 = 0 ∧
    (s.core.g 5 + (0 : BitVec 13).signExtend 64).toNat + 64 ≤ s.core.size ∧
    s.core.underCopy (s.core.g 5 + (0 : BitVec 13).signExtend 64).toNat 64 = false ∧ s.core.lqHeld 3 + 64 ≤ 8192 ∧ (1 : BitVec 2).toNat < 2 ∧
    64 ≤ (s.core.vec.sq.getD 1 []).length := by decide
/-- CsrWords: a read of CYC, supervisor writes of BUDGET, a user's write of DFMASK, of a register that only a supervisor writes, of a
read-only one. -/
theorem witness_csr : let s := withTrap mx fun u => { u with mode := true }
    mx.core.has 0 = true ∧ tscrBusy mx 0x10 = false ∧ csrFault mx.core 0 false = none ∧ csrWaits 0 = none ∧ csrFault s.core 0x11 true = none ∧
    csrFault mx.core 0x53 true = none ∧ csrFault mx.core 0x53 ((3 : GReg) != 0) = none ∧ csrFault s.core 0x11 ((0 : GReg) != 0) = none ∧ mx.core.df 3 = false ∧
    logFits mx 4 ∧ csrReadOnly 0x28 = true ∧ mx.core.trap.tl = false ∧ mx.core.trap.mode = false ∧
    0x41 ∈ [0x10, 0x11, 0x12, 0x41, 0x42, 0x50, 0x51, 0x52, 0x60, 0x61, 0x62, 0x72] :=
  ⟨by decide, by decide, by decide, by decide, by decide, by decide, by decide, by decide, by decide, mx_log 4, by decide⟩
/-- CsrWritesTakeEffect: EPC6, the last that a core can have, and CYC, which no clause before the last names. -/
theorem witness_csr_effects : (6 < 7) ∧ (0x48 + 6 = 0x4E) ∧
    (0 : BitVec 13).toNat ∉ [0x41, 0x42, 0x48, 0x49, 0x4A, 0x4B, 0x4C, 0x4D, 0x4E, 0x50, 0x51, 0x52, 0x60, 0x61, 0x62, 0x72] := by decide
/-- TrapWords: with and without FIDARM, in a context that runs. -/
theorem witness_trap_words : let s := withTrap mx fun u => { u with fidarm := true }
    mx.core.has 0 = true ∧ mx.core.trap.tl = false ∧ mx.core.trap.fidarm = false ∧ s.core.trap.fidarm = true ∧ s.ctxOf s.core.ctx = some (oneCore 16) := by decide
/-- PendingCausesTaken: nothing due; an asynchronous cause due; MTX stopped earlier. -/
theorem witness_causes : let a := mx.mapCore fun c => { c with now := 1, trap := { c.trap with pend := [{ cause := 0x14, eng := 4, eval := 5, cycle := 0 }] } }
    let b := mx.mapCore fun c => { c.modEng 1 (fun x => { x with stop := some {
      cause := 4, eng := 1, eval := 6, pc := 0, cycle := 0, taken := false, waits := false } }) with now := 1 }
    mx.core.trapDue = false ∧ mx.core.stopDue = none ∧ mx.core.asyncDue = none ∧ a.core.trapDue = true ∧ a.core.chooseCause.isSome = true ∧
    a.core.stopDue = none ∧ a.core.asyncDue.isSome = true ∧
    b.core.trapDue = true ∧ b.core.chooseCause.isSome = true ∧ (b.core.stopDue.map Prod.fst) = some 1 := by decide
/-- SretReturns: a handler entered from word 7, with MTX stopped there too. -/
theorem witness_sret : let s := mx.mapCore fun c => { c with trap := { c.trap with
      tl := true, mode := true, stopPc := 7, stopped := 3, epc := (c.trap.epc.set 0 8).set 1 7 } }
    s.core.has 0 = true ∧ s.core.trap.tl = true ∧ s.core.stopDue = none ∧ s.core.asyncDue = none ∧ sretOk s.core = true ∧
    (s.core.trap.epc.getD 0 0).toNat < 63488 := by decide
/-- SretReturns: a handler at whose return CPY stands stopped with a cause of its own, one whose EPC0 is neither address, and one whose EPC0
is the first word of the firmware bank. -/
theorem witness_sret_fails : let at_ (stop p : TextAddr) : State := mx.mapCore fun c => { c with now := 1, trap := { c.trap with
      tl := true, mode := true, stopPc := stop, stopped := 1, epc := c.trap.epc.set 0 p } }
    let chains := (at_ 7 8).mapCore fun c => c.modEng 3 fun x => { x with stop := some {
      cause := 4, eng := 3, eval := 6, pc := 9, cycle := 0, taken := false, waits := false } }
    chains.core.has 0 = true ∧ chains.core.trap.tl = true ∧ sretOk chains.core = true ∧ chains.core.chooseCause.isSome = true ∧
    (chains.core.engOf 3).stop.isSome = true ∧ chains.core.trap.stopped.getLsbD 3 = false ∧ sretOk (at_ 7 6).core = false ∧
    (let s := at_ 63487 63488;
      sretOk s.core = true ∧ s.core.stopDue = none ∧ s.core.asyncDue = none ∧ 63488 ≤ (s.core.trap.epc.getD 0 0).toNat ∧ s.core.trap.pmode = false) := by decide
/-- SretReturns: a trap word in a handler, and a core that is to report the end of its context. -/
theorem witness_nested : let s := withTrap mx fun u => { u with tl := true }
    s.core.has 0 = true ∧ s.core.trap.tl = true ∧
    (let d := mx.mapCore fun c => { c with dying := true };
      d.core.live = true ∧ d.core.dying = true ∧ d.core.told = false ∧ ∃ x ∈ d.reportDying.ctxs, x.id = d.core.ctx) := by decide
/-- WordWaits: a WEV on scratch; waits that are to be read now. -/
theorem witness_waits : let w : WaitWord := { addr := 0x100, val := 1, dst := 3, tag := 0, next := 0, last := none }
    let s := mx.mapCore fun c => { c with ctl := { c.ctl with wev := some w, pend := [(3, 0)] }, lnk := { c.lnk with wsig := some w } }
    loads.core.has 0 = true ∧ loads.core.df 5 = false ∧ loads.core.df 3 = false ∧ logFits loads 3 ∧
    waitAccess loads (loads.core.g 5 + (0 : BitVec 13).signExtend 64) = .ok acc8 ∧ accessFree loads acc8 8 ∧
    s.core.ctl.wev = some w ∧ w.addr.toNat < 2 ^ 24 ∧ w.next ≤ s.core.now ∧ (w.dst, w.tag) ∈ s.core.ctl.pend ∧ w.dst ≠ 0 ∧ s.core.trap.pend = [] ∧
    s.core.lnk.wsig = some w :=
  ⟨by decide, by decide, by decide, loads_log 3, rfl, free8 8, rfl, by decide⟩
/-- WordWaits: a word of stage memory under each wait, due now, due in the next cycle, and in a page that is being moved. -/
theorem witness_periodic : let w (n : Nat) : WaitWord := { addr := 0x0001000000000040, val := 1, dst := 3, tag := 0, next := n, last := none }
    let a := loads.mapCore fun c => { c with lnk := { c.lnk with wsig := some (w 0) } }
    let b (n : Nat) := loads.mapCore fun c => { c with ctl := { c.ctl with wev := some (w n) } }
    (a.core.lnk.wsig = some (w 0) ∧ a.core.ctl.wev = none ∧ (b 0).core.ctl.wev = some (w 0) ∧ (b 0).core.lnk.wsig = none ∧
      2 ^ 24 ≤ (w 0).addr.toNat ∧ (w 0).next ≤ a.core.now ∧ (b 1).core.now < (w 1).next) ∧
    a.ctx = some (rich 16) ∧ (rich 16).busyAt (w 0).addr.toNat 8 = false ∧
    ({ rich 16 with pages := [{ page := 0x0001000000000000, home := 1, off := 0, busy := true }] } : Context).busyAt (w 0).addr.toNat 8 = true ∧
    ((waitAccess a (w 0).addr).toOption.map fun x => match x.place with | .stage h k => (h, k) | _ => (1, 0)) = some (0, 0x40) := by decide
/-- PowerLevels: level 15 asked at 15, a raise with and without its grant, level 16; a raise that can be granted. -/
theorem witness_power : let s (n : Nat) (g q : Bool) : State := (withReg mx 5 (BitVec.ofNat 64 n)).mapCore fun c => { c with
      now := 1, spr := { c.spr with level := 4, req := 5, granted := g, preq := q } }
    mx.core.has 0 = true ∧ (s 4 false false).core.df 5 = false ∧ ((s 4 false false).core.g 5 + (0 : BitVec 13).signExtend 64).toNat = 4 ∧
    ((s 15 true true).core.g 5 + (0 : BitVec 13).signExtend 64).toNat = 15 ∧ (s 15 true true).core.spr.level.toNat < 15 ∧
    (s 15 true true).core.spr.granted = true ∧ (s 15 true true).core.spr.grantAt < (s 15 true true).core.now ∧ (s 15 false false).core.spr.preq = false ∧
    ((s 16 false false).core.g 5 + (0 : BitVec 13).signExtend 64).toNat = 16 ∧ mx.core.trap.tl = false ∧ (s 5 false true).grantDue = true := by decide
/-- An engine of the core that moves acts now. -/
def atTurn (s : State) (e : Nat) : State := s.mapCore fun c => { c with turn := BitVec.ofNat 3 e }
/-- EngineModesAndBounds: MTX passes FPCW and BNDSET; a handler runs FPCW, BNDSET, LATEW, FENCE.M and MARK, with a window that rises and one
that does not. -/
theorem witness_modes : let s := atTurn mx 1
    s.core.turn.toNat = 1 ∧ 1 < 7 ∧ clears s 1 (.fpcw 1 0 2) ∧ clears s 1 (.bndset 7 5 6 3) := by
  unfold clears; decide
theorem witness_handler : let h := withTrap mx fun u => { u with tl := true }
    let low := h.mapCore fun c => { c with ctl := { c.ctl with lates := Vector.replicate 7 0, hfence := true } }
    h.core.turn = 0 ∧ h.core.trap.tl = true ∧ h.core.has 0 = true ∧ (∀ i ∈ [Instr.bndset 7 5 6 3, .latew 5 1, .fenceM 0x7F, .mark 3], clears h 0 i) ∧
    ¬((1 : BitVec 7).getLsbD 0 = true ∧ (h.core.ctl.lates.getD 0 0).toNat < ((h.core.g 5).setWidth 16 : BitVec 16).toNat) ∧
    (1 : BitVec 7).getLsbD 0 = true ∧ (low.core.ctl.lates.getD 0 0).toNat < (((withReg low 5 7).core.g 5).setWidth 16 : BitVec 16).toNat ∧
    clears (withReg low 5 7) 0 (.latew 5 1) ∧ low.core.trap.mode = false ∧ low.core.ctl.hfence = true := by
  unfold clears; decide
/-- WindowsBudgetsMarks: CTL in user mode with a window that rises and one that does not, in supervisor mode; MTX behind CTL, in a
supervisor's program, and level with CTL's retired words. -/
theorem witness_windows : let s := withReg mx 5 0x12345678
    let low := mx.mapCore fun c => { c with ctl := { c.ctl with lates := Vector.replicate 7 0 }, spr := { c.spr with budget := 9 } }
    let b := (atTurn mx 1).mapCore fun c => c.modEng 0 fun x => { x with pos := 1 }
    let sup := withTrap (atTurn mx 1) fun u => { u with mode := true }
    s.core.turn.toNat = 0 ∧ s.core.trap.tl = false ∧ s.core.trap.mode = false ∧ sup.core.trap.mode = true ∧ sup.core.userPath = false ∧
    clears s 0 (.latew 5 3) ∧ clears s 0 (.budg 5) ∧ clears s 0 (.mark 1) ∧ s.core.userPath = true ∧
    (¬ ∃ n, n < 7 ∧ (3 : BitVec 7).getLsbD n = true ∧ s.core.has n = true ∧ (s.core.ctl.lates.getD n 0).toNat < ((s.core.rd 0 5).setWidth 16).toNat) ∧
    s.core.spr.budget = 0 ∧
    (∃ n, n < 7 ∧ (3 : BitVec 7).getLsbD n = true ∧ low.core.has n = true ∧ (low.core.ctl.lates.getD n 0).toNat < (((withReg low 5 7).core.rd 0 5).setWidth 16).toNat) ∧
    low.core.spr.budget ≠ 0 ∧ ((low.core.g 5).setWidth 32 : BitVec 32) = 0 ∧ clears b 1 (.latew 5 3) ∧ (b.core.engOf 1).pos < (b.core.engOf 0).pos ∧
    (atTurn mx 1).core.retiredBefore 1 = true := by
  refine ⟨by decide, by decide, by decide, by decide, by decide, ?_, ?_, ?_, by decide, ?_, by decide, ⟨1, by decide⟩, by decide, by decide, ?_, by decide, by decide⟩
  · unfold clears; decide
  · unfold clears; decide
  · unfold clears; decide
  · rintro ⟨n, h1, h2, h3, h4⟩
    have : n = 0 ∨ n = 1 ∨ n = 2 ∨ n = 3 ∨ n = 4 ∨ n = 5 ∨ n = 6 := by omega
    rcases this with rfl | rfl | rfl | rfl | rfl | rfl | rfl <;> revert h4 <;> decide
  · unfold clears; decide
/-- WindowsBudgetsMarks: MTX at a word that the value forbids, level with CTL, and ahead of a word of CTL that has not retired. -/
theorem witness_ahead : let low := (withReg (atTurn mx 1) 5 7).mapCore fun c => { c with
      ctl := { c.ctl with lates := Vector.replicate 7 0 }, spr := { c.spr with budget := 5 } }
    let early := low.mapCore fun c => { c with ctl := { c.ctl with retq := [{ pos := 0, due := 9, tag := none, outc := none }] }, eng := c.eng.set 1 { c.engOf 1 with pos := 1 } }
    low.core.turn.toNat = 1 ∧ low.core.trap.tl = false ∧ low.core.trap.mode = false ∧ (low.core.engOf 0).pos ≤ (low.core.engOf 1).pos ∧
    low.core.retiredBefore 1 = true ∧ (low.core.ctl.lates.getD 1 0).toNat < ((low.core.rd 1 5).setWidth 16 : BitVec 16).toNat ∧
    (2 : BitVec 7).getLsbD 1 = true ∧ low.core.has 1 = true ∧ low.core.spr.budget.toNat < ((low.core.rd 1 5).setWidth 32 : BitVec 32).toNat ∧
    early.core.retiredBefore 1 = false ∧ (early.core.engOf 0).pos ≤ (early.core.engOf 1).pos ∧
    ∀ i ∈ [Instr.latew 5 2, .budg 5], clears low 1 i ∧ clears early 1 i := by
  unfold clears; decide
/-- A core at a STEP or BAR with every other engine at its marker. -/
def gathered (s : State) : State := s.mapCore fun c => [1, 3, 4].foldl (fun c e => c.modEng e fun x => { x with marked := true }) c
/-- StepsBarriersExit: MTX and CTL at a STEP, a BAR with f set, and EXIT. -/
theorem witness_steps : let s := withRegions (gathered mx)
    let m := withRegions (atTurn mx 1)
    s.core.turn.toNat = 0 ∧ clears s 0 (.step 1 5 2) ∧ s.core.allMarked = true ∧ s.allPerformed s.core = true ∧ clears s 0 (.bar 1 15 4) ∧ clears s 0 .exit ∧
    m.core.turn.toNat = 1 ∧ clears m 1 (.step 0 5 2) ∧ clears m 1 (.bar 0 0 2) ∧ clears m 1 .exit := by
  unfold clears; decide
/-- FencesAndBarriers: a FENCE.M; one that CTL holds, before its engines pass it and once they have. -/
theorem witness_fences : let s (k : Nat) := mx.mapCore fun c => { c with
      now := 2, eng := Vector.replicate 7 { c.engOf 0 with pos := k }
      ctl := { c.ctl with fence := some (0x7F, 0), lastRet := 0, retq := [{ pos := 0, due := 1, tag := none, outc := none }] } }
    mx.core.turn.toNat = 0 ∧ mx.core.trap.tl = false ∧ clears mx 0 (.fenceM 0x0A) ∧ (s 0).core.ctl.fence = some (0x7F, 0) ∧
    (s 1).core.ctl.fence = some (0x7F, 0) ∧ (s 0).retireFence.core.ctl.fence.isSome = true ∧ (s 1).retireFence.core.ctl.fence = none := by
  unfold clears; decide
/-- A core that has arrived at a step of its group or at a barrier of a scope. -/
def arrived (st : Bool) (sc : BitVec 3) (rel : Option (Nat × Nat)) : State := (withRegions (gathered mx)).mapCore fun c =>
  { c.modEng 0 (fun x => { x with marked := true }) with
    bar := some { step := st, rs := st, group := 5, scope := sc, id := 0, arr := 0, rel := rel } }
/-- FencesAndBarriers: a release of a step on a die, none for a pod barrier without its exchange, such a barrier that waits for its report,
a step that continues now. -/
theorem witness_barriers : (arrived true 2 none).releaseAt.isSome = true ∧ (arrived true 2 none).ctx.isSome = true ∧
    ((arrived true 2 none).releaseAt.map fun p => p.2.1.contains (arrived true 2 none).core.id) = some true ∧ (arrived false 5 none).releaseAt = none ∧
    (let s := arrived false 5 none;
      s.core ∈ s.allCores ∧ (s.core.bar.map fun b => (b.scope, b.rel)) = some (5, none) ∧ s.podDone = []) ∧
    ((arrived true 2 (some (0, 0))).core.bar.bind AtBar.rel) = some (0, 0) := by decide
/-- ControlEvents: a branch that can retire, a deadline that has passed, PMASK held for 4,096 cycles. -/
theorem witness_control : let r : CtlRet := { pos := 0, due := 0, tag := none, outc := some (.taken 9) }
    let s := mx.mapCore fun c => { c with now := 5000, ctl := { c.ctl with retq := [r] }, spr := { c.spr with budget := 1 }
                                          trap := { c.trap with pmask := true } }
    s.core.retireDue = some r ∧ s.core.deadlineDue = true ∧ s.core.maskDue = true ∧ (atTurn mx 1).core.turn.toNat = 1 ∧ mx.core.turn = 0 ∧
    mx.core.trap.tl = false := by decide
/-- StepRunsDecodedWord: an ADDI that stands before CTL, and an MNEST before MTX. -/
theorem witness_step_runs : let s := State.reset.withFetchWord 32 0x010C0002
    let m := State.reset.withFetchWord 32 0x20806408
    standsAt m 1 ∧ mayAct m 1 ∧ m.poison = [] ∧ decode (wordAt m 1) = .ok (.mnest 3 4 1 0) ∧ (engField (wordAt m 1)).toNat = 1 ∧ m.core.schedOf 1 ≤ m.core.now ∧
    decodeFault m (.mnest 3 4 1 0) = none ∧ m.deviates 1 (.mnest 3 4 1 0) = false ∧ sharedWait m 1 (.mnest 3 4 1 0) = none ∧
    standsAt s 0 ∧ mayAct s 0 ∧ s.poison = [] ∧ decode (wordAt s 0) = .ok (.addi 3 0 2) ∧ sharedWait s 0 (.addi 3 0 2) = none :=
  ⟨by unfold standsAt; decide, by unfold mayAct; decide, by decide, rfl, by decide, by decide, by decide, by decide, by decide, by unfold standsAt; decide,
    by unfold mayAct; decide, by decide, rfl, by decide⟩
/-- StepRunsDecodedWord: a poisoned word elsewhere in the package, and a CTL that came to its word in an earlier cycle. -/
theorem witness_step_poisoned : let s := { ((State.reset.withFetchWord 32 0x010C0002).mapCore fun c =>
      { c.modEng 0 (fun x => { x with came := 3 }) with now := 4 }) with poison := [.scratch 16 0] }
    standsAt s 0 ∧ mayAct s 0 ∧ s.poison ≠ [] ∧ (s.core.engOf 0).reached ≠ s.core.now ∧ decode (wordAt s 0) = .ok (.addi 3 0 2) ∧ s.core.schedOf 0 ≤ s.core.now ∧
    s.deviates 0 (.addi 3 0 2) = false ∧ sharedWait s 0 (.addi 3 0 2) = none :=
  ⟨by unfold standsAt; decide, by unfold mayAct; decide, by decide, by decide, rfl, by decide, by decide, by decide⟩
/-- MatrixStateWords: each word, MTEXP.ADD at both ends of the range, MTWC and MGVCFG with configurations that are valid. -/
theorem witness_mtx_state : let s := (withReg (withReg mx 5 1) 6 0x31).mapCore fun c => { c with mtx := { c.mtx with texp := c.mtx.texp.set 0 0x7E } }
    (∀ i ∈ [Instr.mnest 5 6 1 5, .mnestc 5 6 0, .mbase 5 6 7, .mclra, .mdropkKey 5 6, .mdropkCtr 5 6, .mdropkThr 5 6, .mres 5 6 0, .mdrainAuto 5 1 0 0,
      .mtexpSet 5 0, .mtexpAdd 5 0, .mtwc 6 5 0, .mgvcfg 5 6], clears s 1 i) ∧
    (s.core.mtx.texp.getD 0 0).toInt + ((s.core.rd 1 5).setWidth 8 : BitVec 8).toInt = 127 ∧
    127 < (s.core.mtx.texp.getD 0 0).toInt + ((s.core.rd 1 6).setWidth 8 : BitVec 8).toInt ∧
    (twcOf (s.core.rd 1 6) (s.core.rd 1 5) false).isSome = true ∧ (gvcOf 0x200008 0x400).isSome = true := by
  unfold clears; decide
/-- A package with a configured transform and a shape of 128 by 128 at a pitch of 512 in g5, an address in g6. -/
def tiled : State := (withReg (withReg mx 5 512) 6 0x100000).mapCore fun c => { c with mtx := { c.mtx with
  twc := some { radix := [4], n := 4, b := 1, inv := false } } }
/-- TileMoves, ButterflyStages. -/
theorem witness_tiles : clears tiled 1 (.mldt 6 5 1 2) ∧ tiled.core.tileFault 1 (tiled.core.rd 1 6) (tiled.core.rd 1 5) = none ∧ clears tiled 1 (.mstt 6 5 0 2) ∧
    tiled.core.tileFault 0 (tiled.core.rd 1 6) (tiled.core.rd 1 5) = none ∧ tiled.core.tileBusy 2 = false ∧ clears tiled 1 (.mtrn 6 6 5 1 0 2) ∧
    tiled.core.trnFault (tiled.core.rd 1 6) (tiled.core.rd 1 6) (tiled.core.rd 1 5) 0 = none ∧ clears tiled 1 (.mact 1 7) ∧ clears tiled 1 (.mdrev 1 2 1) ∧
    tiled.core.mtx.twc.isSome = true ∧ clears tiled 1 (.mchkr 6 1) ∧ tiled.core.mtx.retireAt ≤ tiled.core.now ∧
    (tiled.core.rd 1 6).toNat % 32 = 0 ∧ (tiled.core.rd 1 6).toNat + 32 ≤ tiled.core.size ∧ clears tiled 1 (.mtexpSt 6) ∧ (tiled.core.rd 1 6).toNat % 8 = 0 := by
  unfold clears; decide
/-- With no copy under way no range is held back. -/
theorem underCopy_idle {c : Core} (h : ∀ q ∈ c.chan.toList, q.state ≠ .busy) (y n : Nat) : c.underCopy y n = false := by
  simp only [Core.underCopy, Core.underCopyIn, List.any_eq_false]
  intro q hq
  simp [h q hq]
/-- TileMoves: every row of a load, a store and a transposition is clear. -/
theorem witness_tile_rows : ∀ a n pitch len r, r < n → tiled.core.underCopy (a + r * pitch) len = false :=
  fun _ _ _ _ _ _ => underCopy_idle (by decide) _ _
theorem witness_butterfly : let s := tiled.mapCore fun c => { c with mtx := { c.mtx with texp := c.mtx.texp.set 1 0x7D } }
    clears s 1 (.mbfly 0 1 0 2) ∧ clears s 1 (.mbfly 0 1 0 3) ∧ clears s 1 (.mbfly 0 1 0 4) ∧ (s.core.mtx.twc.map fun w => decide (0 < w.radix.length)) = some true ∧ s.core.tileBusy 1 = false ∧
    (s.core.mtx.texp.getD 1 0).toInt + 2 ≤ 127 ∧ 127 < (s.core.mtx.texp.getD 1 0).toInt + 3 := by
  unfold clears; decide
/-- A package with a format word in FQ and one pass of BX4 by BX8 set up. -/
def passing : State := (withReg (withReg mx 5 512) 6 0x100000).mapCore fun c => { c with mtx := { c.mtx with
  fq := [0x62], dcfg := some { kind := 0, idx := 0, shape := 512, clr := true } } }
/-- MatrixPasses: an MGO that releases a slot and one that does not, a pass that is due, a drain that is due, an MDRAIN. -/
theorem witness_passes : let p (d : Option Dword) : Prog := { pass := 0, drain := d, h := 0, w := 0, rel := false, at_ := 0, fin := none, held := false
                                                              cfg := (mx.core.engOf 1).holds, bnd := false, start := 1 }
    let s (d : Option Dword) : State := passing.mapCore fun c => { c with mtx := { c.mtx with prog := some (p d), cfw := 0x62 } }
    clears (ringed passing) 1 (.mgo 2 1 1 1) ∧ passing.core.mtx.prog = none ∧ passing.core.mtx.fq = 0x62 :: [] ∧ badFormat passing.core.mtx 0x62 = false ∧
    passing.core.mgoFault 0x62 = none ∧ (ringed passing).core.handleFault 2 1 = none ∧ 1 ≤ ((ringed passing).core.hnd 2).fill ∧
    clears passing 1 (.mgo 0 0 0 0) ∧ (s none).core.progDue false = some (p none) ∧
    (s (some 0x100)).core.progDue true = some (p (some 0x100)) ∧ (s (some 0x100)).core.mtx.dcfg.isSome = true ∧ clears passing 1 (.mdrain 6 5 1 0 0) ∧
    passing.core.mdrainFault (mdrainSet passing.core 6 5 0 0) = none := by
  unfold clears; decide
theorem witness_drain_rows : ∀ x ∈ passing.core.drainUses 0 0 512 0x100000 0, passing.core.underCopy x.1 x.2 = false :=
  fun _ _ => underCopy_idle (by decide) _ _
theorem witness_drain_rows_older : ∀ x ∈ passing.core.drainUses 0 0 512 0x100000 0, (passing.core.olderCopies 1 1).underCopy x.1 x.2 = false :=
  fun _ _ => underCopy_idle (by decide +kernel) _ _
/-- MatrixPasses: a pass that no copy stalls, that one which issued before the MGO stalls, and that a later one does not. -/
theorem witness_stalls : let p : Prog := { pass := 0, drain := none, h := 0, w := 0, rel := false, at_ := 0, fin := none, held := false
                                           cfg := (mx.core.engOf 1).holds, bnd := false, start := 1 }
    let s : State := passing.mapCore fun c => { c with mtx := { c.mtx with prog := some p, cfw := 0x62 } }
    let under (k : Nat) : State := s.mapCore fun c => c.modCh 0 fun h => { h with state := .busy, snap := some (h.snapOf 0 0x2000 3 false false true 0 k) }
    let clear (t : State) (a n : Nat) : Bool := !(t.core.olderCopies 1 1).underCopy a n
    ([s, under 30].all fun t => clear t (s.core.mtx.passA 0).toNat (128 * fmtBytes (fwAfmt 0x62)) &&
      clear t (wstackBase + (s.core.mtx.passB 0).toNat) (128 * fmtBytes (fwBfmt 0x62))) = true ∧
    (under 0).core.progDue false = some p ∧ (under 0).core.passStalls p = true ∧ (under 30).core.passStalls p = false := by decide +kernel
/-- FormatQueueAndGroupedRows: FQ with room and full, an MGVR, a chunk that is due. -/
theorem witness_grouped : let full := mx.mapCore fun c => { c with mtx := { c.mtx with fq := List.replicate 16 0 } }
    let g : Gvc := { len := 8, wide := false, lim := 2, abase := 0x400 }
    let s := (ringed (withReg mx 9 0xC00)).mapCore fun c => { c with mtx := { c.mtx with fq := [0x40000000000], gvc := some g } }
    mx.core.has 0 = true ∧ mx.core.has 1 = true ∧ mx.core.df 5 = false ∧ mx.core.mtx.fq.length < 16 ∧ full.core.mtx.fq.length = 16 ∧ full.core.trap.tl = false ∧
    clears s 1 (.mgvr 2 1 9 1 1) ∧ s.core.mtx.gvp = none ∧ s.core.mtx.gvc = some g ∧ s.core.mtx.fq = 0x40000000000 :: [] ∧ badGvFormat 0x40000000000 = false ∧
    gvFault s.core g (s.core.rd 1 9) 2 = none ∧ s.core.handleFault 2 1 = none ∧ 1 ≤ (s.core.hnd 2).fill ∧
    (gvUses g [(s.core.hnd 2).slotAt 0] 64 0xC00 2).all (fun y => !s.core.underCopy y.1 y.2) = true ∧
    (after (.mgvr 2 1 9 1 1) s fun t => ({ t.core with now := 2 } : Core).chunkDue.isSome) = some true := by
  unfold clears; decide
/-- VecLaneWords: words of each shape on the reset shape. -/
theorem witness_lanes : shapeOk vx.core ∧ clears vx 2 (.vadd 1 2 3) ∧ clears vx 2 (.vfma 1 2 3 4) ∧ clears vx 2 (.vrcp 1 2) ∧ clears vx 2 (.vcmp 1 2 3 1 5) ∧
    clears vx 2 (.vsel 1 2 3 4 1) ∧ clears vx 2 (.vbcast 1 2 2) ∧ clears vx 2 (.viota 1 2) ∧ clears vx 2 (.vperm 1 1 1) ∧ clears vx 2 (.vtrn 1 1) ∧
    clears vx 2 (.vredSumRow 1 1) ∧ vx.core.vec.hazard vx.core.now [1, 2, 3, 4] false = false := by
  unfold clears shapeOk; decide
/-- VecConversions: the conversions, a slot that is valid and one that is not. -/
theorem witness_conversions : let s := vx.mapCore fun c => { c with vec := { c.vec with slots := c.vec.slots.set 1 { bits := 0, valid := true } } }
    shapeOk s.core ∧ clears s 2 (.vcvt 1 2 0 3) ∧ clears s 2 (.vunpk 1 2 1 1) ∧ clears s 2 (.vpack 1 2 0 2) ∧ clears s 2 (.vqbx 1 2 1 7) ∧
    clears s 2 (.vdqbx 1 2 0) ∧ clears s 2 (.vexpr 1 1) ∧ (s.core.vec.slots.getD 1 {}).valid = true ∧ clears s 2 (.vexpr 1 2) ∧
    (s.core.vec.slots.getD 2 {}).valid = false ∧ s.core.vec.hazard s.core.now [0, 1, 2] false = false := by
  unfold clears shapeOk; decide
/-- A VX core whose shape is one by one. -/
def small : State := vx.mapCore fun c => { c with vec := { c.vec with rows := 1, cols := 1, v := [(5120, 0x41180000)], lq := c.vec.lq.set 0 [1, 2, 3, 4] } }
/-- VecQueues: as many bytes as the shape needs; bounds that hold and bounds that trap. -/
theorem witness_vec_queues : let t := small.mapCore fun c => c.modEng 2 fun x => { x with bnd := x.bnd.set 1 { low := 0, high := 0, act := 3 } }
    clears small 2 (.vshape 31 0) ∧ shapeOk small.core ∧ clears small 2 (.vldq 3 0 0) ∧ 4 ≤ (small.core.vec.lq.getD 0 []).length ∧ clears small 2 (.vstq 5 0 0 0 1) ∧
    4 ≤ small.core.vec.room 1 ∧ firstTrap (stqChecks small.core 5 0 0) = none ∧ clears t 2 (.vstq 5 1 1 0 1) ∧
    (firstTrap (stqChecks t.core 5 1 1)).isSome = true ∧ small.core.vec.hazard small.core.now [3, 5] false = false := by
  unfold clears shapeOk; decide
/-- VecStateWords: a program that is well formed and one that is not, the deferral queue with room and without, retirement. -/
theorem witness_vec_state : let one : BitVec 128 := 1 <<< 64
    let r : VecRet := { due := 0, pos := 0, mx := 0x40400000 }
    let s := small.mapCore fun c => { c with vec := { c.vec with retq := [r] } }
    clears small 2 (.vxdef 1 2 3) ∧ slotOk 1 = true ∧ slotOk one = false ∧ clears small 2 (.vrngkKey 2 3) ∧ clears small 2 (.vrngkCtr 2 3) ∧
    clears small 2 (.vrngkAdd 2 3) ∧ clears small 2 (.vrngkSave 2) ∧ clears small 2 (.vrng 2 1) ∧ clears small 2 (.vdefer 5 1 2) ∧
    small.core.vec.hazard small.core.now (5 :: regRun 1 2) true = false ∧
    small.core.vec.dq.length + ((List.range 1).filter fun e => small.core.vec.el 5 e != 0).length ≤ 4096 ∧
    clears small 2 (.vdrain 1 5 3) ∧
    clears small 2 (.vdret 1 2 3) ∧ clears small 2 (.vgrpc 1 2 3 4 15) ∧ clears small 2 .vamxr ∧ s.core.vecDue = some r := by
  unfold clears; decide
/-- A deferral queue that is full. -/
def deferred : State := small.mapCore fun c => { c with vec := { c.vec with dq := List.replicate 4096 { coord := 0, vals := [0] } } }
theorem deferred_length : deferred.core.vec.dq.length = 4096 := List.length_replicate
theorem witness_deferral_full : clears deferred 2 (.vdefer 5 1 2) ∧
    4096 < deferred.core.vec.dq.length + ((List.range 1).filter fun e => deferred.core.vec.el 5 e != 0).length := by
  rw [deferred_length]; unfold clears; decide

/-- A package with a change of one copy channel. -/
def withChan (s : State) (k : Nat) (f : Channel → Channel) : State := s.mapCore fun c => c.modCh k f
/-- An MX core with regions: destination and source in local scratch in g5 and g6, stage memory in g7, and 1 in g8. -/
def copying : State := withRegions (withReg (withReg (withReg (withReg mx 5 0x1000) 6 0x2000) 7 0x0001000000000000) 8 1)
/-- A copy of one doubleword within scratch. -/
def oneCopy : Snap := copying.core.ch 0 |>.snapOf 0x1000 0x2000 3 false false false 0 0
/-- CopyWords: each word; a copy within the die and one from stage memory, a busy channel, checks that fail. -/
theorem witness_copy_words : let busy := withChan copying 0 fun h => { h with state := .busy }
    let snap (s : State) (d a : GReg) : Snap := (s.core.ch 0).snapOf (s.core.rd 3 d) (s.core.rd 3 a) 3 false false false (s.core.engOf 3).pos (16 * s.core.now + 8)
    let check (s : State) (d a : GReg) : Option (Byte × Dword) := s.copyCheck s.core 0 0 (snap s d a) false 0
    clears copying 3 (.cgeo 5 6 8 5 7) ∧ clears copying 3 (.clay 5 6 7) ∧ clears copying 3 (.cgo 5 6 0 0 0 3 0) ∧ clears copying 3 (.cfill 5 6 0 0 3 0) ∧
    (copying.core.ch 0).state ≠ .busy ∧ check copying 5 6 = none ∧ copying.meetsBusy copying.core (snap copying 5 6) = false ∧
    copying.sideOnDie copying.core (snap copying 5 6) false = true ∧ check copying 5 7 = none ∧
    copying.sideOnDie copying.core (snap copying 5 7) false = false ∧ (check copying 8 6).isSome = true ∧ clears busy 3 (.cgo 5 6 0 0 0 3 0) ∧
    (busy.core.ch 0).state = .busy := by
  unfold clears; decide
theorem witness_copy_schedules : let bound := withChan copying 1 fun h => { h with sched := some { addr := 0x100, count := 2, next := 0 }, pendq := [0, 0, 0] }
    let busy := withChan copying 0 fun h => { h with state := .busy }
    clears busy 3 (.csched 5 8 0) ∧ (busy.core.ch 0).state = .busy ∧ copying.core.rd 3 0 = 0 ∧
    clears copying 3 (.csched 5 8 0) ∧ copying.core.rd 3 5 ≠ 0 ∧ copying.tableCheck copying.core 0 (copying.core.rd 3 5) 1 = none ∧
    (copying.tableCheck copying.core 0 (copying.core.rd 3 8) 1).isSome = true ∧ clears copying 3 (.cadv 1 1) ∧ (copying.core.ch 1).sched = none ∧
    clears bound 3 (.cadv 1 252) ∧ (bound.core.ch 1).sched ≠ none ∧ (bound.core.ch 1).pend + 252 = 255 ∧ clears bound 3 (.cadv 1 253) := by
  unfold clears; decide
/-- CopyWords: a page move that checks out, to the free pool and to a reserve that has no room, of a page that is being moved already; CSTOP. -/
theorem witness_copy_pages : let busy := withChan copying 1 fun h => { h with state := .busy, snap := some oneCopy }
    let e := (rich 16).trans.getD 0 { vbase := 0, target := 0, lsz := 0, cls := 0, home := 0, perm := 0 }
    let moving : Context := { rich 16 with pages := [{ page := 0x0001000000000000, home := 1, off := 0, busy := true }] }
    copying.ctx = some (rich 16) ∧ (copying.pageCheck 0 (rich 16) (copying.core.rd 3 8) (copying.core.rd 3 7) 1).toOption = some e ∧
    (copying.pageCheck 0 (rich 16) (copying.core.rd 3 8) (copying.core.rd 3 7) 0).toOption = none ∧
    (copying.setBusy (rich 16) e 0x0001000000000000 1 1 true).isSome = true ∧ copying.setBusy (rich 16) e 0x0001000000000000 1 1 false = none ∧
    (rich 16).busyAt 0x0001000000000000 e.pageLen = false ∧ moving.busyAt 0x0001000000000000 e.pageLen = true ∧
    clears (withTrap copying fun u => { u with mode := true }) 3 (.cpage 8 7 8 1 0) ∧ clears copying 3 (.cpage 8 7 8 0 0) ∧ clears busy 3 (.cpage 8 7 8 0 1) ∧
    clears busy 3 (.cstop 0xFF) ∧ (busy.core.ch 1).state = .busy := by
  unfold clears; decide
/-- CopyEvents: a piece that lands in scratch, on a die that runs and on one that stands halted, and one whose write is an effect of the cycle. -/
theorem witness_landed_piece : let ws : List (Nat × List Byte) := [(0x1000, [1, 2])]
    copying.onDieNow copying.core false ws = true ∧ (copying.mapCore fun c => { c with halted := true }).onDieNow { copying.core with halted := true } false ws = false ∧
    ({ due := 0, eng := 3, pos := 0, eff := .copy 2 false 0x1000 [1] } : LocalOp).eff = .copy 2 false 0x1000 [1] := by decide
/-- CopyEvents: an element and a piece that are due, a cancelled channel, a status to write, a schedule entry, a page. -/
theorem witness_copy_events : let at_ (x : Snap) := withChan copying 2 fun h => { h with state := .busy, snap := some x }
    let stop := at_ { oneCopy with stop := true }
    (((at_ { oneCopy with fixed := true }).core.ch 2).readDue 0 = true) ∧ (((at_ oneCopy).core.ch 2).asks = some oneCopy) ∧ stop.core.stopDone = some 2 ∧
    (stop.core.ch 2).snap.isSome = true ∧ ((at_ oneCopy).core.statusDue = some 2) := by
  decide
/-- A channel with a schedule of two entries whose first has the source, the destination and the control word given. -/
def entryAt (s : State) (src dst v : Nat) : State := (withChan s 2 fun h =>
  { h with sched := some { addr := 0x100, count := 2, next := 0 }, pendq := [0] }).mapCore fun c =>
    { c with scratch := ((c.scratch.writeNat 0x100 8 src).writeNat 0x108 8 dst).writeNat 0x110 8 v }
/-- The copy of that entry. -/
def entryCopy (s : State) : Option Snap :=
  let w (k : Nat) : Dword := BitVec.ofNat 64 (ofBytes (s.copyRead s.core false (0x100 + 8 * k) 8))
  entrySnap (s.core.ch 2) (w 0) (w 1) (w 2) 0 2 false
/-- CopyEvents: an entry that starts, one that is invalid, one that fails its check, one whose source page is being moved, one of a table
in stage memory that has not been fetched. -/
theorem witness_copy_entries : let a := entryAt copying 0x2000 0x1000 3
    let far := withChan copying 2 fun h => { h with sched := some { addr := 0x0001000000000000, count := 2, next := 0 }, pendq := [0] }
    let moving := { copying with ctxs := [{ rich 16 with pages := [{ page := 0x0001000000000000, home := 1, off := 0, busy := true }] }] }
    let b := entryAt moving 0x0001000000000000 0x1000 3
    a.core.entryDue = some 2 ∧ far.core.entryDue = some 2 ∧ isTranslated (0x0001000000000000 : Dword).toNat = true ∧ (far.core.ch 2).fetched = false ∧
    (entryCopy a).map (fun x => a.copyCheck a.core 2 0 x false 0) = some none ∧ entryCopy (entryAt copying 0x2000 0x1000 7) = none ∧
    (let c := entryAt copying 0x2000 0x1001 3; (entryCopy c).map (fun x => (c.copyCheck c.core 2 0 x false 0).isSome) = some true) ∧
    (entryCopy b).map (fun x => (b.copyCheck b.core 2 0 x false 0, b.meetsBusy b.core x)) = some (none, true) := by
  decide
/-- CopyEvents: a page that moves from BF die 0 to BF die 1, and a page job with nothing left to move; a schedule table in a page that is
being moved. -/
theorem witness_copy_moves : let j : PageJob := { pos := 0, addr := 0x0001000000000000, left := 1, next := 0 }
    let p : PageHome := { page := 0x0001000000000000, home := 0, off := 0, busy := true, to_ := some (1, 0, true) }
    let x : Context := { rich 16 with pages := [p] }
    let s := { withChan copying 0 fun h => { h with state := .busy, page := some j } with ctxs := [x] }
    s.ctx = some x ∧ (s.core.ch 0).page = some j ∧ (x.entryAt j.addr.toNat).isSome = true ∧ (x.pages.find? fun p => p.busy && j.covers 1 p) = some p ∧
    ((rich 16).pages.find? fun p => p.busy && j.covers 1 p) = none ∧ x.busyAt (0x0001000000000000 + 32 * 0) 32 = true := by decide
/-- The context of `rich` with routes within the die and over one link, a claim on the first slots of that link, and remote memory. -/
def routed (k : CoreId) : Context := { rich k with
  trans := (rich k).trans ++ [{ vbase := 0x0001000010000000, target := 0x0007000000000000, lsz := 21, cls := 3, home := 0, perm := 3 }]
  routes := [{ src := k, dst := 17, handle := 3, hops := [] }, { src := k, dst := 32, handle := 3, hops := [(1, 1)] }]
  claims := [{ site := 1, link := 1, core := 0, first := 0, count := 4 }] }
/-- An MX core with a filled ring: g5 and g6 describe pushes over those routes, g7 names remote memory, g8 scratch, g9 a length. -/
def linked : State := { ringed (withReg (withReg (withReg (withReg (withReg mx 5 0x188200) 6 0x180400) 7 0x0001000010000000) 8 0x2000) 9 64) with
  ctxs := [routed 16] }
/-- PushesAndSlots: pushes that pass within the die and over a link, one without a route; slots that are free, taken, held and ill-formed. -/
theorem witness_pushes : (∀ i ∈ [Instr.lpush 2 1 5 0, .lpush 2 1 6 1], clears linked 4 i) ∧ linked.core.handleFault 2 1 = none ∧
    1 ≤ (linked.core.hnd 2).fill ∧ linked.core.underCopy 0x1000 64 = false := by
  unfold clears; decide
theorem witness_push_same : linked.pushCheck 2 (linked.core.rd 4 5) = .ok ({ src := 16, dst := 17, handle := 3, hops := [] }, 0) := rfl
theorem witness_push_far : linked.pushCheck 2 (linked.core.rd 4 6) = .ok ({ src := 16, dst := 32, handle := 3, hops := [(1, 1)] }, 0) := rfl
theorem witness_push_fault : linked.pushCheck 2 (linked.core.rd 4 8) = .error (5, 0xFF03000000000010) := rfl
/-- A core in supervisor mode. -/
def supervised (s : State) : State := withTrap s fun u => { u with mode := true }
theorem witness_slots : let v (s : State) : Dword := s.core.rd 4 5
    let free := supervised (withReg linked 5 0x400040001)
    let taken := supervised (withReg linked 5 0x400000001)
    (∀ i ∈ [Instr.lslot 5, .lslotRel 5], clears free 4 i ∧ clears taken 4 i ∧ clears (supervised linked) 4 i) ∧
    slotEntryOk 1 (v free) = true ∧ free.wrapped.claims.any (slotEntry 1 (v free)).meets = false ∧
    slotEntryOk 1 (v taken) = true ∧ taken.wrapped.claims.any (slotEntry 1 (v taken)).meets = true ∧
    taken.wrapped.ctx = some (routed 16) ∧ (routed 16).holdsSlots (slotEntry 1 (v taken)) = true ∧ free.wrapped.ctx = some (routed 16) ∧
    (routed 16).holdsSlots (slotEntry 1 (v free)) = false ∧ slotEntryOk 1 (v (supervised linked)) = false := by
  refine ⟨?_, by decide, by decide, by decide, by decide, by decide, by decide, by decide, by decide, by decide⟩
  unfold clears; decide
/-- RemoteVerbs: verbs on remote memory that pass, a length and a range that do not, a wait for a word of scratch, LQUIET. -/
theorem witness_verbs : (∀ i ∈ [Instr.lput 7 8 9, .lget 8 7 9, .lsig 7 9, .lacas 8 7 9 1, .lwsig 9 8 0, .lquiet], clears linked 4 i) ∧
    (linked.core.rd 4 9).toNat % 2 ^ 17 = 64 ∧ (linked.core.rd 4 7).toNat % 8 = 0 ∧ (linked.core.rd 4 8).toNat + 64 ≤ linked.core.size ∧
    linked.core.underCopy 0x2000 64 = false ∧ (linked.core.lnk.podq.filter fun p => p.eng == 4).length < 64 ∧
    (linked.core.rd 4 0).toNat % 2 ^ 17 = 0 := by
  unfold clears; decide
theorem witness_remote (n rights : Nat) (hn : n ≤ 65536) (hr : rights ∈ [1, 2, 3]) : linked.remoteCheck 0x0001000010000000 n rights = .ok 7 := by
  have h : linked.remoteCheck 0x0001000010000000 n rights = if 0x0001000010000000 + n > 0x0001000010000000 + 2 ^ 21 then .error (6, 0x0001000010000000)
      else if 3 ≠ 3 ∨ 3 &&& rights ≠ rights then .error (5, 0x0001000010000000) else .ok 7 := rfl
  rw [h, if_neg (by omega), if_neg (by clear h hn; revert rights; decide)]
theorem witness_remote_fault : linked.remoteCheck (linked.core.rd 4 8) 64 1 = .error (6, 0x2000) := rfl
theorem witness_wait : ∃ x, waitAccess linked (linked.core.rd 4 8 + (0 : BitVec 13).signExtend 64) = .ok x ∧
    ∀ run : Out, accessWaits linked 4 x 8 run = run :=
  ⟨{ place := .scratch 0x2000, addr := 0x2000, plane := none }, rfl, fun _ => rfl⟩
/-- A push of one beat, and a get from package 7. -/
def onePush : PushRec := { pos := 0, dst := 32, dh := 3, nb := 1, got := [1], gone := 0, slot := 0, start := 0, hops := 16 }
def oneGet : PodRec := { num := 0, eng := 4, pos := 0, pkg := 7, remote := 0, kind := .get 0x2000 8, off := 0, failed := false }
/-- FabricEvents: a push that leaves and those that land, on a die that runs and on one that is halted, and what lands in a ring that has
room and in one that has none; answers to a get, an atomic, a put, a signal and a load, a key that is held and one
that is not, a request at a page that is being moved, at a word that could not be corrected, and at neither. -/
theorem witness_fabric : let sends := linked.mapCore fun c => { c with lnk := { c.lnk with sends := [onePush], podq := [oneGet] } }
    let f (b : Bool) : Flight := { cargo := .push 16 2 [1], core := 17, eng := 4, pos := 0, addr := 0, hops := [], owned := true, due := 0, bad := b }
    let asks (k : PodKind) : State := linked.mapCore fun c => { c with lnk := { c.lnk with podq := [{ oneGet with kind := k }] }, ctl := { c.ctl with pend := [(1, 0)] } }
    sends.core.departDue = some onePush ∧ onePush.nb ≤ onePush.gone + 1 ∧
    (∀ b, ({ linked with flights := [f b] } : State).landing = some (f b, [])) ∧ linked.saved = [] ∧
    (linked.coreAt 16).map Core.halted = some false ∧ ((linked.mapCore fun c => { c with halted := true }).coreAt 16).map Core.halted = some true ∧
    ((linked.core.hnd 2).defined = true ∧ 1 ≤ (linked.core.hnd 2).free ∧ ([1] : List Byte).length ≤ (linked.core.hnd 2).slot ∧ linked.core.eoc = []) ∧
    (linked.core.hnd 3).defined = false ∧
    (sends.core.lnk.podq.find? fun q => q.pkg == 7) = some oneGet ∧ oneGet.failed = false ∧ sends.core.trap.pend = [] ∧ (1 : GReg) ≠ 0 ∧
    ([PodKind.load 1 0, .atomic 0 true 0x2000 1 0, .put 8 [], .signal 1].all fun k => ((asks k).core.lnk.podq.find? fun q => q.pkg == 7).any fun p => p.kind == k) = true ∧
    ((1 : GReg), 0) ∈ (asks (.load 1 0)).core.ctl.pend := by
  decide
theorem witness_requests : let x : Context := { routed 16 with rec_ := { key := 9 } }
    let busy : Context := { x with pages := [{ page := 0x0001000000000000, home := 1, off := 0, busy := true }] }
    let at_ (y : Context) (l : List EccLoc) : State := { linked with ctxs := [y], poison := l }
    (at_ x []).keyHolder 8 = none ∧ (at_ x []).keyHolder 9 = some x ∧ (at_ busy []).keyHolder 9 = some busy ∧ x.entryAt 0 = none ∧
    x.entryAt 0x0001000000000000 = x.trans.head? ∧ (x.trans.head?.map fun e => (e.cls, e.perm % 4, decide (0x0001000000000000 + podSize (.signal 1) ≤ e.vbase.toNat + 2 ^ e.lsz))) = some (0, 3, true) ∧
    x.planeMeets 64 0x0001000000000000 (podSize (.signal 1)) = false ∧ busy.busyAt 0x0001000000000000 8 = true ∧ x.busyAt 0x0001000000000000 8 = false ∧
    podReads (.signal 1) = true ∧ (at_ x [.stage 0 0]).poisoned isStage (2 ^ 29 * (x.homeOf (x.trans.headD { vbase := 0, target := 0, lsz := 0, cls := 0, home := 0, perm := 0 }) 0x0001000000000000).1) 8 ≠ [] ∧
    (at_ x []).poisoned isStage 0 8 = [] := by
  decide
/-- A GX core with a stream ring h2 whose slots are filled, an output ring h3, a table of four rows of 16 bytes as table 1, and registers for it. -/
def gathering : State := (ringed (withReg (withReg (withReg (withReg gx 5 4) 6 0x1000) 7 16) 8 0x10013)).mapCore fun c =>
  { c.setHnd 3 { defined := true, base := 0x2000, lsz := 0, cntm1 := 1, fill := 0, pidx := 0, cidx := 0 } with
    gtab := c.gtab.setIfInBounds 1 { valid := true, base := 0x1000, g := true, fmt := 0, rb := 16, nrow := 4 } }
/-- A gather of one row that reads its index now, and the same gather with the row known and one beat read. -/
def oneGather : GJob := {
  pos := 0, sum := false, h := 2, w := 1, rel := true, oh := 3, out := 0x2000, tab := gathering.core.gtab.getD 1 {}, n := 1, srcs := [0x1000]
  slot := 64, start := 0, mode := 0, k := 0, last := 0, rows := [], left := 0, bags := [], got := [], beat := 0, at_ := 0, asked := false, row := none }
/-- Gathers: a table that is tidy and one that is not, a gather that passes, one of too many rows, an index within the table, below
and beyond it, a row that is due, a gather that ends. -/
theorem witness_gathers : let put (v : Nat) : Core := { gathering.core with scratch := gathering.core.scratch.writeNat 0x1000 4 v }
    let at_ (j : GJob) : State := gathering.mapCore fun c => { c with gjob := some j, now := 3 }
    clears gathering 5 (.gtab 5 6 7 1 0 1) ∧ (withReg gathering 6 0x1001).core.rd 5 6 = 0x1001 ∧ clears (withReg gathering 6 0x1001) 5 (.gtab 5 6 7 1 0 1) ∧ (gathering.core.rd 5 5).toNat % 2 ^ 32 = 4 ∧ (gathering.core.rd 5 7).toNat % 2 ^ 17 = 16 ∧
    (gathering.core.rd 5 6).toNat % 4 = 0 ∧ (gathering.core.rd 5 6).toNat + 4 * 16 ≤ 2 ^ 27 ∧
    (withRegions (withReg gathering 6 0x0001000000000000)).stageTable 0x0001000000000000 64 = none ∧ clears (withReg gathering 7 3) 5 (.gtab 5 6 7 1 0 1) ∧
    (∀ i ∈ [Instr.gthr 2 1 8, .gsum 2 1 8], clears gathering 5 i) ∧ gathering.core.handleFault 2 1 = none ∧ 1 ≤ (gathering.core.hnd 2).fill ∧
    gathering.core.handleFault 3 1 = none ∧ 1 ≤ (gathering.core.hnd 3).free ∧
    gatherKind gathering.core false 2 3 1 1 (gathering.core.gtab.getD 1 {}) 0x10013 = none ∧
    gatherKind gathering.core false 2 3 1 5 (gathering.core.gtab.getD 1 {}) 0x50013 = some 4 ∧ gathering.core.underCopy 0x2000 64 = false ∧
    4 * oneGather.k + 4 ≤ oneGather.w * oneGather.slot ∧ (put 3).scratch.readNat 0x1000 4 < oneGather.tab.nrow ∧
    (BitVec.ofNat 32 ((put 0xFFFFFFFF).scratch.readNat 0x1000 4)).toInt < 0 ∧ oneGather.tab.nrow ≤ (put 4).scratch.readNat 0x1000 4 ∧
    (let j := { oneGather with tab := { oneGather.tab with g := false }, rows := [(some 3, 0)], k := 1, row := some [1] };
      (at_ j).core.rowDue = some j) ∧
    (at_ oneGather).coreAt 64 = some (at_ oneGather).core ∧
    (let j := { oneGather with rows := [(some 3, 0)], k := 1, beat := 1 };
      (at_ j).core.gtail = [] ∧ (at_ j).core.gjob = some j ∧ j.tab.g = true ∧ j.more = false ∧ beatsOf j.imageLen ≤ j.beat ∧ j.rel = true ∧ j.read = true ∧
      ({ j with beat := 0 } : GJob).read = false ∧ ({ j with sum := true, left := 0, bags := [1], got := [1, 2, 3, 4] } : GJob).output ≠ [] ∧
      ({ j with tab := { j.tab with g := false }, got := [1] } : GJob).output ≠ []) := by
  unfold clears; decide
/-- A CL core of a context with one group bound: addresses in g5 and g6, a count in g7. -/
def collecting : State := { withReg (withReg (withReg cl 5 0x1000) 6 0x2000) 7 1 with ctxs := [{ oneCore 320 with pods := [(2, [0])] }] }
/-- Collectives: CGRP, each collective on a bound group and on one that is not, at a page that is being moved, a collective that ends, and one
behind an earlier one of another core. -/
theorem witness_collectives : let k : Coll := { pos := 0, form := .red, group := 2, rop := 0, type := 0, dst := 0x1000, src := 0x1000, n := 1, seq := 7, members := [0] }
    let s := collecting.mapCore fun c => { c with colls := [k] }
    let behind := { s with others := [{ s.core with id := 321, colls := [{ k with seq := 3 }] }] }
    clears collecting 6 (.cgrp 5 7 3) ∧ collecting.groupBusy 3 = false ∧ (collecting.core.rd 6 7).toNat % 2 ^ 14 = 1 ∧ 0x1000 + 2 ≤ collecting.core.size ∧
    collecting.core.underCopy 0x1000 2 = false ∧ collecting.core.colls = [] ∧
    (∀ i ∈ [Instr.cred 5 6 7 0 0 2, .crsc 5 6 7 1 1 2, .callg 5 6 7 2 2, .cbc 5 0 7 0 2, .cred 5 6 7 0 0 3], clears collecting 6 i) ∧
    collecting.podGroup 2 = some [0] ∧ collecting.podGroup 3 = none ∧ (collecting.core.rd 6 0).toNat % 2 ^ 13 < 1 ∧
    collecting.collRange 0x1000 4 1 = none ∧ collecting.collRange 0x2000 4 2 = none ∧ collecting.core.underCopy 0x1000 4 = false ∧
    ([0] : List (BitVec 13))[(collecting.core.rd 6 0).toNat % 2 ^ 13]? = some collecting.pkgid ∧
    (∃ x, collecting.ctx = some x ∧ x.busyAt 0x1000 4 = false) ∧
    s.saved = [] ∧ s.others = [] ∧ (s.core.colls.find? fun q => q.group == 2) = some k ∧ s.collFirst 2 s.core = true ∧ k.clash 1 = false ∧
    s.copyPlace s.core false 0x1000 4 = some (.scratch 0x1000) ∧ behind.collFirst 2 behind.core = false ∧ (∀ d ∈ behind.others, d.id ≠ behind.core.id) ∧
    ∃ x, s.ctxOf s.core.ctx = some x ∧ x.phase ≠ .killed := by
  have h : ∃ x, collecting.ctxOf 1 = some x ∧ x.phase ≠ .killed := ⟨{ oneCore 320 with pods := [(2, [0])] }, by decide⟩
  refine ⟨?_, by decide, by decide, by decide, by decide, by decide, ?_, by decide, by decide, by decide, by decide, by decide, by decide, by decide,
    ⟨{ oneCore 320 with pods := [(2, [0])] }, by decide⟩, by decide, by decide, by decide, by decide, by decide, by decide, by decide, by decide, h⟩ <;>
    (unfold clears; decide)
/-- Collectives: a source in a page that is being moved. -/
theorem witness_collective_moves : let x : Context := { rich 320 with pods := [(2, [0])], pages := [{ page := 0x0001000000000000, home := 1, off := 0, busy := true }] }
    let s : State := { withReg collecting 6 0x0001000000000000 with ctxs := [x] }
    s.ctx = some x ∧ x.busyAt (s.core.rd 6 6).toNat 4 = true ∧ clears s 6 (.cred 5 6 7 0 0 2) ∧ s.podGroup 2 = some [0] ∧ s.collRange (s.core.rd 6 6) 4 1 = none := by
  unfold clears; decide
/-- Collectives: a table of one id that is this package's, one that is not, one read that is not the last, and the word that CLV last
issued or an earlier one. -/
theorem witness_members : let at_ (p v : Nat) : State := collecting.mapCore fun c => { c.modEng 6 (fun x => { x with lastPos := p }) with
      scratch := c.scratch.writeNat 0x1000 2 v }
    let ids (s : State) : List Nat := (List.range (min 32 (1 - 32 * 0))).map fun k => s.core.scratch.readNat (0x1000 + 2 * (32 * 0 + k)) 2
    (rises (ids (at_ 0 0)) = true ∧ (∀ k ∈ ids (at_ 0 0), k ≤ 8191) ∧ (at_ 0 0).pkgid.toNat ∈ ids (at_ 0 0)) ∧
    (at_ 0 1).pkgid.toNat ∉ ids (at_ 0 1) ∧ ids (at_ 0 1) ≠ [] ∧ (1 < 32 * 0 + 32) ∧ (32 * 0 + 32 ≤ 32) ∧
    ((at_ 0 1).core.engOf 6).lastPos = 0 ∧ ((at_ 5 1).core.engOf 6).lastPos ≠ 0 ∧ (collecting.ctxOf 1).isSome = true := by
  decide
/-- A flight of a core that has come to its end. -/
def flight (k : CoreId) (a : Dword) (x : Cargo) : Flight :=
  { cargo := x, core := k, eng := 0, pos := 0, addr := a, hops := [], owned := false, due := 0, bad := false }
/-- A package with one flight that acts next. -/
def landing (x : Cargo) (a : Dword) : State := { loads with flights := [flight 16 a x] }
/-- PackageTraffic: each kind of cargo comes to its end; the requests name stage memory, the claim a planed element. -/
theorem witness_landings : ([Cargo.req (.store 8 1), .req (.load 3 0 4 true), .req (.own 3 0), .req (.amo 3 0 0 true 1 0), .reply 3 0 1 true, .notify 0x40, .claim 0, .claimAns true 0].all
    fun x => (landing x 0x0001000000000040).landing == some (flight 16 0x0001000000000040 x, [])) = true := by decide
theorem witness_located : (match loads.locate loads.core 0x0001000000000040 8 with
    | .ok (p, _) => decide (p = .stage 0 0x40)
    | _ => false) = true := by decide
theorem witness_traffic : loads.coreAt 16 = some loads.core ∧ loads.ctxOf 1 = some (rich 16) ∧ (rich 16).planeAt 1 0x0001000000000040 = none ∧
    (rich 16).planeAt 1 0x100000008 = some (0, (rich 16).planes.getD 0 { vbase := 0, units := 0, group := 0, wide := false, collide := 0, clear := false, shared := false }) ∧
    (let s := loads.mapCore fun c => { c with
      ctl := { c.ctl with pend := [(3, 0)], claim := some (0, none) }
      lnk := { c.lnk with wsig := some { addr := 0x40, val := 1, dst := 0, tag := 0, next := 9, last := none } } };
    ((3 : GReg), 0) ∈ s.core.ctl.pend ∧ s.core.lnk.wsig.isSome = true ∧ s.core.ctl.claim = some (0, none)) := by decide
/-- A written element of the planed region of `rich`, and the same region in stage memory. -/
def oneCell (k : CoreId) : PlaneCell := { ctx := 1, reg := 0, site := 1, elem := 1, next := 7, wr := k, coll := false, cl := false }
def planed : State := { loads with
  ctxs := [{ rich 16 with planes := (rich 16).planes.map fun d => { d with vbase := 0x0001000000000000, shared := false } }]
  planes := [{ oneCell 16 with site := 0 }], swaps := [(1, 0, 0, 0)] }
/-- ResidueAndPlanes: a beat that is due, of a request and of a copy, an element not yet written and one written by this core and by another,
a swap that is due in stage memory and in die-shared scratch. -/
theorem witness_planes : let f : Flight := { flight 16 0x0001000000000040 (.req (.store 8 1)) with hops := [(1, 1)] }
    let b : Flight := { flight 16 0 .beat with hops := [(1, 1)], eng := 3 }
    let d : PlaneDesc := { vbase := 0x0001000000000000, units := 1, group := 5, wide := true, collide := 1, clear := false, shared := false }
    ({ loads with flights := [f], clock := 14 } : State).beatDue = some (f, []) ∧ ({ loads with flights := [b], clock := 14 } : State).beatDue = some (b, []) ∧
    loads.cell 1 0 1 1 = none ∧
    ({ loads with planes := [oneCell 16] } : State).cell 1 0 1 1 = some (oneCell 16) ∧
    ({ loads with planes := [oneCell 17] } : State).cell 1 0 1 1 = some (oneCell 17) ∧ planed.swapDue = some (1, 0, 0, 0) ∧
    ∃ x, planed.ctxOf 1 = some x ∧ x.planes[0]? = some d ∧ ∃ e, x.entryAt d.vbase.toNat = some e ∧ x.placeOf e d.vbase.toNat = .stage 0 0 ∧
      ∀ y ∈ planed.planes, (y.elem + 1) * d.elem ≤ d.units * 65536 := by
  refine ⟨by decide, by decide, by decide, by decide, by decide, by decide,
    { rich 16 with planes := (rich 16).planes.map fun d => { d with vbase := 0x0001000000000000, shared := false } }, by decide, by decide,
    (rich 16).trans.getD 0 { vbase := 0, target := 0, lsz := 0, cls := 0, home := 0, perm := 0 }, by decide⟩
theorem witness_shared_swap : let s : State := { loads with planes := [oneCell 16], swaps := [(1, 0, 1, 0)] }
    s.swapDue = some (1, 0, 1, 0) ∧ s.ctxOf 1 = some (rich 16) ∧
    ((rich 16).planes[0]?.map fun d => (d.shared, decide (∀ y ∈ s.planes, (y.elem + 1) * d.elem ≤ d.units * 65536))) = some (true, true) := by decide
/-- A context with a change, on an MX core that may stand frozen. -/
def withCtx (f : Context → Context) (g : Core → Core := id) : State := { mx.mapCore g with ctxs := [f (oneCore 16)], clock := 128 }
/-- ContextEvents: an EXIT to retire, a context that has ended, one to start, one killed, and those that freeze. -/
theorem witness_context_ends : let out := mx.mapCore fun c => { c with eng := Vector.replicate 7 { exited := true } }
    let gone := mx.mapCore fun c => { c with retired := true }
    let placed := withCtx (fun x => { x with phase := .placed }) fun c => { c with frozen := true }
    let killed := withCtx fun x => { x with phase := .killed }
    out.exitDue = true ∧ gone.exitDue = false ∧ (gone.ctxDone.map Context.id) = some 1 ∧ (placed.startDue.map Context.id) = some 1 ∧
    (killed.killDone.map Context.id) = some 1 := by decide
theorem witness_freezes : let asks (k : FreezeKind) : State := withCtx (fun x => { x with freeze := [(k, 0)] }) fun c => { c with ready := true }
    let saving := withCtx fun x => { x with phase := .saving }
    (([FreezeKind.preempt, .halt, .kill].map fun k => ((asks k).frozenNext fun q => q != .cancel).map Prod.snd) = [some .preempt, some .halt, some .kill]) ∧
    (saving.frozenNext fun q => q != .cancel) = none ∧ (saving.saveDue.map Context.id) = some 1 := by
  decide
/-- A checkpoint of a core. -/
def oneCkpt (c : Core) : Ckpt := {
  cont := 0, rel := 0, g := c.ctl.g, df := 0, pend := [], bndFlag := false, vamax := (0, false, false), mamax := (0, false, false), budget := 0
  eng := c.eng, handles := c.handles, fq := [], fqHead := 0, chan := c.chan }
theorem witness_cancel : let asks (rs : Bool) : State := withCtx (fun x => { x with freeze := [(.cancel, 0)], cancels := [none] }) fun c => { c with ready := true, ckpt := some (oneCkpt c), step := some (0, rs, 0) }
    ([true, false].all fun rs => let s := asks rs;
      (s.frozenNext fun q => q == .cancel).isSome && s.core.within 1 && (s.ctx.any fun x => x.cancelled.contains s.core.id) && s.core.ckpt.isSome &&
        s.core.canRestart == rs) = true := by decide
/-- An image of one variant for core 16, a launch of it at priority 7, and a package that runs with it queued. -/
def oneImage : Image := {
  id := 1, version := 1, mirror := false, twin := 256, sections := [{}]
  variants := [{ need := [1], binds := [{ core := 16, sect := 0, budget := 0, late := 65535 }] }], excluded := [], digest := [] }
def oneLaunch : Launch := {
  id := 0, seq := 0, rec_ := { prio := 7, preempt := true }
  nodes := [{ kind := 1, npred := 0, image := 1, word := 0, arg := 0, succ := [] }]
  state := [.queued], iters := [0] }
def sequencing (cs : List Context) : State := { mx with
  ctxs := cs, host := { boot := .running, images := [oneImage], launches := [oneLaunch] } }
theorem witness_place : ((sequencing []).pick.map fun p => match p with
    | .place l i _ _ x => l.id == 0 && i == 0 && x == 1
    | _ => false) = some true := by decide
theorem witness_refuse : ({ sequencing [] with host := { boot := .running, launches := [oneLaunch] } } : State).pick = some (.refuse oneLaunch false) ∧
    ({ sequencing [] with host := { boot := .running, images := [{ oneImage with excluded := [0] }], launches := [oneLaunch] } } : State).pick = some (.refuse oneLaunch true) := by decide
/-- An image whose text fails its scan: a word of an engine that its core does not have. -/
theorem witness_exclude : let bad : Image := { oneImage with sections := [{ text := [0x40000000] }] }
    (({ sequencing [] with host := { boot := .running, images := [bad], launches := [oneLaunch] } } : State).pick.map fun p => match p with
      | .exclude g v => g.id == 1 && v == 0
      | _ => false) = some true := by decide
theorem witness_preempt : let x := { oneCore 16 with rec_ := { save := 0x1000000 } }; (sequencing [x]).pick = some (.preempt [x]) := by decide
theorem witness_resume : let x := { oneCore 16 with phase := .saved, rec_ := { prio := 7 } }; (sequencing [x]).pick = some (.resume x) := by decide
/-- GraphNodes: nodes of each kind that are ready, one that polls. -/
theorem witness_graph : let run (k : Nat) (st : NodeSt) : State := { mx with host := { launches := [{ oneLaunch with
      nodes := [{ kind := k, npred := 0, image := 1, word := 0, arg := 0, succ := [0xFFFF] }], state := [st] }] } }
    ([1, 2, 3, 4, 5].all fun k => ((run k (.waiting 0)).nodeDue Launch.readyNode).any fun p => p.2.2.kind == k) = true ∧
    ((run 5 (.polling 0)).nodeDue fun l => l.pollNode 0).isSome = true := by decide
/-- ErrorsAndPower: a block on its way that carries a reply, and one that carries a push, a word to be written back, a context to throttle
and none, a bound on charge injection that is reached and one that is not. -/
theorem witness_errors : (landing (.reply 3 0 1 true) 0).flights[0]? = some (flight 16 0 (.reply 3 0 1 true)) ∧ (flight 16 0 (.reply 3 0 1 true)).core = loads.core.id ∧
    (landing (.push 16 2 []) 0).flights[0]? = some (flight 16 0 (.push 16 2 [])) ∧ mx.victim 5 = none ∧ (1 : CtxId) ≠ 0 ∧
    (let used (s : State) : Nat := (s.power.droop.filter fun q => q.1 == 1 && q.2.1 == 0 && decide (s.clock < q.2.2 + 1024)).length
     let s (n : Nat) : State := { mx with power := { mx.power with droop := List.replicate n (1, 0, 0) } };
      used (s 63) < 64 ∧ 64 ≤ used (s 64) ∧ (s 64).power.thr = [] ∧
      ∃ p ∈ ({ s 64 with power := { (s 64).power with thr := [(1, 1)] } } : State).power.thr, p.1 = 1) := by decide
theorem witness_victim : mx.victim 1 = some 1 := by
  have h : (mx.onSite 1).filter (fun p => !mx.power.thr.contains (1, p.1)) = [(1, 0)] := by decide
  simp only [State.victim, h]
  show ([1] : List CtxId)[Config.freeDelay mx.free % 1]? = some 1
  simp [Nat.mod_one]
/-- A module that runs, with nothing done; the first message of a session. -/
def hosted : State := { mx with host := { boot := .running } }
def first : MsgHdr := { src := 0, ver := 1, flags := 3, seq := 0, session := 1, len := 32 }
/-- A launch record for image 1, key 9 (Table 14-7). -/
def oneRecord : List Byte := [1, 0, 0, 0, 0, 0, 15, 0, 9] ++ List.replicate 39 0
/-- HostMessages: the session, a record that is good and one that is not, contexts that are named and not, windows, keys. -/
theorem witness_session : hosted.reads first = true ∧ hosted.host.boot = .running ∧ (hosted.host.session first).done = [] ∧
    first.seq.toNat = (hosted.host.session first).next ∧ (hosted.host.session first).held = [] ∧ first.last = true ∧ first.answer = true ∧
    ({ first with flags := 1 } : MsgHdr).last = false ∧ first.len = 12 + (List.replicate 20 (0 : Byte)).length := by decide
theorem witness_heard : heard hosted first := by
  obtain ⟨r, a, b, c, d, -⟩ := witness_session
  exact ⟨r, a, fun e he => (by have h : e ∈ ([] : List (BitVec 32 × Byte)) := b ▸ he; cases h), c, d⟩
theorem witness_records : recordOk oneRecord = true ∧ (nodesOf oneRecord).map GNode.image = [1] ∧ recordOk [] = false ∧
    (hosted.named 1).map Context.id = some 1 ∧ hosted.named 0 = none ∧ windowOk 0 7 536870904 8 = true ∧ windowOk 0 7 536870904 9 = false ∧ hosted.bfGood 7 = true ∧
    hosted.core.id ∈ (oneCore 16).cores ∧ hosted.core.within 1 = true ∧ hosted.saved = [] ∧ (17 : CoreId) ∉ (oneCore 16).cores ∧
    (7 : Byte).toNat < 8 ∧ (List.replicate 32 (0 : Byte)).length = 32 ∧ hosted.bfGood ((recordOf oneRecord).garea.toNat / 2 ^ 29 % 8) = true ∧
    (∀ n ∈ nodesOf oneRecord, n.kind = 1) := by decide
/-- HostMessages: a payload longer than LEN, and as long as it, for each message that carries one. -/
theorem witness_lengths : ({ first with len := 0 } : MsgHdr).len = 0 ∧ heard hosted { first with len := 0 } ∧ heard hosted { first with len := 8944 } ∧
    1 + ([1] : List Byte).length + ([2] : List Byte).length ≤ 8944 ∧ (1 : Nat) < 9 := by
  refine ⟨rfl, ?_, ?_, by decide, by decide⟩ <;>
    exact ⟨by decide, by decide, fun e he => (by have h : e ∈ ([] : List (BitVec 32 × Byte)) := he; cases h), by decide, by decide⟩
/-- KEYSET: an empty key under whatever signature verifies; slot 0 takes none. -/
theorem witness_keyset (sig : List Byte) (h : Config.siradeKey ≠ []) (v : sigVerifies Config.siradeKey [1] sig = true) :
    (([] : List Byte) = [] ∨ rsa4096 (Config.rsaKey []) = true) ∧ Config.siradeKey ≠ [] ∧ sigVerifies Config.siradeKey ((1 : Byte) :: []) sig = true ∧
    1 ≤ (1 : Byte).toNat ∧ (1 : Byte).toNat ≤ 7 ∧ 7 < (8 : Byte).toNat := ⟨.inl rfl, h, v, by decide⟩
/-- The smallest image: one variant with no binding, signed under slot 1 (R62, R63, R65, R68). -/
def smallImage : List Byte := [0x4C, 0x4D, 0x4E, 0x49, 1, 0, 0, 0, 0, 0, 0, 0, 1, 0, 0, 0, 104, 0, 0, 0, 0, 0, 0, 0, 0, 1, 0, 0, 0, 0, 0, 0] ++
  [0x61] ++ List.replicate 31 0 ++ [5, 0, 0, 0, 80, 0, 0, 0, 24, 0, 0, 0, 0, 0, 0, 0] ++ List.replicate 24 0 ++ [1] ++ List.replicate 519 0
def keyedHost : HostUnit := { keys := (Vector.replicate 8 []).setIfInBounds 1 [7] }
theorem witness_image (v : sigVerifies [7] (smallImage.take 104) ((smallImage.drop 112).take 512) = true) :
    (match keyedHost.checkImage 1 smallImage with
      | .ok g => decide (g.id = 1)
      | _ => false) = true := by
  have h : keyedHost.signed smallImage = true := by
    have e : keyedHost.signed smallImage = (true && true && sigVerifies [7] (smallImage.take 104) ((smallImage.drop 112).take 512)) := rfl
    rw [e, v]; rfl
  unfold HostUnit.checkImage
  rw [h]
  decide +kernel
theorem witness_bad_image : keyedHost.checkImage 1 [] = .error 4 := rfl
/-- BootResetFid: a module still off, rails that pass, that fail and that pass the second time, fused, failed, routing-only and good sites,
step 8 after each outcome. -/
theorem witness_boot : let r (a b : Bool × Bool) : BootRes := { rails := a, timing := b, dies := [(1, false), (2, true)], edges := [], hbm := [], lpddr := [], mesh := [], pkg := 5 }
    let ok := r (true, true) (true, true)
    let u := mx.host
    let step (n : Nat) (x : BootRes) : StepRes := ((bootSteps u x).getD (n - 1) {}).res
    u.boot = .off ∧ step 1 ok ≠ .fail ∧ step 2 ok ≠ .fail ∧ step 1 (r (false, false) (true, true)) = .fail ∧ step 2 (r (true, true) (false, false)) = .fail ∧
    (({ u with fuses := [3] } : HostUnit).fuses.any fun f => f.toNat == 3) = true ∧ (2, 1) ∉ bootMarks u ok ∧ (∀ k ∈ [1, 3], (4, k) ∉ bootMarks u ok) ∧
    u.lastRes 8 = .pass ∧ ({ u with record := List.replicate 7 {} ++ [{ res := .alternate }] } : HostUnit).lastRes 8 = .alternate ∧
    ({ u with record := List.replicate 7 {} ++ [{ res := .fail }] } : HostUnit).lastRes 8 = .fail := by decide
theorem witness_messages : (let s := { hosted with host := { hosted.host with sessions := [{ id := 1, next := 1, done := [(0, 0)], held := [] }] } };
      s.host.boot ≠ .off ∧ s.reads first = true ∧ ((s.host.session first).done.find? fun d => d.1 == first.seq) = some (first.seq, 0) ∧ first.seq.toNat ≠ (s.host.session first).next) ∧
    1 ≤ first.len ∧ hosted.host.boot ≠ .off ∧ hosted.reads { first with len := 5 } = true ∧
    hosted.reads { first with src := 9 } = false ∧ hosted.reads { first with ver := 2 } = false ∧
    (let s := { hosted with host := { hosted.host with boot := .moored } };
      s.host.boot = .moored ∧ s.reads first = true ∧ (s.host.session first).done = [] ∧ first.seq.toNat = (s.host.session first).next) := by decide
theorem witness_fid : (hosted.ctxOf 1).isSome = true ∧ hosted.fidCore 16 = false ∧
    (let s := { hosted with ctxs := [{ oneCore 16 with phase := .halted }] }; (s.ctxOf 1).map Context.phase = some .halted ∧ s.fidCore s.core.id = true) ∧
    (hosted.mapCore fun c => { c with halted := true }).fidCore 16 = true ∧ (6 : BitVec 3) ≠ 7 ∧ (0x3FFFF8 : Dword).toNat < 2 ^ 24 ∧
    (0x3FFFF8 : Dword).toNat + 8 ≤ hosted.core.size ∧ 7 * (15 : HReg).toNat + 4 < 16384 ∧ 21 * 7 + 20 < 16384 ∧
    (let u := (withTrap mx fun u => { u with tl := true, stopped := 2 }).core.trap; u.tl = true ∧ u.stopped.getLsbD 1 = true ∧ u.stopped.getLsbD 0 = false) := by decide
/-- DecodeEncode: words of each engine with operands at the ends of their ranges. -/
theorem witness_encode : [Instr.add 31 0 31, .jal 0 0x20000, .mgo 15 63 31 1, .vfma 15 15 15 15, .cgo 31 31 31 1 1 6 7, .lpush 15 63 31 1, .gtab 31 31 31 1 4 3,
    .cred 31 31 31 2 2 7, .bar 1 63 5].all (fun i => i.isWord && i.selectorOk && i.unusedZero) = true := by decide
/-- StepKeepsSound, StepKeepsMemories: the reset state is sound, and steps. -/
theorem witness_reset_steps : (match step State.reset with
    | .next t => decide (t.core.id = 16)
    | _ => false) = true := by decide

/-! ### Witnesses of checks, of due effects, and of what the host and the fabric do -/

/-- AccessChecks: on the package with regions, an address in no window, within and past the share of die-shared scratch, planed and not, stage
memory within an entry and outside every entry, a page of it that stands at another home, pod memory, and the overflow zone. -/
theorem witness_window_checks : let x := rich 16
    let far : Context := { x with pages := [{ page := 0x0001000000000000, home := 1, off := 0, busy := false }] }
    let zone := linked.mapCore fun c => { c with spr := { c.spr with splb := 0x200000, splsz := 0x1000, ovfp := 0x0001000000001000 } }
    loads.ctx = some x ∧ (∀ v ∈ [0x200000000, 0x10001FFF8, 0x100020000, 0x100010000, 0x100000008, 0x0001000000000040, 0x0001000000200000],
      v % 8 = 0 ∧ loads.core.redirects v = false) ∧ loads.core.die.hasShared = true ∧ x.share loads.core.site = 0x20000 ∧
    (x.planeAt loads.core.site 0x100010000).isNone = true ∧ (x.planeAt loads.core.site 0x100000008).isSome = true ∧ loads.core.id ∈ x.members 5 ∧
    (17 : CoreId) ∉ x.members 5 ∧ x.entryAt 0x0001000000200000 = none ∧
    (x.entryAt 0x0001000000000040).any (fun e => e.cls == 0 && e.perm == 3 && x.pages.all fun p => p.page != e.pageOf 0x0001000000000040) = true ∧
    (far.entryAt 0x0001000000000040).any (fun e => far.homeOf e 0x0001000000000040 == (1, 64)) = true ∧
    linked.ctx = some (routed 16) ∧ ((routed 16).entryAt 0x0001000010000000).any (fun e => e.cls == 3 && e.perm == 3) = true ∧
    (routed 16).planeAt 1 0x0001000010000000 = none ∧ zone.core.redirects 0x1FFFF8 = true ∧
    zone.core.spr.ovfp - (zone.core.spr.splb.setWidth 64 - 0x1FFFF8) = 0x0001000000000FF8 ∧ zone.core.redirects 0x200000 = false := by decide
/-- AccessChecks: an access by each path of Table 5-3, with the cause of each check that fails (Table 5-4, R113, R120). -/
theorem test_window_checks : let got (s : State) (acc : Acc) (n : Nat) (a : Dword) : Option Byte := match s.checkAccess s.core acc n a with
      | .error e => some e.1
      | .ok _ => none
    [got loads .load 8 0x200000000, got loads .load 8 0x100020000, got loads .load 8 0x0001000000200000, got loads .amo 8 0x100000008,
      got loads .store 4 0x100000008, got loads .own 4 0x100010000, got linked .load 4 0x0001000010000000, got linked .load 8 0x0001000010000000,
      got loads .store 8 0x0001000000000040] = [some 5, some 5, some 6, some 9, some 9, some 9, some 5, none, none] := by decide
/-- QueueTransfersIssue: a queue transfer at an address that is no multiple of 64, and one past the end of scratch. -/
theorem witness_queue_faults : let s := withReg (withReg vx 5 1) 6 (0x400000 - 64)
    s.core.has 0 = true ∧ s.core.has 2 = true ∧ s.core.df 5 = false ∧ (6 : BitVec 3) ≠ 7 ∧ (1 : BitVec 2).toNat < 2 ∧ s.core.trap.tl = false ∧
    (s.core.g 5 + (0 : BitVec 13).signExtend 64).toNat % 64 ≠ 0 ∧ (s.core.g 6 + (0 : BitVec 13).signExtend 64).toNat % 64 = 0 ∧
    s.core.size < (s.core.g 6 + (0 : BitVec 13).signExtend 64).toNat + 64 * 2 ^ (6 : BitVec 3).toNat := by decide
/-- A core with effects of its engines under way. -/
def doing (s : State) (l : List LocalOp) : State := s.mapCore fun c => { c with fly := l }
/-- An effect of an engine that is due now. -/
def effOf (e : Nat) (x : LocalEff) : LocalOp := { due := 0, eng := e, pos := 0, eff := x }
/-- QueueTransfersIssue, Collectives: a store of CTL, a write of MTX and the end of a collective that are due, in the order of their turns; a
write of MTX that has to wait for an earlier one. -/
theorem witness_due : let st := effOf 0 (.ctl (.store 8 5) false 0x100 0x100)
    let wr := effOf 1 (.write false 0x100 [7])
    let ce := effOf 6 (.collEnd 2 (.ok []))
    let s := doing mx [ce, wr, st]
    let waits := doing mx [{ wr with pos := 4 }, { wr with due := 9 }]
    firstDue s.core.now s.core.fly = some (st, [ce, wr]) ∧ s.core.writesBefore st = none ∧ s.poison = [] ∧ (s.doLocal st).core.eoc = [] ∧
    firstDue 0 [ce] = some (ce, []) ∧ firstDue 0 [wr] = some (wr, []) ∧ (waits.core.writesBefore { wr with pos := 4 }) = some 9 := by decide
/-- R140: at one location the store of CTL performs before the write of MTX, whose byte stands at the end of the cycle. -/
theorem test_due_order : let s := doing mx [effOf 1 (.write false 0x100 [7]), effOf 0 (.ctl (.store 1 5) false 0x100 0x100)]
    ((s.localStep.bind fun t => t.localStep).map fun t => t.byteOf .scratch 0x100) = some 7 := by decide
/-- QueueTransfersIssue: a beat of LDQ is read, stays behind an earlier block of its queue, and enters behind none. -/
theorem witness_beats : let e : LocalOp := { effOf 0 (.enter 1 [1, 2]) with seq := 5 }
    let early := doing vx [{ effOf 0 (.beat 1 0x140) with seq := 4 }]
    (∃ x ∈ early.core.fly, x.seq < e.seq ∧ ((∃ k, x.eff = .beat 1 k) ∨ ∃ y, x.eff = .enter 1 y)) ∧ vx.core.fly = [] :=
  ⟨⟨_, List.mem_singleton.mpr rfl, by decide, .inl ⟨0x140, rfl⟩⟩, by decide⟩
/-- R124: a beat reads scratch, and two cycles later its bytes stand at the end of its queue. -/
theorem test_beat : let s := vx.mapCore fun c => { c with scratch := c.scratch.writeNat 0x140 2 0x0201 }
    let t := s.doLocal (effOf 0 (.beat 1 0x140))
    (t.core.fly.map fun o => (o.due, o.eff == .enter 1 ([1, 2] ++ List.replicate 62 0))) = [(2, true)] ∧
    (vx.doLocal (effOf 0 (.enter 1 [1, 2]))).core.vec.lq.getD 1 [] = [1, 2] := by decide
/-- TileMoves: a stage of MTRN in which the row that is read is not the last, and one in which it is; a running drain, an MGO and an MGVR at a
fault. -/
def turning (n : Nat) : TrnJob := {
  start := 0, pos := 0, m := 1, dst := 0x4000, src := 0x1000, shape := BitVec.ofNat 64 (512 + n * 65536 + 2 * 2 ^ 24), conv := 0, amx := true, rows := [], cfg := {} }
theorem witness_trn : let s (n : Nat) : State := tiled.mapCore fun c => { c with mtx := { c.mtx with trn := some (turning n) } }
    (s 1).core.mtx.trn = some (turning 1) ∧ shRows (turning 1).shape = 1 ∧ shRows (turning 2).shape = 2 ∧ 0 + 1 = shRows (turning 1).shape ∧
    0 + 1 < shRows (turning 2).shape := by decide
/-- R222, Table 9-5: after the last row of one the first block is due at n + 8, the flags at n + 135. -/
theorem test_trn : let s : State := tiled.mapCore fun c => { c with mtx := { c.mtx with trn := some (turning 1) }, scratch := c.scratch.writeNat 0x1000 4 0x40400000 }
    let t := s.doLocal (effOf 1 (.trnRow 0))
    t.core.mtx.tileAt 1 0 = 0x40400000 ∧ (t.core.fly.map LocalOp.due).take 1 = [9] ∧ (t.core.fly.map LocalOp.due).drop 128 = [136] ∧ t.core.fly.length = 129 := by
  decide +kernel
/-- A drain of two rows of one column, of the accumulators 9.5 and 1.0 under bound 1. -/
def draining (act : BitVec 2) : DrainJob := {
  start := 0, pos := 0, auto_ := false, kind := 0, index := 0, shape := 0x1020200, clr := true, addr := 0x4000, rows := []
  cfg := { bnd := (Vector.replicate 8 {}).set 1 { low := 0, high := 0x40A00000, act := act } } }
def drained (act : BitVec 2) : Core := { passing.core with mtx := { passing.core.mtx with
  cfw := 0x100000000000, acc := [(0, 0x41180000), (128, 0x3F800000)], job := some (draining act) } }
/-- MatrixPasses: a drain at its last row under a bound that traps, that clamps and marks, and that is off; residual rows and dropout; each kind. -/
theorem witness_drains : (drained 3).mtx.job = some (draining 3) ∧ (drained 3).mtx.prog = none ∧ shRows (draining 3).shape = 2 ∧ shCols (draining 3).shape = 1 ∧
    boundCheck ((draining 3).cfg.bnd.getD 1 {}) 0x41180000 = .trap 0x41180000 ∧ boundCheck ((draining 2).cfg.bnd.getD 1 {}) 0x41180000 = .keep 0x40A00000 ∧
    boundCheck ((draining 1).cfg.bnd.getD 1 {}) 0x41180000 = .flagged 0x41180000 ∧ boundCheck ((draining 3).cfg.bnd.getD 1 {}) 0x3F800000 = .keep 0x3F800000 ∧
    (draining 3).start + shRows (draining 3).shape ≤ 0 + 2 := by decide
/-- R213, R193: under a clamp both rows are due from the fifth cycle on at the pitch of 512, and CLR clears; under a trap the drain writes
nothing, and its element 0 is the detail (Table 8-12). -/
theorem test_drain : let d := (drained 2).commitDrain (draining 2)
    (d.fly.map fun o => (o.due, o.eff == .write false 0x4000 [0, 0, 0xA0, 0x40], o.eff == .write false 0x4200 [0, 0, 0x80, 0x3F])) =
      [(5, true, false), (6, false, true)] ∧ d.mtx.acc = [] ∧ d.mtx.job = none ∧
    (((drained 3).commitDrain (draining 3)).fly.map fun o => o.eff == .fault 0x10 0x0001000041180000) = [true] := by decide
/-- A stream of a record at 0x1000, and the MGVR that parses it. -/
def stream (l : List Nat) : Memory := l.zipIdx.foldl (fun (m : Memory) p => m.writeNat (0x1000 + 2 * p.2) 2 p.1) ([] : Memory)
def parsing : Gvp := {
  h := 2, w := 1, out := 0xC00, rows := 1, rel := false, srcs := [0x1000], slot := 64, tok := 0, row := 0, start := 0, st := {}, at_ := 0, total := 0
  orow := 0, sat := false, fin := none, bad := false, held := false, cfg := {} }
def oneGvc : Gvc := { len := 8, wide := false, lim := 2, abase := 0x400 }
/-- FormatQueueAndGroupedRows: a token of each kind that is well-formed, and one for each kind of Table 11-2; a token beyond the slots. -/
theorem witness_tokens : let tok (st : RowState) (n : Nat) : Option Nat := st.bad oneGvc (gvTok n)
    let open_ : RowState := { group := some (3, some 4), groups := 1, seen := [4] }
    parsing.row < parsing.rows ∧ 2 * parsing.tok < parsing.slot * parsing.srcs.length ∧ ¬(2 * ({ parsing with tok := 32 } : Gvp).tok < parsing.slot * parsing.srcs.length) ∧
    [tok {} 0x2000, tok {} 3, tok open_ 8, tok open_ 4, tok { open_ with group := some (3, none) } 4, tok {} 0x8000, tok { open_ with group := some (3, none) } 0x8000,
      tok open_ 0x4001, tok { groups := 2 } 0x4001, tok open_ 0xC000] = [some 10, some 1, some 7, some 5, some 6, some 3, some 2, some 4, some 8, some 9] ∧
    [tok {} 0x40FF, tok open_ 5, tok open_ 0x8000, tok {} 0xC000] = [none, none, none, none] := by decide
/-- R244: the tokens 3, position 0, position 1 ask for two activations; a position before any value is kind 1. -/
theorem test_tokens : let c : Core := { mx.core with scratch := stream [0x4003, 0, 1, 0x8000, 0xC000] }
    let r := c.gvTokens oneGvc 5 (parsing, [], none)
    r.2.1 = [.add 3 0x400, .add 3 0x401, .endRow] ∧ r.2.2 = none ∧ (r.1.row, r.1.tok) = (1, 5) ∧
    (({ c with scratch := stream [7] } : Core).gvTokens oneGvc 4 (parsing, [], none)).2.2 = some 0x0007000100000000 := by decide
/-- FormatQueueAndGroupedRows: the activations of a chunk with and without the end of a row. -/
theorem witness_sums : let s := mx.mapCore fun c => { c with mtx := { c.mtx with gvp := some parsing, gvc := some oneGvc } }
    s.core.mtx.gvp = some parsing ∧ s.core.mtx.gvc = some oneGvc ∧ (LocalEff.acts [.add 3 0x400, .endRow]) = .acts ([((3 : Int), 0x400)].map (fun x => .add x.1 x.2) ++ [.endRow]) := by
  decide
/-- R247: the activations 5 and 6 under the weight 3, as INT32 at the row's place. -/
theorem test_sums : let s := mx.mapCore fun c => { c with scratch := c.scratch.writeNat 0x400 2 0x0605
                                                          mtx := { c.mtx with gvp := some parsing, gvc := some oneGvc, cfw := 0x40000000000 } }
    let t := s.doLocal (effOf 1 (.acts [.add 3 0x400, .add 3 0x401, .endRow]))
    (t.core.fly.map fun o => (o.due, o.eff == .write false 0xC00 [33, 0, 0, 0])) = [(3, true)] := by decide
/-- FencesAndBarriers: a STEP that closes a step which is to be cancelled; the report of the pod for the instance at which the core stands, and
for another. -/
theorem witness_cancelled_step : let s := (arrived true 2 none).mapCore fun c => { c with step := some (5, true, 0) }
    let x : CtxId → State := fun _ => { s with ctxs := s.ctxs.map fun y => { y with cancels := [some 5] } }
    (x 1).core.step = some (5, true, 0) ∧ (∃ y, (x 1).ctx = some y ∧ some 5 ∈ y.cancels ∧ (x 1).core.id ∈ y.members 5) ∧
    ((x 1).coreAt 16).map Core.step = some (some (5, true, 0)) ∧ (s.releaseAt).isSome = true ∧
    (let p := arrived false 5 none;
      (p.core.ctx, (p.core.bar.map fun b => (b.step, b.id.setWidth 6))) = (1, some (false, (0 : BitVec 6))) ∧ ((1 : CtxId), false, (3 : BitVec 6)) ∉ p.podDone ∧
      let told (n : BitVec 6) : Option (List (CtxId × Bool × BitVec 6) × Nat) :=
        after .podBarrierExchange { p with podIn := [(1, false, n)] } fun t => (t.podDone, t.podIn.length);
      told 0 = some ([(1, false, 0)], 0) ∧ told 3 = some ([], 0)) := by
  refine ⟨by decide, ⟨_, rfl, by decide, by decide⟩, by decide, by decide, by decide⟩
/-- FabricEvents: an answer on a die that runs, whose data waits for the turn of LNK, and on one that is halted. -/
theorem witness_pod_data : let s := linked.mapCore fun c => { c with lnk := { c.lnk with podq := [oneGet] } }
    let halted := s.mapCore fun c => { c with halted := true }
    s.runsCycle s.core = true ∧ halted.runsCycle halted.core = false ∧ oneGet.kind = .get 0x2000 8 ∧ s.core.trap.pend = [] := by decide
/-- R298, R140: the data of a get stands in the effects of the cycle as one of LNK. -/
theorem test_pod_data : let s := linked.mapCore fun c => { c with lnk := { c.lnk with podq := [oneGet] } }
    after (.podAnswer 16 7 (.ok [1, 2, 3, 4, 5, 6, 7, 8])) s (fun t => (t.core.fly.map fun o => (o.eng, o.eff == .write false 0x2000 [1, 2, 3, 4, 5, 6, 7, 8]),
      t.core.lnk.podq.length)) = some ([(4, true)], 0) := by decide
/-- Collectives: a member of a CBC that is its root and one that is not; a core that ends a collective, and one on a halted die. -/
theorem witness_coll_ends : let k : Coll := { pos := 0, form := .red, group := 2, rop := 0, type := 0, dst := 0x1000, src := 0x1000, n := 1, seq := 7, members := [0] }
    let s := collecting.mapCore fun c => { c with colls := [k] }
    let ending := doing s [effOf 6 (.collEnd 2 (.ok []))]
    let two : State := { collecting with ctxs := [{ oneCore 320 with pods := [(2, [0, 1])] }] }
    s.core.collEnding 2 = false ∧ ending.core.collEnding 2 = true ∧ s.runsCycle s.core = true ∧
    (let h := s.mapCore fun c => { c with halted := true }; h.runsCycle h.core = false ∧ h.collFirst 2 h.core = true) ∧
    ([0, 1] : List (BitVec 13))[(two.core.rd 6 0).toNat % 2 ^ 13]? = some two.pkgid ∧ ([0, 1] : List (BitVec 13))[(two.core.rd 6 7).toNat % 2 ^ 13]? ≠ some two.pkgid := by
  decide
/-- CopyEvents: a schedule entry in stage memory whose words have been fetched, and one that has fetched none. -/
theorem witness_fetched : let b : SchedBind := { addr := 0x0001000000000000, count := 2, next := 0 }
    let s (l : List Dword) : State := withChan copying 2 fun h => { h with sched := some b, pendq := [0], fetched := !l.isEmpty, entry := l }
    ((s [1, 2, 3, 0]).core.ch 2).entry.length = 4 ∧ ((s []).core.ch 2).entry = [] ∧ isTranslated b.addr.toNat = true ∧ (s [1, 2, 3, 0]).core.entryDue = some 2 ∧
    (s []).core.entryDue = some 2 := by decide
/-- HostMessages: a poisoned word of a window and none; ErrorsAndPower: a package with a BF die that works and one with
none. -/
theorem witness_windows_poison : let p : State := { hosted with poison := [.hbm 1 64] }
    (∃ b ∈ List.range 8, mx.bfGood b = true) ∧ (¬∃ b ∈ List.range 8, ({ mx with mix := Vector.replicate 7 0x0D0D0D0D0D0D0D0D } : State).bfGood b = true) ∧
    p.poisoned (windowMem 1).has (2 ^ 37 * 1 + 64) 8 ≠ [] ∧ p.poisoned (windowMem 0).has 64 8 = [] ∧ windowOk 1 1 64 8 = true ∧ p.bfGood 1 = true ∧
    (2 ^ 37 : Nat) = Config.hbmBytes := by decide
/-- BootResetFid: a die of the host port that has failed, over which the fid still speaks; commands whose bytes LEN holds and does not hold. -/
theorem witness_sideband : let s : State := { hosted with mix := #v[0, 0, 0x0D00000000, 0, 0, 0, 0] }
    s.siteStatus 20 = 1 ∧ s.reads first = false ∧ s.host.reads first = true ∧ hosted.reads first = true ∧ hosted.siteStatus 20 = 0 ∧
    (FidCmd.writeMem 16 0 (List.replicate 33 0)).payload = 33 ∧ first.len < 33 ∧ FidUnit.width .acc * [(1 : Dword)].length ≤ first.len := by decide
/-- R338, R313: a word with a reserved bit after a WEV that holds CTL raises nothing while the hold lasts. -/
theorem test_held_fault : let s := (State.reset.withFetchWord 32 0xE2000001).mapCore fun c => c.modEng 0 fun x => { x with held := true }
    afterStep s (fun t => (t.core.trap.tl, (t.core.engOf 0).pc)) = some (false, 0) := by decide

end Sys2Proof.Tests
end

section
/-! Constants, jumps and CHK: what a word that writes one register, a steering word, and the entry of CTL's trap do, and the
statements of chapter 4 that follow from them. -/
namespace Sys2Proof.Machine

/-! ### Values and targets -/

theorem sextD_shl_13 (i : BitVec 18) : sextD i <<< 13 = BitVec.ofInt 64 (i.toInt * 2 ^ 13) := by
  rw [sextD, BitVec.signExtend, BitVec.shiftLeft_eq_mul_twoPow, BitVec.ofInt_mul]
  rfl

theorem branchTarget_eq {n : Nat} (pc : TextAddr) (o : BitVec n) : branchTarget pc o = pc + BitVec.ofInt 16 o.toInt := by
  have h : (BitVec.ofInt 64 o.toInt).setWidth 16 = BitVec.ofInt 16 o.toInt := by
    apply BitVec.eq_of_toNat_eq
    simp only [BitVec.toNat_setWidth, BitVec.toNat_ofInt]
    omega
  rw [branchTarget, BitVec.signExtend, h]

/-! ### What every control word shares -/

/-- A well-formed word of CTL that no check of the machine refuses runs on. -/
theorem gate_of_ctl {i : Instr} {s : State} (h0 : s.core.has 0 = true) (he : i.engNum = 0) (hn : noOp i = false) (hw : i.wf = true)
    (hd : dynFault s i = none) (r : Out) : gate i s r = r := by
  simp only [Instr.wf, Bool.and_eq_true] at hw
  obtain ⟨⟨hsel, hun⟩, hop⟩ := hw
  exact gate_clear i s r (decodeFault_none s i (.inr (by simpa [he] using h0)) hsel hun hop hd hn)

theorem engOf_congr {c c' : Core} (h : c.eng = c'.eng) (n : Nat) : c.engOf n = c'.engOf n := congrArg (·.getD n {}) h

/-- A step to the core that touches CTL's registers and the engines alone leaves the rest of the machine. -/
theorem onlyCtl_mapCore {s : State} {f : Core → Core} (h : f s.core = { s.core with ctl := (f s.core).ctl, eng := (f s.core).eng }) :
    onlyCtl s (s.mapCore f) := by
  refine ⟨congrArg (fun c => { s with core := c }) h, fun m a => ?_⟩
  have hscratch : (f s.core).scratch = s.core.scratch := by rw [h]
  have hwstack : (f s.core).wstack = s.core.wstack := by rw [h]
  cases m <;> simp [State.byteOf, State.memOf, hscratch, hwstack]

/-! ### Words that write one register (R79 to R82) -/

theorem aluWrite_eq (c : Core) (d : GReg) (v : Dword) (m : Bool) (lat : Nat) :
    aluWrite c d v m lat = { c with ctl := (aluWrite c d v m lat).ctl, eng := (aluWrite c d v m lat).eng } := by
  unfold aluWrite Core.issueCtl
  rw [issue_eq, toRetire_eq, writeG_eq]

theorem wrote_aluWrite (s : State) (d : GReg) (v : Dword) (m : Bool) (lat : Nat) :
    wrote s (s.mapCore fun c => aluWrite c d v m lat) d v m := fun r => by
  simp [aluWrite, Core.issueCtl, g_writeG, df_writeG]

theorem wentNext_issue {s : State} {c : Core} (hc : c.engOf = s.core.engOf) (k w : Nat) :
    wentNext s (s.mapCore fun _ => c.issue 0 k w) 0 := by
  obtain ⟨hpc, hmode, hbnd, hlate, hstop, hexited, hcause, hout⟩ := issue_at c 0 k w (by decide)
  unfold wentNext wentOn
  rw [← hc]
  exact ⟨hpc, hmode, hbnd, hlate, hstop, hexited, hcause, hout, fun n hn => issue_other c 0 k w n hn⟩

theorem wentNext_aluWrite (s : State) (d : GReg) (v : Dword) (m : Bool) (lat : Nat) :
    wentNext s (s.mapCore fun c => aluWrite c d v m lat) 0 :=
  wentNext_issue (c := (s.core.writeG d v m (s.core.now + lat)).toRetire _ none none) (funext fun n => by simp) 1 60

/-- A word of the arithmetic that no check refuses writes its register and goes on. -/
theorem aluWord_next {i : Instr} {s : State} {d : GReg} (v : Dword) (m : Bool) (lat : Nat) (hg : ∀ r, gate i s r = r) (hl : logFits s d) :
    ∃ t, aluWord i d v m lat s = .next t ∧ wrote s t d v m ∧ wentNext s t 0 ∧ onlyCtl s t :=
  ⟨_, (hg _).trans (logged_fits s d 1 _ hl), wrote_aluWrite s d v m lat, wentNext_aluWrite s d v m lat, onlyCtl_mapCore (aluWrite_eq ..)⟩

/-! ### Steering words (R33, R83 to R86, R312) -/

@[simp] theorem g_steer (c : Core) (t : Option TextAddr) (r : GReg) : (c.steer t).g r = c.g r := by
  cases t <;> simp [Core.steer, Core.goTo, Core.issueAs]
@[simp] theorem df_steer (c : Core) (t : Option TextAddr) (r : GReg) : (c.steer t).df r = c.df r := by
  cases t <;> simp [Core.steer, Core.goTo, Core.issueAs]

/-- What a steering word touches. -/
theorem steer_eq (c : Core) (t : Option TextAddr) : c.steer t = { c with ctl := (c.steer t).ctl, eng := (c.steer t).eng } := by
  cases t <;> simp only [Core.steer, Core.goTo, Core.issueAs, Core.modEng, Core.setEng, Core.toRetire]

theorem retq_writeG (c : Core) (d : GReg) (v : Dword) (m : Bool) (k : Nat) : (c.writeG d v m k).ctl.retq = c.ctl.retq := by
  unfold Core.writeG; split <;> rfl

/-- A steering word enters the retire queue with its outcome, or at trap level with none (R314). -/
theorem retq_steer (c : Core) (t : Option TextAddr) : (c.steer t).ctl.retq = c.ctl.retq ++
    [{ pos := (c.engOf 0).pos, due := c.now + 1, tag := none, outc := if c.trap.tl then none else some (t.elim .notTaken .taken) }] := by
  cases t <;> rfl

theorem engOf_steer_other (c : Core) (t : Option TextAddr) {n : Nat} (h : n ≠ 0) : (c.steer t).engOf n = c.engOf n := by
  cases t <;> simp [Core.steer, Core.goTo, Core.issueAs, engOf_modEng, h.symm]

/-- CTL after a steering word: at its target, or at the next word where it has none, with its modes as they were. -/
theorem engOf_steer_ctl (c : Core) (t : Option TextAddr) :
    let y := (c.steer t).engOf 0
    let x := c.engOf 0
    y.pc = t.getD (x.pc + 1) ∧ y.mode = x.mode ∧ y.bnd = x.bnd ∧ y.late = x.late ∧ y.stop = x.stop ∧ y.exited = x.exited ∧
    y.lastCause = x.lastCause ∧ y.outcomes = x.outcomes := by
  cases t <;> simp [Core.steer, Core.goTo, Core.issueAs, engOf_modEng]

/-- A steering word of a core whose registers alone may have been written before it. -/
theorem steer_steers {s : State} {c : Core} (hc : c = { s.core with ctl := c.ctl }) (hq : c.ctl.retq = s.core.ctl.retq)
    (t : Option TextAddr) (u : State) (hu : u = s.mapCore fun _ => c.steer t) :
    wentOn s u 0 (t.getD ((s.core.engOf 0).pc + 1)) ∧ steers s u (t.elim .notTaken .taken) ∧ onlyCtl s u := by
  subst hu
  have heng : c.engOf = s.core.engOf := by rw [hc]; rfl
  have htl : c.trap = s.core.trap := by rw [hc]
  obtain ⟨hpc, hmode, hbnd, hlate, hstop, hexited, hcause, hout⟩ := heng ▸ engOf_steer_ctl c t
  refine ⟨⟨hpc, hmode, hbnd, hlate, hstop, hexited, hcause, hout, fun n hn => heng ▸ engOf_steer_other c t hn⟩, ?_, ?_⟩
  · exact ⟨_, by rw [mapCore_core, retq_steer, hq], by rw [htl]⟩
  · refine onlyCtl_mapCore ((steer_eq c t).trans ?_)
    rw [hc]

/-- A steering word runs on when the outcome queues have room and its target, if any, is not the bank's in user mode. -/
theorem steerWord_run {s : State} {t : Option TextAddr} (hroom : s.core.steerRoom = true)
    (ht : ∀ a ∈ t, a.toNat < 63488 ∨ s.core.trap.mode = true) (run : Out) : steerWord t s run = run := by
  have hbank : toBank s.core t = none := by
    cases t with
    | none => rfl
    | some a =>
      refine if_neg ?_
      simp only [Bool.and_eq_true, decide_eq_true_eq, Bool.not_eq_true', not_and]
      intro hge hmode
      rcases ht a rfl with h | h
      · omega
      · exact Bool.noConfusion (hmode.symm.trans h)
  simp [steerWord, hbank, hroom]

theorem steerWord_bank {s : State} {a : TextAddr} (hmode : s.core.trap.mode = false) (ha : 63488 ≤ a.toNat) (run : Out) :
    steerWord (some a) s run = trapAt s 0 5 (a.setWidth 64) := by
  simp [steerWord, toBank, ha, hmode, zextD]

/-! ### The entry of a trap of CTL's word (R313) -/

theorem g_swapScr (c : Core) (r : GReg) : c.swapScr.g r = if r = 31 then c.trap.tscr else c.g r := by
  have h : c.swapScr.g r = _ := g_writeG c 31 r c.trap.tscr (c.df 31) c.now
  simpa using h

theorem df_swapScr (c : Core) (r : GReg) : c.swapScr.df r = c.df r := by
  have h : c.swapScr.df r = _ := df_writeG c 31 r c.trap.tscr (c.df 31) c.now
  rw [h]
  split
  · next hr => rw [hr.1]
  · rfl

theorem trap_swapScr (c : Core) : c.swapScr.trap = { c.trap with tscr := c.g 31, tscrTag := c.pendTag 31 } := by
  simp [Core.swapScr]

theorem epcNow_pc (c : Core) : c.epcNow.1.getD 0 0 = (c.engOf 0).pc := by
  simp [Core.epcNow, Vector.getD]

/-- CTL counts as stopped at its word; the marks of the six engines after it leave its own. -/
theorem epcNow_stopped (c : Core) : c.epcNow.2.getLsbD 0 = true := by
  have hrange : List.range 7 = [0, 1, 2, 3, 4, 5, 6] := rfl
  simp only [Core.epcNow, hrange, List.foldl]
  repeat rw [getLsbD_putBit _ _ _ _ (by decide)]
  rfl

section
variable (c : Core) (cause : Byte) (eng : BitVec 3) (async : Bool) (eval : Dword) (cyc : Nat)

theorem trap_enterTrap : (c.enterTrap cause eng async eval cyc).trap = { c.trap with
    cause := cause, ceng := eng, async := async, eval := eval, epc := c.epcNow.1, stopped := c.epcNow.2, stopPc := (c.engOf 0).pc
    pmode := c.trap.mode, tl := true, mode := (c.trap.handler cause).1, entry := cyc, snapAt := cyc
    tscr := c.g 31, tscrTag := c.pendTag 31 } := by
  rw [Core.enterTrap, modEng_trap, trap_swapScr]
  rfl

theorem g_enterTrap (r : GReg) : (c.enterTrap cause eng async eval cyc).g r = if r = 31 then c.trap.tscr else c.g r := by
  rw [Core.enterTrap, g_modEng, g_swapScr]
  rfl

theorem df_enterTrap (r : GReg) : (c.enterTrap cause eng async eval cyc).df r = c.df r := by
  rw [Core.enterTrap, df_modEng, df_swapScr]
  rfl

/-- CTL stands at its handler. -/
theorem engOf_enterTrap_ctl :
    let y := (c.enterTrap cause eng async eval cyc).engOf 0
    y.pc = (c.trap.handler cause).2 ∧ y.lastCause = (c.engOf 0).lastCause := by
  rw [Core.enterTrap, engOf_modEng, if_pos (by decide), engOf_congr (swapScr_eng _)]
  exact ⟨rfl, rfl⟩

theorem sameBytes_enterTrap (s : State) : sameBytes s (s.mapCore fun c => c.enterTrap cause eng async eval cyc) := fun m a => by
  cases m <;> simp [State.byteOf, State.memOf, Core.enterTrap]

end

theorem pc_noteCause (c : Core) (e : BitVec 3) (k : Byte) : ((c.noteCause e k).engOf 0).pc = (c.engOf 0).pc := by
  rw [Core.noteCause, engOf_modEng]
  split
  · next h => rw [h.1]
  · rfl

theorem lastCause_noteCause (c : Core) (k : Byte) : ((c.noteCause 0 k).engOf 0).lastCause = k := by
  rw [Core.noteCause, engOf_modEng, if_pos (by decide)]

/-- Outside a handler, a synchronous cause of CTL's word, or of an ALL word that fails decode, enters the cause's handler (R313). -/
theorem tookTrap_trapCtl {s : State} (htl : s.core.trap.tl = false) (cause : Byte) (eng : BitVec 3) (eval : Dword) :
    tookTrap s (s.mapCore fun c => c.trapCtl cause eng eval) cause eval eng := by
  let c := s.core.noteCause eng cause
  have hsame : c.trap = s.core.trap := rfl
  have htrap : s.core.trapCtl cause eng eval = c.enterTrap cause eng false eval (s.core.now + 1) := by simp [Core.trapCtl, htl, c]
  obtain ⟨hpc, hlast⟩ := engOf_enterTrap_ctl c cause eng false eval (s.core.now + 1)
  have hg := g_enterTrap c cause eng false eval (s.core.now + 1)
  have hdf := df_enterTrap c cause eng false eval (s.core.now + 1)
  have hbytes : sameBytes s _ := sameBytes_enterTrap cause eng false eval (s.core.now + 1) (s.mapCore fun _ => c)
  unfold tookTrap
  simp only [mapCore_core, htrap, trap_enterTrap, epcNow_pc, epcNow_stopped, hpc, hlast, hg, hdf, hsame,
    true_and, if_true]
  refine ⟨pc_noteCause .., ?_, rfl, ?_, ?_⟩
  · rintro rfl
    exact lastCause_noteCause ..
  · intro r hr
    exact ⟨if_neg hr, rfl⟩
  · simpa only [State.mapCore, htrap] using hbytes

/-! ### The statements -/

/-- Settles O3 (R81): the immediate, widened and moved up 13 bits, is its product by 2^13; LUI writes it as every word of the
arithmetic does. -/
theorem luiValue : Obligations.LuiValue := by
  intro s d i h0 hl
  have hg (r : Out) : gate (.lui d i) s r = r := gate_of_ctl h0 rfl rfl rfl rfl r
  rw [← sextD_shl_13]
  exact aluWord_next _ _ _ hg hl

/-- Settles O5 (R84): past the checks, JAL steers to its target a core in which nothing but the link has been written. -/
theorem jalLinks : Obligations.JalLinks := by
  intro s d o h0 hl hroom tgt htgt
  have htarget : branchTarget (s.core.engOf 0).pc o = tgt := branchTarget_eq _ o
  let c := s.core.writeG d (linkOf s.core) false (s.core.now + 1)
  let u := s.mapCore fun _ => c.steer (some tgt)
  have hrun : exec (.jal d o) s = .next u := by
    rw [exec_jal, execJal, gate_of_ctl h0 rfl rfl rfl rfl, htarget, steerWord_run hroom (by simpa using htgt), logged_fits s d 1 _ hl]
    rfl
  obtain ⟨hwent, hsteers, honly⟩ := steer_steers (c := c) (writeG_eq ..) (retq_writeG ..) (some tgt) u rfl
  have hwrote : wrote s u d (linkOf s.core) false := fun r => by simp [u, c, g_writeG, df_writeG]
  exact ⟨u, hrun, hwent, hwrote, hsteers, honly⟩

/-- Settles O7 (R86): CHK is a steering word whose target stands when the mark of its register is set; in user mode a target in the
firmware bank makes it a trap (R312). -/
theorem chkBranches : Obligations.ChkBranches := by
  intro s a o h0 tgt
  let t := if s.core.df a then some tgt else none
  have hexec : exec (.chk a o) s = steerWord t s (ok (s.mapCore fun c => c.steer t)) := by
    rw [exec_chk, execChk, gate_of_ctl h0 rfl rfl rfl rfl, branchTarget_eq]
  refine ⟨fun hroom hbank => ?_, fun hmark hmode htl htgt => ?_⟩
  · have htarget : ∀ p ∈ t, p.toNat < 63488 ∨ s.core.trap.mode = true := by simpa [t] using hbank
    have hrun : exec (.chk a o) s = .next _ := hexec.trans (steerWord_run hroom htarget _)
    have hpc : t.getD ((s.core.engOf 0).pc + 1) = if s.core.df a then tgt else (s.core.engOf 0).pc + 1 := by
      cases hm : s.core.df a <;> simp [t, hm]
    have hout : t.elim .notTaken .taken = if s.core.df a then Outc.taken tgt else .notTaken := by
      cases hm : s.core.df a <;> simp [t, hm]
    obtain ⟨hwent, hsteers, honly⟩ := steer_steers (c := s.core) rfl rfl t _ rfl
    have hregs : sameRegs s (s.mapCore fun c => c.steer t) := fun r => ⟨g_steer .., df_steer ..⟩
    exact ⟨_, hrun, hpc ▸ hwent, hregs, hout ▸ hsteers, fun ha => ha ▸ rfl, honly⟩
  · have ht : t = some tgt := if_pos hmark
    rw [ht, steerWord_bank hmode htgt] at hexec
    exact ⟨_, hexec, tookTrap_trapCtl htl 5 0 _⟩

end Sys2Proof.Machine
end
